-- ==== Sys2Proof/Word.lean ====
section
/-!
DEFINITION. The word type of the TH8 and the sparse tables (lists of key and value pairs)
that State is built from.
-/

namespace Sys2Proof

/-- An X register, an address or a 64-bit control register (R25). -/
abbrev Word := BitVec 64

/-- The smallest addressable unit (R5). -/
abbrev Byte := BitVec 8

/-- A V register or an accumulator row: 64 lanes of 32 bits (R25, R115). -/
abbrev VReg := BitVec 2048

/-- A 32-bit instruction parcel (R31). -/
abbrev Parcel := BitVec 32

/-- One aligned 64-byte line or phase-queue piece (R229). -/
abbrev Line := BitVec 512

/-- A sparse table: pairs of a number and a value; a number that is not listed stands for the table's default. -/
abbrev Tab (α : Type) := List (Nat × α)

/-- The entry of a table at `k`, or `d` where none is listed. -/
def Tab.get {α : Type} (d : α) (k : Nat) : Tab α → α
  | [] => d
  | (j, a) :: t => if j = k then a else Tab.get d k t

/-- The entry of a table at `k`, if one is listed. -/
def Tab.find {α : Type} (k : Nat) : Tab α → Option α
  | [] => none
  | (j, a) :: t => if j = k then some a else Tab.find k t

/-- The table with `a` at `k`, keys kept in rising order. -/
def Tab.set {α : Type} (k : Nat) (a : α) : Tab α → Tab α
  | [] => [(k, a)]
  | (j, b) :: t => if j = k then (k, a) :: t else if k < j then (k, a) :: (j, b) :: t else (j, b) :: Tab.set k a t

/-- The table without the key `k`. -/
def Tab.del {α : Type} (k : Nat) : Tab α → Tab α
  | [] => []
  | (j, b) :: t => if j = k then Tab.del k t else (j, b) :: Tab.del k t

/-- Every listed value changed by `f`, which may read its key. -/
def Tab.mapVals {α : Type} (f : Nat → α → α) (t : Tab α) : Tab α := t.map (fun p => (p.1, f p.1 p.2))

end Sys2Proof
end

