-- ==== Sys2Proof/Syntax/Fields.lean ====
section
/-!
DEFINITION. The field records of the five instruction formats (R36 to R41) and the arguments of the table's events.
-/

namespace Sys2Proof

/-- The class-independent fields of the first parcel but OP and LEN (R36): LA, GUARD.N and GUARD.P. -/
structure Hdr where
  la : BitVec 4
  gn : BitVec 1
  gp : BitVec 4
  deriving DecidableEq, Repr

/-- Format S (R37). -/
structure SF where
  imm : BitVec 16
  fl : BitVec 8
  sz : BitVec 2
  b : BitVec 4
  a : BitVec 4
  d : BitVec 4
  deriving DecidableEq, Repr

/-- Format SL: format S with a 48-bit immediate (R38). -/
structure SLF where
  imm : BitVec 48
  fl : BitVec 8
  sz : BitVec 2
  b : BitVec 4
  a : BitVec 4
  d : BitVec 4
  deriving DecidableEq, Repr

/-- Format E: format S and a 32-bit tail (R39). -/
structure EF where
  tail : BitVec 32
  imm : BitVec 16
  fl : BitVec 8
  sz : BitVec 2
  b : BitVec 4
  a : BitVec 4
  d : BitVec 4
  deriving DecidableEq, Repr

/-- Format V (R40). -/
structure VF where
  imm : BitVec 8
  rm : BitVec 4
  ty : BitVec 3
  msk : BitVec 4
  vb : BitVec 5
  xs : BitVec 4
  va : BitVec 5
  vd : BitVec 5
  deriving DecidableEq, Repr

/-- Format M (R41); its reserved bits are checked by the decoder and not kept. -/
structure MF where
  imm : BitVec 32
  rown : BitVec 8
  rowb : BitVec 8
  sc : BitVec 1
  fmt : BitVec 4
  xq : BitVec 4
  xs : BitVec 4
  xa : BitVec 4
  deriving DecidableEq, Repr

/-- A place a thread issues from: a barrel slot of a core, or a service slot of a quay (R10, R103). -/
structure Loc where
  svc : Bool
  unit : Nat
  slot : Nat
  deriving DecidableEq, Repr

/-- Page classes of R167. -/
inductive PageClass where
  | ordinary | readonly | ca | root | device | host | reserved
  deriving DecidableEq, Repr

/-- One leaf PTE (R167) with the virtual range it translates. The manual gives the fields and no bit layout: the model keeps
the fields (log entry 5). `frame` is an HDM offset, or the host IOVA of a HOST page (R315). -/
structure Pte where
  va : Nat
  lgs : Nat
  present : Bool
  write : Bool
  exec : Bool
  cls : PageClass
  key : Nat
  cow : Bool
  dirty : Bool
  accessed : Bool
  tagEn : Bool
  global : Bool
  frame : Nat
  deriving DecidableEq, Repr

/-- What a host write over CXL.mem changes: bytes of the HDM range, or a leaf of a context's tables, which are memory whose
layout the manual does not give (R304, R314; log entry 5). -/
inductive HostWrite where
  | bytes (off : Nat) (data : List Byte)
  | leaf (ctx : Nat) (p : Pte)
  deriving DecidableEq, Repr

/-- What an answer of the host's translation agent is for: the page asked about, and the size of the range that it returns (R315). -/
structure AtsRange where
  iova : Nat
  size : Nat
  deriving DecidableEq, Repr

/-- The way of a flush marker: the sending core, of another package, and one of up to 64 paths of the links to this one (R244). -/
structure MarkerPath where
  core : Nat
  path : Nat
  deriving DecidableEq, Repr

/-- The target of a register write with no row of its own (R8): a BAR0 offset, or one of the settings that the manual says the
host driver makes through Dzitis (R258, R266, R336, R369). -/
inductive RegTarget where
  | bar (off : Nat)
  | quantum (quay cls : Nat)
  | channelOwner (quay chan : Nat)
  | caPool (die : Nat)
  deriving DecidableEq, Repr

/-- The agents that record themselves in a snapshot (R390). -/
inductive SnapAgent where
  | core (phys : Nat)
  | lighter (quay : Nat)
  | collective (die : Nat)
  | sampler (die : Nat)
  | frontEnd (die : Nat)
  | quayCore (quay : Nat)
  deriving DecidableEq, Repr

/-- The answers a host gives to a PRI Page Request (R316). -/
inductive PriAnswer where
  | success | invalidRequest | responseFailure
  deriving DecidableEq, Repr

end Sys2Proof
end

