-- ==== Sys2Proof/Machine/Bits.lean ====
section
/-!
DEFINITION. The bit-field, sign-extension, byte-order and list helpers of the model (R5, R47, R60).
-/

namespace Sys2Proof

/-- Tail G: the third operand (R39). -/
def EF.c (f : EF) : BitVec 4 := f.tail.extractLsb' 0 4

/-- Tail G: the fourth operand (R39). -/
def EF.f (f : EF) : BitVec 4 := f.tail.extractLsb' 4 4

/-- Tail G: the reserved bits [31:8] of the tail (R39). -/
def EF.res (f : EF) : BitVec 24 := f.tail.extractLsb' 8 24

/-- The low `w` bits of a number as a number. -/
def lowBits (w n : Nat) : Nat := n % 2 ^ w

/-- Bits `[hi:lo]` of a number (R5). -/
def bits (hi lo n : Nat) : Nat := (n / 2 ^ lo) % 2 ^ (hi + 1 - lo)

/-- One bit of a number. -/
def bit (i n : Nat) : Bool := (n / 2 ^ i) % 2 == 1

/-- A Bool as the number 0 or 1. -/
def b2n (b : Bool) : Nat := if b then 1 else 0

/-- `n` read as two's complement of width `w`. -/
def toSigned (w n : Nat) : Int :=
  let m := n % 2 ^ w
  if 2 * m < 2 ^ w then (m : Int) else (m : Int) - (2 ^ w : Nat)

/-- An integer reduced modulo `2^w` (R60). -/
def ofSigned (w : Nat) (i : Int) : Nat := (i % ((2 ^ w : Nat) : Int)).toNat

/-- Sign extension of the low `w` bits of a number to a 64-bit word. -/
def sext64 (w n : Nat) : Word := BitVec.ofNat 64 (ofSigned 64 (toSigned w n))

/-- Zero extension of the low `w` bits of a number to a 64-bit word. -/
def zext64 (w n : Nat) : Word := BitVec.ofNat 64 (lowBits w n)

/-- The bytes of a number, little-endian (R5). -/
def toBytes : Nat → Nat → List Byte
  | 0, _ => []
  | k + 1, n => BitVec.ofNat 8 n :: toBytes k (n / 256)

/-- A number from its little-endian bytes (R5). -/
def ofBytes : List Byte → Nat
  | [] => 0
  | b :: t => b.toNat + 256 * ofBytes t

/-- The numbers `a, a+1, …, a+n-1`. -/
def upFrom (a : Nat) : Nat → List Nat
  | 0 => []
  | n + 1 => a :: upFrom (a + 1) n

/-- Index of the first element that meets `p`. -/
def firstIdx {α : Type} (p : α → Bool) : List α → Option Nat
  | [] => none
  | a :: t => if p a then some 0 else (firstIdx p t).map (· + 1)

/-- The list with its element `i` replaced. -/
def setNth {α : Type} (a : α) : Nat → List α → List α
  | _, [] => []
  | 0, _ :: t => a :: t
  | i + 1, b :: t => b :: setNth a i t

/-- The list without its element `i`. -/
def dropNth {α : Type} : Nat → List α → List α
  | _, [] => []
  | 0, _ :: t => t
  | i + 1, b :: t => b :: dropNth i t

end Sys2Proof
end

