-- ==== Sys2Proof/Machine/FieldChecks.lean ====
section
/-!
DEFINITION. The checks of step 4 of R49 on an instruction's fields, class by class: register codes, reserved fields, LA on
short majors, and the legal values of TY, FMT, SC and RM. An instruction that fails its check traps ILLEGAL.
For an event, the check is that the units it names exist (R1).
-/

namespace Sys2Proof

/-- A field that names an X register as R42 allows outside A and B: codes 0 to 10. -/
def isX (c : BitVec 4) : Bool := decide (c.toNat ≤ 10)

/-- A field limited to X0 to X9. -/
def isX9 (c : BitVec 4) : Bool := decide (c.toNat ≤ 9)

/-- Source A of S, SL and E: X, ZR or PC (R42). -/
def isA (c : BitVec 4) : Bool := decide (c.toNat ≤ 10) || c == 12

/-- Source B of S, SL and E: X, ZR or IMM (R42). -/
def isB (c : BitVec 4) : Bool := decide (c.toNat ≤ 11)

/-- The immediate of format S is zero unless B selects it (R46). -/
def immIfB (f : SF) : Bool := f.b == 11 || f.imm == 0

/-- LA is zero on a short major (R16). -/
def shortLA (h : Hdr) : Bool := h.la == 0

/-- Every field but LEN, OP, FN and GUARD is zero. -/
def bareS (h : Hdr) (f : SF) : Bool :=
  shortLA h && f.d == 0 && f.a == 0 && f.b == 0 && f.sz == 0 && f.fl == 0 && f.imm == 0

/-- Binary integer operations of majors 0x01 and 0x02 (R84, R86). -/
def wfBin (f : SF) : Bool := isX f.d && isA f.a && isB f.b && f.fl == 0 && immIfB f

/-- Unary integer operations of major 0x01 (R84). -/
def wfUn (f : SF) : Bool := isX f.d && f.a == 0 && isB f.b && f.fl == 0 && immIfB f

/-- Binary operations of major 0x03 (R84). -/
def wfBinX (f : SLF) : Bool := isX f.d && isA f.a && f.b == 11 && f.fl == 0

/-- Unary operations of major 0x03 (R84). -/
def wfUnX (f : SLF) : Bool := isX f.d && f.a == 0 && f.b == 11 && f.fl == 0

/-- Compares (R87). -/
def wfCmp (f : SF) : Bool :=
  isA f.a && isB f.b && immIfB f && f.fl.toNat / 4 == 0 && f.fl.toNat % 4 != 3

/-- PAND, POR and PXOR (R88). -/
def wfPred (f : SF) : Bool := f.fl.toNat / 4 == 0 && f.sz == 0 && f.imm == 0

/-- PNOT (R88). -/
def wfPnot (f : SF) : Bool := wfPred f && f.b == 0 && f.fl.toNat / 2 == 0

/-- PRD (R89). -/
def wfPrd (f : SF) : Bool := isX f.d && f.a == 0 && f.b == 0 && f.imm == 0 && f.sz == 0 && f.fl == 0

/-- PWR (R89). -/
def wfPwr (f : SF) : Bool := f.d == 0 && isA f.a && isB f.b && immIfB f && f.sz == 0 && f.fl == 0

/-- SEL (R90). -/
def wfSel (f : SF) : Bool := isX f.d && isA f.a && isB f.b && immIfB f && f.sz == 0 && f.fl.toNat / 16 == 0

/-- BFX, BFXU and BFI (R91). -/
def wfBf (f : SF) : Bool :=
  isX f.d && isA f.a && isB f.b && f.sz == 0 && f.fl == 0 &&
    (if f.b == 11 then f.imm.toNat / 4096 == 0 else f.imm == 0)

/-- LEA (R92). -/
def wfLea (f : SF) : Bool := isX f.d && isA f.a && isB f.b && immIfB f && f.sz == 0 && f.fl.toNat / 8 == 0

/-- B (R94). -/
def wfB (f : SF) : Bool := f.d == 0 && f.a == 0 && f.b == 0 && f.sz == 0 && f.fl == 0

/-- J and CALL (R95). -/
def wfJ (f : SLF) : Bool := f.d == 0 && f.a == 0 && f.b == 0 && f.sz == 0 && f.fl == 0

/-- JR and CALLR (R96). -/
def wfJr (f : SF) : Bool := f.d == 0 && isA f.a && f.b == 0 && f.sz == 0 && f.fl == 0

/-- TY codes of R43 that are integer types. -/
def tyInt (t : BitVec 3) : Bool := decide (4 ≤ t.toNat)

/-- The rules of R119 for a B operand; `anyImm` is major 0x26, where IMM8 is legal with every TY. -/
def wfVB (anyImm : Bool) (f : VF) : Bool :=
  if f.xs == 10 then f.imm == 0
  else if f.xs.toNat ≤ 9 then f.vb == 0 && f.imm == 0
  else f.xs == 11 && f.vb == 0 && (anyImm || tyInt f.ty)

/-- RM with SR clear, and with MODE clear for the integer types (R121). -/
def rmArith (f : VF) : Bool := f.rm.toNat / 8 == 0 && (!tyInt f.ty || f.rm.toNat % 4 == 0)

/-- VADD, VSUB and VMUL (R124, R126). -/
def wfVArith (f : VF) : Bool := isX f.msk && wfVB false f && rmArith f

/-- VFMA, VFMS and VFNMA: float types (R124). -/
def wfVFma (f : VF) : Bool := isX f.msk && wfVB false f && !tyInt f.ty && f.rm.toNat / 8 == 0

/-- VMIN and VMAX (R124, R126). -/
def wfVMinMax (f : VF) : Bool := isX f.msk && wfVB false f && f.rm == 0

/-- VABS and VNEG: any type but U8; SAT for integers only (R124, R126). -/
def wfVUnary (f : VF) : Bool :=
  isX f.msk && f.xs == 0 && f.vb == 0 && f.imm == 0 && f.ty != 7 &&
    (if tyInt f.ty then f.rm == 0 || f.rm == 4 else f.rm == 0)

/-- The bitwise and shift operations: integer types (R124). -/
def wfVInt (f : VF) : Bool := isX f.msk && wfVB false f && tyInt f.ty && f.rm == 0

/-- An X destination in VD (R120). -/
def isXD (v : BitVec 5) : Bool := decide (v.toNat ≤ 10)

/-- VCMP (R127). -/
def wfVCmp (f : VF) : Bool := isX f.msk && isXD f.vd && wfVB false f && f.rm == 0

/-- VSEL (R128). -/
def wfVSel (f : VF) : Bool := isX f.msk && wfVB false f && f.rm == 0

/-- The result formats on which SR is legal: BF16, F16 and FMT 4 to 8 (R45). -/
def srFmt (c : Nat) : Bool := c == 2 || c == 3 || (decide (4 ≤ c) && decide (c ≤ 8))

/-- The FMT code of a TY code that has one: F32, BF16, F16, F64 (R43, R44); 15 stands for the integer types. -/
def tyFmt (t : BitVec 3) : Nat :=
  if t == 0 then 1 else if t == 1 then 2 else if t == 2 then 3 else if t == 3 then 0 else 15

/-- VCVT (R129). -/
def wfVCvt (f : VF) : Bool :=
  isX f.msk && f.xs == 0 && f.vb == 0 && bits 6 4 f.imm.toNat == 0 && decide (bits 3 0 f.imm.toNat ≤ 10) &&
    (f.rm.toNat / 8 == 0 || srFmt (if bit 7 f.imm.toNat then tyFmt f.ty else bits 3 0 f.imm.toNat))

/-- The fields VQUANT and VDEQ share (R131, R132). -/
def wfVMx (f : VF) : Bool :=
  f.msk == 10 && isX f.xs && f.vb == 0 && decide (f.ty.toNat ≤ 2) && f.imm.toNat / 16 == 0 &&
    decide (4 ≤ f.imm.toNat % 16) && decide (f.imm.toNat % 16 ≤ 10)

/-- VQUANT: SR for FMT 4 to 8 (R131). -/
def wfVQuant (f : VF) : Bool := wfVMx f && (f.rm.toNat / 8 == 0 || decide (f.imm.toNat % 16 ≤ 8))

/-- VDEQ: SR for TY BF16 and F16 (R132). -/
def wfVDeq (f : VF) : Bool := wfVMx f && (f.rm.toNat / 8 == 0 || f.ty != 0)

/-- VRED.SUM (R133). -/
def wfVRedSum (f : VF) : Bool :=
  isX f.msk && isXD f.vd && f.xs == 0 && f.vb == 0 && f.imm == 0 &&
    (if tyInt f.ty then f.rm == 0 else f.rm.toNat / 4 == 0)

/-- VRED.MAX and VRED.MIN (R133). -/
def wfVRed (f : VF) : Bool := isX f.msk && isXD f.vd && f.xs == 0 && f.vb == 0 && f.imm == 0 && f.rm == 0

/-- VRED.ARGMAX refuses F64 (R133). -/
def wfVArg (f : VF) : Bool := wfVRed f && f.ty != 3

/-- VPERM (R136). -/
def wfVPerm (f : VF) : Bool := isX f.msk && f.xs == 0 && f.imm == 0 && f.rm == 0

/-- VBCAST (R136). -/
def wfVBcast (f : VF) : Bool := isX f.msk && f.va == 0 && wfVB true f && f.rm == 0

/-- VSLUP and VSLDN (R136). -/
def wfVSl (f : VF) : Bool := isX f.msk && wfVB true f && f.rm == 0

/-- VIOTA (R136). -/
def wfVIota (f : VF) : Bool := wfVBcast f && f.ty != 3

/-- VMOVX (R136). -/
def wfVMovx (f : VF) : Bool :=
  f.msk == 10 && isXD f.vd && f.xs == 0 && f.vb == 0 && f.rm == 0 && f.imm.toNat / 64 == 0 &&
    (f.ty != 3 || f.imm.toNat / 32 == 0)

/-- VMOVV (R136). -/
def wfVMovv (f : VF) : Bool := isX f.msk && f.xs == 0 && f.vb == 0 && f.imm == 0 && f.rm == 0

/-- XS of the dot products: ZR, or an even code 0 to 8 (R137). -/
def dotXs (c : BitVec 4) : Bool := c == 10 || (decide (c.toNat ≤ 8) && c.toNat % 2 == 0)

/-- VDOT8 (R137). -/
def wfVDot8 (f : VF) : Bool :=
  isX f.msk && dotXs f.xs && f.ty == 0 && f.rm == 0 &&
    decide (4 ≤ f.imm.toNat % 16) && decide (f.imm.toNat % 16 ≤ 8) &&
    decide (4 ≤ f.imm.toNat / 16) && decide (f.imm.toNat / 16 ≤ 8)

/-- VDOTI8 (R138). -/
def wfVDotI8 (f : VF) : Bool :=
  isX f.msk && dotXs f.xs && f.rm == 0 && (if f.xs == 10 then f.ty == 4 else f.ty == 0) &&
    (f.imm.toNat % 16 == 9 || f.imm.toNat % 16 == 10) && f.imm.toNat / 16 == 9

/-- Major 0x28 (R139). -/
def wfVTrans (f : VF) : Bool :=
  isX f.msk && f.ty == 0 && f.xs == 0 && f.vb == 0 && f.imm == 0 && f.rm.toNat / 4 == 0

/-- VLD and VST (R175). -/
def wfVMem (f : VF) : Bool := isX f.msk && isX f.xs && f.va == 0 && f.vb == 0 && f.rm == 0

/-- VLDS and VSTS (R175). -/
def wfVMemS (f : VF) : Bool := isX f.msk && isX f.xs && f.va == 0 && decide (f.vb.toNat ≤ 10) && f.rm == 0

/-- VLDG and VSTG (R175). -/
def wfVMemG (f : VF) : Bool := isX f.msk && isX f.xs && f.va == 0 && f.rm == 0

/-- Depth Kd of a weight format (R142). -/
def depthOf (fmt : Nat) : Nat :=
  if fmt == 0 then 8 else if fmt == 2 || fmt == 3 then 64 else if fmt == 8 then 256 else if fmt == 10 then 512 else 128

/-- The fields WLOAD and MMA share (R44, R144, R145). -/
def wfM (f : MF) : Bool :=
  isX f.xa && isX f.xs && (if f.sc == 1 then isX f.xq && decide (4 ≤ f.fmt.toNat) else f.xq == 0) &&
    f.fmt != 1 && f.imm != 0 && (decide (f.fmt.toNat < 4) || f.imm.toNat % 32 == 0)

/-- WLOAD (R144, R145). -/
def wfWload (f : MF) : Bool :=
  wfM f && decide (f.fmt.toNat ≤ 10) && decide (f.imm.toNat ≤ depthOf f.fmt.toNat) && f.rowb == 0 && f.rown == 0

/-- Largest K of an MMA's stream format (R145). -/
def mmaK (fmt : Nat) : Nat := if fmt == 0 then 8 else if fmt ≤ 3 then 64 else if fmt ≤ 8 then 256 else 512

/-- MMA and MMA.ACC (R144, R145). -/
def wfMma (f : MF) : Bool :=
  wfM f && decide (f.fmt.toNat ≤ 9) && decide (f.imm.toNat ≤ mmaK f.fmt.toNat) &&
    decide (f.rowb.toNat + f.rown.toNat ≤ 255)

/-- GANG.JOIN (R155). -/
def wfJoin (f : SF) : Bool :=
  f.fl != 0 && f.imm.toNat / 2048 == 0 && f.d == 0 && f.a == 0 && f.b == 0 && f.sz == 0

/-- AZERO (R159). -/
def wfAzero (f : SF) : Bool := f.d == 0 && isA f.a && f.b == 0 && f.sz == 0 && f.fl.toNat / 2 == 0

/-- ASWAP (R159). -/
def wfAswap (f : SF) : Bool := f.d == 0 && f.a == 0 && f.b == 0 && f.sz == 0 && f.fl == 0 && f.imm == 0

/-- AREAD and AWRITE (R159). -/
def wfArow (f : SF) : Bool :=
  f.d == 0 && isA f.a && f.b == 0 && f.sz == 0 && f.fl.toNat / 32 == 0 && f.imm.toNat / 256 == 0

/-- ASTAT (R159). -/
def wfAstat (f : SF) : Bool := isX f.d && f.a == 0 && f.b == 0 && f.sz == 0 && f.fl == 0 && f.imm == 0

/-- The address fields of R169: the scale is 00 unless B is X0 to X9, and IMM16 is zero unless B = 11. -/
def wfMem (a b : BitVec 4) (fl : BitVec 8) (imm : BitVec 16) : Bool :=
  isA a && isB b && (decide (b.toNat ≤ 9) || fl.toNat % 4 == 0) && (b == 11 || imm == 0)

/-- LD and LDS (R170). -/
def wfLd (f : SF) : Bool := isX f.d && wfMem f.a f.b f.fl f.imm && f.fl.toNat / 4 == 0

/-- ST (R171). -/
def wfSt (f : SF) : Bool := isX f.d && wfMem f.a f.b f.fl f.imm && f.fl.toNat / 8 == 0

/-- B-operations (R178); `axpy` is BAXPY.F32, whose F is a register. -/
def wfBank (axpy : Bool) (f : EF) : Bool :=
  wfMem f.a f.b f.fl f.imm && f.fl.toNat / 128 == 0 && f.d == 0 && f.sz == 0 && isX f.c && f.res == 0 &&
    (if axpy then isX f.f else f.f == 0)

/-- Atomics (R181). -/
def wfAtom (f : SF) : Bool :=
  isX f.d && isA f.a && isB f.b && immIfB f && f.sz.toNat ≤ 1 && f.fl.toNat / 16 == 0 &&
    (f.fl.toNat % 4 != 0 || f.fl == 0)

/-- PHASE, PHASE.PUB and PHASE.REF (R187). -/
def wfPhase (f : SF) : Bool :=
  f.d == 0 && f.a == 0 && f.b == 0 && f.sz == 0 && f.imm == 0 && f.fl.toNat % 4 == 0 && f.fl.toNat / 16 == 0

/-- WATCH (R188). -/
def wfWatch (f : SF) : Bool := isA f.a && isX f.b && f.sz == 0 && f.fl == 0 && f.imm.toNat / 2048 == 0

/-- UNWATCH (R188). -/
def wfUnwatch (f : SF) : Bool := isA f.a && f.b == 0 && f.sz == 0 && f.fl == 0 && f.imm.toNat / 2048 == 0

/-- SPAWN (R204). -/
def wfSpawn (f : EF) : Bool :=
  wfMem f.a f.b f.fl f.imm && f.fl.toNat / 4 == 0 && f.d == 0 && f.sz == 0 && f.tail.toNat / 4096 == 0

/-- MIGRATE (R208). -/
def wfMigrate (f : SF) : Bool := f.d == 0 && isX f.a && f.b == 0 && f.sz == 0 && f.fl == 0 && f.imm == 0

/-- MOBILE, REPB and REPX: D is a predicate index and every other field is zero (R209, R272). -/
def wfPredOnly (f : SF) : Bool := f.a == 0 && f.b == 0 && f.sz == 0 && f.fl == 0 && f.imm == 0

/-- SEND (R218). -/
def wfSend (f : EF) : Bool :=
  isA f.a && isX f.b && isX f.c && isX f.f && f.res == 0 && f.d == 0 && f.sz == 0 && f.imm.toNat / 2048 == 0 &&
    (f.fl == 0 || f.fl == 16)

/-- WAIT (R217). -/
def wfWait (f : SF) : Bool := isA f.a && isX f.b && f.d == 0 && f.sz == 0 && f.imm.toNat / 4096 == 0

/-- ARRIVE and BAR (R221); NR is legal in BAR only. -/
def wfArrive (bar : Bool) (f : SF) : Bool :=
  isA f.a && f.b == 0 && f.d == 0 && f.sz == 0 && f.imm.toNat / 2048 == 0 && f.fl.toNat % 4 == 0 &&
    f.fl.toNat / 64 == 0 && (bar || f.fl.toNat / 32 == 0)

/-- BCFG (R222). -/
def wfBcfg (f : EF) : Bool :=
  isA f.a && isX f.b && f.d == 0 && f.imm == 0 && f.fl == 0 && f.sz == 0 && f.tail.toNat / 2048 == 0

/-- BREAD (R222). -/
def wfBread (f : EF) : Bool :=
  isA f.a && f.b == 0 && isX f.d && f.imm == 0 && f.fl == 0 && f.sz == 0 && f.tail.toNat / 2048 == 0

/-- BCLR (R222). -/
def wfBclr (f : EF) : Bool :=
  isA f.a && f.b == 0 && f.d == 0 && f.imm == 0 && f.fl == 0 && f.sz == 0 && f.tail.toNat / 2048 == 0

/-- CPUT (R226). -/
def wfCput (f : EF) : Bool :=
  isX f.a && f.b == 0 && isX f.c && f.f == 0 && f.res == 0 && f.sz == 0 && f.imm.toNat / 2048 == 0 &&
    (f.fl == 0 || f.fl == 16)

/-- CGET without REL (R227). -/
def wfCget (f : EF) : Bool :=
  f.a == 0 && f.b == 0 && f.c == 0 && isX f.f && f.res == 0 && f.sz == 0 && f.imm.toNat / 2048 == 0 && f.fl == 0

/-- CGET.REL (R227). -/
def wfCgetRel (f : EF) : Bool :=
  f.a == 0 && f.b == 0 && f.d == 0 && f.tail == 0 && f.sz == 0 && f.imm.toNat / 2048 == 0 && f.fl == 1

/-- BTX (R270). -/
def wfBtx (f : EF) : Bool :=
  isX f.a && isB f.b && (f.b == 11 || f.imm == 0) && f.d == 0 && f.sz == 0 && f.fl == 0 && f.tail.toNat / 64 == 0

/-- BTABORT (R270). -/
def wfBtabort (f : EF) : Bool :=
  isX f.a && f.b == 0 && f.imm == 0 && f.d == 0 && f.sz == 0 && f.fl == 0 && f.tail.toNat / 64 == 0

/-- REPE (R272). -/
def wfRepe (f : SF) : Bool := isX f.a && isB f.b && immIfB f && f.sz == 0

/-- COLL (R277). -/
def wfColl (f : EF) : Bool :=
  wfMem f.a f.b f.fl f.imm && isX f.d && f.tail == 0 && f.sz == 0 && f.fl.toNat / 4 == 0

/-- DRAW (R345). -/
def wfDraw (f : EF) : Bool :=
  isX f.d && isX f.a && isX9 f.b && isX f.c && isX f.f && f.res == 0 && f.fl == 0 && f.imm == 0 && f.sz == 0

/-- The slate field numbers of R337. -/
def isField (n : Nat) : Bool := decide (n ≤ 26)

/-- SLR (R341). -/
def wfSlr (f : EF) : Bool :=
  isX f.d && isX f.a && f.b == 0 && f.tail == 0 && f.fl == 0 && f.sz == 0 && isField f.imm.toNat

/-- SLW (R341). -/
def wfSlw (f : EF) : Bool :=
  f.d == 0 && isX f.a && isB f.b && (f.b == 11 || f.tail == 0) && f.fl == 0 && f.sz == 0 && isField f.imm.toNat

/-- FORCE (R341). -/
def wfForce (f : EF) : Bool :=
  isX f.d && isX f.a && isX9 f.b && f.imm == 0 && f.fl == 0 && f.sz == 0 &&
    decide (1 ≤ f.tail.toNat) && decide (f.tail.toNat ≤ 64)

/-- GSET (R341). -/
def wfGset (f : EF) : Bool :=
  isX f.d && isX f.a && isB f.b && (f.b == 11 || f.imm == 0) && f.tail == 0 && f.fl == 0 && f.sz == 0

/-- ACCEPT (R349). -/
def wfAccept (f : EF) : Bool :=
  isX f.d && isX f.a && isX9 f.b && f.tail == 0 && f.fl == 0 && f.imm == 0 && f.sz == 0

/-- KVPUT (R351). -/
def wfKvput (f : EF) : Bool :=
  isX f.d && isX f.a && isX9 f.b && isX f.c && isX f.f && f.res == 0 && f.imm == 0 && f.sz == 0 && f.fl.toNat / 2 == 0

/-- KVCOMMIT: the count may be code 11, whose immediate IMM16 is zero (R351, R46). -/
def wfKvcommit (f : EF) : Bool :=
  isX f.d && isX f.a && isB f.b && f.tail == 0 && f.imm == 0 && f.sz == 0 && f.fl == 0

/-- SEAL (R372). -/
def wfSeal (f : EF) : Bool :=
  isX f.d && isX f.a && isX9 f.b && decide (f.fl.toNat ≤ 8) && f.imm == 0 && f.sz == 0 && f.tail == 0

/-- SFETCH (R372). -/
def wfSfetch (f : EF) : Bool :=
  f.d == 0 && isX f.a && isX9 f.b && f.fl == 0 && f.imm == 0 && f.sz == 0 && f.tail == 0

/-- RETAIN without .R, and DROP (R372). -/
def wfRetain (f : EF) : Bool :=
  isX f.d && isX f.a && f.b == 0 && f.fl == 0 && f.imm == 0 && f.sz == 0 && f.tail == 0

/-- RETAIN.R (R372). -/
def wfRetainR (f : EF) : Bool :=
  isX f.d && isX f.a && isX9 f.b && f.fl == 1 && f.imm == 0 && f.sz == 0 && f.tail == 0

/-- SWAPROOT (R372). -/
def wfSwaproot (f : EF) : Bool :=
  isX f.d && isX f.a && isX9 f.b && f.fl == 0 && f.imm == 0 && f.sz == 0 && f.tail == 0

/-- COPYOUT (R372). -/
def wfCopyout (f : EF) : Bool :=
  f.d == 0 && isX f.a && isB f.b && (f.b == 11 || f.imm == 0) && f.fl.toNat / 64 == 0 && f.sz == 0 && f.tail == 0

/-- SNAP (R391). -/
def wfSnap (f : SF) : Bool :=
  isX f.d && f.a == 0 && f.b == 0 && f.sz == 0 && f.fl == 0 && f.imm.toNat / 2048 == 0

/-- SNAPQ and ROLLBACK (R391). -/
def wfSnapq (f : SF) : Bool := isX f.d && isX f.a && f.b == 0 && f.sz == 0 && f.fl == 0 && f.imm == 0

/-- CRR (R98). -/
def wfCrr (f : SF) : Bool := isX f.d && f.a == 0 && f.b == 0 && f.sz == 0 && f.fl == 0 && f.imm.toNat / 4096 == 0

/-- CRW (R98). -/
def wfCrw (f : SF) : Bool := f.d == 0 && isA f.a && f.b == 0 && f.sz == 0 && f.fl == 0 && f.imm.toNat / 4096 == 0

/-- The causes TRAP may raise (R100). -/
def trapCause (c : Nat) : Bool :=
  (decide (1 ≤ c) && decide (c ≤ 8)) || (decide (0x0A ≤ c) && decide (c ≤ 0x11)) || c == 0x14

/-- TRAP (R100). -/
def wfTrap (f : SF) : Bool := f.d == 0 && isA f.a && f.b == 0 && f.sz == 0 && f.fl == 0 && trapCause f.imm.toNat

/-- SVC and BREAK (R101). -/
def wfSvc (f : SF) : Bool := f.d == 0 && f.a == 0 && f.b == 0 && f.sz == 0 && f.fl == 0

/-- ERET (R106). -/
def wfEret (f : SF) : Bool :=
  f.d == 0 && f.a == 0 && f.b == 0 && f.sz == 0 && f.imm == 0 && f.fl.toNat / 4 == 0

/-- PAIR and UNPAIR (R109). -/
def wfPair (f : SF) : Bool := isA f.a && f.b == 0 && f.sz == 0 && f.fl == 0 && f.imm == 0

/-- A physical core index (R1). -/
def isCore (n : Nat) : Bool := decide (n < 4096)

/-- A barrel or service slot that exists (R1, R103). -/
def isLoc (l : Loc) : Bool := (if l.svc then decide (l.unit < 128) else isCore l.unit) && decide (l.slot < 16)

/-- A unit that holds an array of R408: a core, a quay, a slate, or the die of an engine, a front end or a link. -/
def isArrayAt (array place : Nat) : Bool :=
  if array = 2 then decide (place < 128) else if array = 9 then decide (place < 32768)
  else if array = 10 ∨ array = 11 ∨ array = 12 then decide (place < 8) else array == 0 || (decide (array ≤ 8) && isCore place)

/-- The agents of R390 that exist. -/
def isAgent : SnapAgent → Bool
  | .core p => isCore p
  | .lighter q => decide (q < 128)
  | .collective d => decide (d < 8)
  | .sampler d => decide (d < 8)
  | .frontEnd d => decide (d < 8)
  | .quayCore q => decide (q < 128)

end Sys2Proof
end

