-- ==== Sys2Proof/Syntax.lean ====
section
/-!
DEFINITION. The steps of the TH8: one constructor for every row of spec/opcode_table.json. The 209 instructions carry the
fields of their format (R36 to R41); the pad parcel carries nothing (R32); the 77 events carry what names the item they act on.
-/

namespace Sys2Proof

/-- The instructions and events of the opcode table. -/
inductive Instr where
  /-- PAD_PARCEL (R32). -/
  | padParcel
  /-- NOP (R93). -/
  | nop (h : Hdr) (f : SF)
  /-- ADD (R85). -/
  | add (h : Hdr) (f : SF)
  /-- SUB (R85). -/
  | sub (h : Hdr) (f : SF)
  /-- AND (R85). -/
  | andI (h : Hdr) (f : SF)
  /-- OR (R85). -/
  | orI (h : Hdr) (f : SF)
  /-- XOR (R85). -/
  | xor (h : Hdr) (f : SF)
  /-- ANDN (R85). -/
  | andn (h : Hdr) (f : SF)
  /-- ORN (R85). -/
  | orn (h : Hdr) (f : SF)
  /-- SHL (R85). -/
  | shl (h : Hdr) (f : SF)
  /-- SHR (R85). -/
  | shr (h : Hdr) (f : SF)
  /-- SAR (R85). -/
  | sar (h : Hdr) (f : SF)
  /-- ROL (R85). -/
  | rol (h : Hdr) (f : SF)
  /-- ROR (R85). -/
  | ror (h : Hdr) (f : SF)
  /-- MIN (R85). -/
  | minI (h : Hdr) (f : SF)
  /-- MAX (R85). -/
  | maxI (h : Hdr) (f : SF)
  /-- MINU (R85). -/
  | minu (h : Hdr) (f : SF)
  /-- MAXU (R85). -/
  | maxu (h : Hdr) (f : SF)
  /-- MUL (R85). -/
  | mul (h : Hdr) (f : SF)
  /-- MULH (R85). -/
  | mulh (h : Hdr) (f : SF)
  /-- MULHU (R85). -/
  | mulhu (h : Hdr) (f : SF)
  /-- CLZ (R85). -/
  | clz (h : Hdr) (f : SF)
  /-- CTZ (R85). -/
  | ctz (h : Hdr) (f : SF)
  /-- POPC (R85). -/
  | popc (h : Hdr) (f : SF)
  /-- BREV (R85). -/
  | brev (h : Hdr) (f : SF)
  /-- BSWAP (R85). -/
  | bswap (h : Hdr) (f : SF)
  /-- DIV (R86). -/
  | div (h : Hdr) (f : SF)
  /-- DIVU (R86). -/
  | divu (h : Hdr) (f : SF)
  /-- REM (R86). -/
  | rem (h : Hdr) (f : SF)
  /-- REMU (R86). -/
  | remu (h : Hdr) (f : SF)
  /-- ADD_X (R84). -/
  | addX (h : Hdr) (f : SLF)
  /-- SUB_X (R84). -/
  | subX (h : Hdr) (f : SLF)
  /-- AND_X (R84). -/
  | andX (h : Hdr) (f : SLF)
  /-- OR_X (R84). -/
  | orX (h : Hdr) (f : SLF)
  /-- XOR_X (R84). -/
  | xorX (h : Hdr) (f : SLF)
  /-- ANDN_X (R84). -/
  | andnX (h : Hdr) (f : SLF)
  /-- ORN_X (R84). -/
  | ornX (h : Hdr) (f : SLF)
  /-- SHL_X (R84). -/
  | shlX (h : Hdr) (f : SLF)
  /-- SHR_X (R84). -/
  | shrX (h : Hdr) (f : SLF)
  /-- SAR_X (R84). -/
  | sarX (h : Hdr) (f : SLF)
  /-- ROL_X (R84). -/
  | rolX (h : Hdr) (f : SLF)
  /-- ROR_X (R84). -/
  | rorX (h : Hdr) (f : SLF)
  /-- MIN_X (R84). -/
  | minX (h : Hdr) (f : SLF)
  /-- MAX_X (R84). -/
  | maxX (h : Hdr) (f : SLF)
  /-- MINU_X (R84). -/
  | minuX (h : Hdr) (f : SLF)
  /-- MAXU_X (R84). -/
  | maxuX (h : Hdr) (f : SLF)
  /-- MUL_X (R84). -/
  | mulX (h : Hdr) (f : SLF)
  /-- MULH_X (R84). -/
  | mulhX (h : Hdr) (f : SLF)
  /-- MULHU_X (R84). -/
  | mulhuX (h : Hdr) (f : SLF)
  /-- CLZ_X (R84). -/
  | clzX (h : Hdr) (f : SLF)
  /-- CTZ_X (R84). -/
  | ctzX (h : Hdr) (f : SLF)
  /-- POPC_X (R84). -/
  | popcX (h : Hdr) (f : SLF)
  /-- BREV_X (R84). -/
  | brevX (h : Hdr) (f : SLF)
  /-- BSWAP_X (R84). -/
  | bswapX (h : Hdr) (f : SLF)
  /-- CMP_EQ (R87). -/
  | cmpEq (h : Hdr) (f : SF)
  /-- CMP_NE (R87). -/
  | cmpNe (h : Hdr) (f : SF)
  /-- CMP_LT (R87). -/
  | cmpLt (h : Hdr) (f : SF)
  /-- CMP_LE (R87). -/
  | cmpLe (h : Hdr) (f : SF)
  /-- CMP_LTU (R87). -/
  | cmpLtu (h : Hdr) (f : SF)
  /-- CMP_LEU (R87). -/
  | cmpLeu (h : Hdr) (f : SF)
  /-- PAND (R88). -/
  | pand (h : Hdr) (f : SF)
  /-- POR (R88). -/
  | por (h : Hdr) (f : SF)
  /-- PXOR (R88). -/
  | pxor (h : Hdr) (f : SF)
  /-- PNOT (R88). -/
  | pnot (h : Hdr) (f : SF)
  /-- PRD (R89). -/
  | prd (h : Hdr) (f : SF)
  /-- PWR (R89). -/
  | pwr (h : Hdr) (f : SF)
  /-- SEL (R90). -/
  | sel (h : Hdr) (f : SF)
  /-- BFX (R91). -/
  | bfx (h : Hdr) (f : SF)
  /-- BFXU (R91). -/
  | bfxu (h : Hdr) (f : SF)
  /-- BFI (R91). -/
  | bfi (h : Hdr) (f : SF)
  /-- LEA (R92). -/
  | lea (h : Hdr) (f : SF)
  /-- B (R94). -/
  | b (h : Hdr) (f : SF)
  /-- J (R95). -/
  | j (h : Hdr) (f : SLF)
  /-- CALL (R95). -/
  | call (h : Hdr) (f : SLF)
  /-- JR (R96). -/
  | jr (h : Hdr) (f : SF)
  /-- CALLR (R96). -/
  | callr (h : Hdr) (f : SF)
  /-- RET (R96). -/
  | ret (h : Hdr) (f : SF)
  /-- VADD (R124). -/
  | vadd (h : Hdr) (f : VF)
  /-- VSUB (R124). -/
  | vsub (h : Hdr) (f : VF)
  /-- VMUL (R124). -/
  | vmul (h : Hdr) (f : VF)
  /-- VFMA (R124). -/
  | vfma (h : Hdr) (f : VF)
  /-- VFMS (R124). -/
  | vfms (h : Hdr) (f : VF)
  /-- VFNMA (R124). -/
  | vfnma (h : Hdr) (f : VF)
  /-- VMIN (R124). -/
  | vmin (h : Hdr) (f : VF)
  /-- VMAX (R124). -/
  | vmax (h : Hdr) (f : VF)
  /-- VABS (R124). -/
  | vabs (h : Hdr) (f : VF)
  /-- VNEG (R124). -/
  | vneg (h : Hdr) (f : VF)
  /-- VAND (R124). -/
  | vand (h : Hdr) (f : VF)
  /-- VOR (R124). -/
  | vor (h : Hdr) (f : VF)
  /-- VXOR (R124). -/
  | vxor (h : Hdr) (f : VF)
  /-- VSHL (R124). -/
  | vshl (h : Hdr) (f : VF)
  /-- VSHR (R124). -/
  | vshr (h : Hdr) (f : VF)
  /-- VSAR (R124). -/
  | vsar (h : Hdr) (f : VF)
  /-- VCMP_EQ (R127). -/
  | vcmpEq (h : Hdr) (f : VF)
  /-- VCMP_NE (R127). -/
  | vcmpNe (h : Hdr) (f : VF)
  /-- VCMP_LT (R127). -/
  | vcmpLt (h : Hdr) (f : VF)
  /-- VCMP_LE (R127). -/
  | vcmpLe (h : Hdr) (f : VF)
  /-- VSEL (R128). -/
  | vsel (h : Hdr) (f : VF)
  /-- VCVT (R130). -/
  | vcvt (h : Hdr) (f : VF)
  /-- VQUANT (R131). -/
  | vquant (h : Hdr) (f : VF)
  /-- VDEQ (R132). -/
  | vdeq (h : Hdr) (f : VF)
  /-- VRED_SUM (R135). -/
  | vredSum (h : Hdr) (f : VF)
  /-- VRED_MAX (R135). -/
  | vredMax (h : Hdr) (f : VF)
  /-- VRED_MIN (R135). -/
  | vredMin (h : Hdr) (f : VF)
  /-- VRED_ARGMAX (R135). -/
  | vredArgmax (h : Hdr) (f : VF)
  /-- VPERM (R136). -/
  | vperm (h : Hdr) (f : VF)
  /-- VBCAST (R136). -/
  | vbcast (h : Hdr) (f : VF)
  /-- VSLUP (R136). -/
  | vslup (h : Hdr) (f : VF)
  /-- VSLDN (R136). -/
  | vsldn (h : Hdr) (f : VF)
  /-- VIOTA (R136). -/
  | viota (h : Hdr) (f : VF)
  /-- VMOVX (R136). -/
  | vmovx (h : Hdr) (f : VF)
  /-- VMOVV (R136). -/
  | vmovv (h : Hdr) (f : VF)
  /-- VDOT8 (R137). -/
  | vdot8 (h : Hdr) (f : VF)
  /-- VDOTI8 (R138). -/
  | vdoti8 (h : Hdr) (f : VF)
  /-- VRCP (R139). -/
  | vrcp (h : Hdr) (f : VF)
  /-- VRSQ (R139). -/
  | vrsq (h : Hdr) (f : VF)
  /-- VSQRT (R139). -/
  | vsqrt (h : Hdr) (f : VF)
  /-- VEXP2 (R139). -/
  | vexp2 (h : Hdr) (f : VF)
  /-- VLOG2 (R139). -/
  | vlog2 (h : Hdr) (f : VF)
  /-- GANG_JOIN (R155). -/
  | gangJoin (h : Hdr) (f : SF)
  /-- GANG_LEAVE (R157). -/
  | gangLeave (h : Hdr) (f : SF)
  /-- WLOAD (R146). -/
  | wload (h : Hdr) (f : MF)
  /-- MMA (R148). -/
  | mma (h : Hdr) (f : MF)
  /-- MMA_ACC (R148). -/
  | mmaAcc (h : Hdr) (f : MF)
  /-- AZERO (R160). -/
  | azero (h : Hdr) (f : SF)
  /-- ASWAP (R160). -/
  | aswap (h : Hdr) (f : SF)
  /-- AREAD (R160). -/
  | aread (h : Hdr) (f : SF)
  /-- AWRITE (R160). -/
  | awrite (h : Hdr) (f : SF)
  /-- ASTAT (R161). -/
  | astat (h : Hdr) (f : SF)
  /-- LD (R170). -/
  | ld (h : Hdr) (f : SF)
  /-- LDS (R170). -/
  | lds (h : Hdr) (f : SF)
  /-- ST (R171). -/
  | st (h : Hdr) (f : SF)
  /-- VLD (R176). -/
  | vld (h : Hdr) (f : VF)
  /-- VLDS (R176). -/
  | vlds (h : Hdr) (f : VF)
  /-- VLDG (R176). -/
  | vldg (h : Hdr) (f : VF)
  /-- VST (R176). -/
  | vst (h : Hdr) (f : VF)
  /-- VSTS (R176). -/
  | vsts (h : Hdr) (f : VF)
  /-- VSTG (R176). -/
  | vstg (h : Hdr) (f : VF)
  /-- BADD_I32 (R179). -/
  | baddI32 (h : Hdr) (f : EF)
  /-- BADD_F32 (R179). -/
  | baddF32 (h : Hdr) (f : EF)
  /-- BADD_BF16 (R179). -/
  | baddBf16 (h : Hdr) (f : EF)
  /-- BMIN_I32 (R179). -/
  | bminI32 (h : Hdr) (f : EF)
  /-- BMAX_I32 (R179). -/
  | bmaxI32 (h : Hdr) (f : EF)
  /-- BMIN_F32 (R179). -/
  | bminF32 (h : Hdr) (f : EF)
  /-- BMAX_F32 (R179). -/
  | bmaxF32 (h : Hdr) (f : EF)
  /-- BAXPY_F32 (R179). -/
  | baxpyF32 (h : Hdr) (f : EF)
  /-- AADD (R182). -/
  | aadd (h : Hdr) (f : SF)
  /-- AAND (R182). -/
  | aand (h : Hdr) (f : SF)
  /-- AOR (R182). -/
  | aor (h : Hdr) (f : SF)
  /-- AXOR (R182). -/
  | axor (h : Hdr) (f : SF)
  /-- AMIN (R182). -/
  | amin (h : Hdr) (f : SF)
  /-- AMAX (R182). -/
  | amax (h : Hdr) (f : SF)
  /-- AMINU (R182). -/
  | aminu (h : Hdr) (f : SF)
  /-- AMAXU (R182). -/
  | amaxu (h : Hdr) (f : SF)
  /-- ASWP (R182). -/
  | aswp (h : Hdr) (f : SF)
  /-- ACAS (R182). -/
  | acas (h : Hdr) (f : SF)
  /-- PHASE (R187). -/
  | phase (h : Hdr) (f : SF)
  /-- PHASE_PUB (R187). -/
  | phasePub (h : Hdr) (f : SF)
  /-- PHASE_REF (R187). -/
  | phaseRef (h : Hdr) (f : SF)
  /-- WATCH (R188). -/
  | watch (h : Hdr) (f : SF)
  /-- UNWATCH (R189). -/
  | unwatch (h : Hdr) (f : SF)
  /-- SPAWN (R204). -/
  | spawn (h : Hdr) (f : EF)
  /-- EXIT (R206). -/
  | exitI (h : Hdr) (f : SF)
  /-- YIELD (R207). -/
  | yield (h : Hdr) (f : SF)
  /-- MIGRATE (R208). -/
  | migrate (h : Hdr) (f : SF)
  /-- ANCHOR (R209). -/
  | anchor (h : Hdr) (f : SF)
  /-- MOBILE (R209). -/
  | mobile (h : Hdr) (f : SF)
  /-- SEND (R218). -/
  | sendI (h : Hdr) (f : EF)
  /-- WAIT (R217). -/
  | waitI (h : Hdr) (f : SF)
  /-- ARRIVE (R221). -/
  | arrive (h : Hdr) (f : SF)
  /-- BAR (R221). -/
  | bar (h : Hdr) (f : SF)
  /-- BCFG (R222). -/
  | bcfg (h : Hdr) (f : EF)
  /-- BREAD (R222). -/
  | bread (h : Hdr) (f : EF)
  /-- BCLR (R222). -/
  | bclr (h : Hdr) (f : EF)
  /-- CPUT (R226). -/
  | cput (h : Hdr) (f : EF)
  /-- CGET (R227). -/
  | cget (h : Hdr) (f : EF)
  /-- CGET_REL (R227). -/
  | cgetRel (h : Hdr) (f : EF)
  /-- BTX (R270). -/
  | btx (h : Hdr) (f : EF)
  /-- BTABORT (R271). -/
  | btabort (h : Hdr) (f : EF)
  /-- REPB (R273). -/
  | repb (h : Hdr) (f : SF)
  /-- REPE (R274). -/
  | repe (h : Hdr) (f : SF)
  /-- REPX (R276). -/
  | repx (h : Hdr) (f : SF)
  /-- COLL (R277). -/
  | coll (h : Hdr) (f : EF)
  /-- DRAW (R346). -/
  | draw (h : Hdr) (f : EF)
  /-- SLR (R341). -/
  | slr (h : Hdr) (f : EF)
  /-- SLW (R341). -/
  | slw (h : Hdr) (f : EF)
  /-- FORCE (R342). -/
  | force (h : Hdr) (f : EF)
  /-- GSET (R343). -/
  | gset (h : Hdr) (f : EF)
  /-- ACCEPT (R349). -/
  | accept (h : Hdr) (f : EF)
  /-- KVPUT (R351). -/
  | kvput (h : Hdr) (f : EF)
  /-- KVCOMMIT (R351). -/
  | kvcommit (h : Hdr) (f : EF)
  /-- SEAL (R375). -/
  | seal (h : Hdr) (f : EF)
  /-- SFETCH (R376). -/
  | sfetch (h : Hdr) (f : EF)
  /-- RETAIN (R376). -/
  | retain (h : Hdr) (f : EF)
  /-- RETAIN_R (R377). -/
  | retainR (h : Hdr) (f : EF)
  /-- DROP (R376). -/
  | dropI (h : Hdr) (f : EF)
  /-- SWAPROOT (R379). -/
  | swaproot (h : Hdr) (f : EF)
  /-- COPYOUT (R380). -/
  | copyout (h : Hdr) (f : EF)
  /-- SNAP (R392). -/
  | snap (h : Hdr) (f : SF)
  /-- SNAPQ (R393). -/
  | snapq (h : Hdr) (f : SF)
  /-- ROLLBACK (R400). -/
  | rollback (h : Hdr) (f : SF)
  /-- CRR (R98). -/
  | crr (h : Hdr) (f : SF)
  /-- CRW (R98). -/
  | crw (h : Hdr) (f : SF)
  /-- TRAP (R100). -/
  | trap (h : Hdr) (f : SF)
  /-- SVC (R101). -/
  | svc (h : Hdr) (f : SF)
  /-- BREAK (R101). -/
  | breakI (h : Hdr) (f : SF)
  /-- IFLUSH (R102). -/
  | iflush (h : Hdr) (f : SF)
  /-- ERET (R106). -/
  | eret (h : Hdr) (f : SF)
  /-- PAIR (R109). -/
  | pair (h : Hdr) (f : SF)
  /-- UNPAIR (R109). -/
  | unpair (h : Hdr) (f : SF)
  /-- LONG_OPERATION_COMPLETE (R17): A long operation completes and its result waits in the landing latch. -/
  | longOperationComplete (l : Loc)
  /-- THREAD_ROTATION (R198): A slot's issue count reaches 4,096 with a non-empty run queue and the thread is rotated out. -/
  | threadRotation (core slot : Nat)
  /-- SERVICE_ARRIVAL (R103): A trap-entry packet reaches the quay core and takes a service slot or queue entry. -/
  | serviceArrival (n : Nat)
  /-- CONTEXT_ARRIVAL (R195): A context packet arrives at its core, refreshes and takes a slot or the run queue. -/
  | contextArrival (n : Nat)
  /-- BERTH_INCREMENT_ARRIVAL (R215): An increment reaches a berth and may wake waiters. -/
  | berthIncrementArrival (n : Nat)
  /-- MESSAGE_PLACEMENT (R219): A message packet is placed at its destination, published and its berth incremented. -/
  | messagePlacement (n : Nat)
  /-- BARRIER_ARRIVAL (R220): An arrival reaches a BARRIER berth and may complete it. -/
  | barrierArrival (n : Nat)
  /-- BARRIER_RELEASE (R220): A release packet reaches a pending BARRIER berth, advancing its generation. -/
  | barrierRelease (n : Nat)
  /-- CHANNEL_LANDING (R226): A CPUT packet lands in the consumer's next ring slot. -/
  | channelLanding (n : Nat)
  /-- PUBLISH_COMPLETE (R231): A publish's entries reach their visibility points and leave the queue. -/
  | publishComplete (core : Nat)
  /-- MERGE_BUFFER_DRAIN (R233): A merge-buffer line drains toward the next buffer or its home. -/
  | mergeBufferDrain (level unit line : Nat)
  /-- FLUSH_MARKER_ARRIVAL (R244): A flush marker reaches the receiving network interface of another package. -/
  | flushMarkerArrival (path : MarkerPath) (marker : Nat)
  /-- CHUNK_SEND (R266): The lighter's deficit round-robin sends a ready chunk. -/
  | chunkSend (quay : Nat)
  /-- CHUNK_LANDED (R263): All sectors of a chunk land; it is published and its berth incremented. -/
  | chunkLanded (quay chan j : Nat)
  /-- LIGHTER_ABORT (R271): An abort reaches the lighter and ends every copy of the channel. -/
  | lighterAbort (n : Nat)
  /-- COLLECTIVE_PARTIAL_ARRIVAL (R280): A partial result reaches a tree node of a collective and is combined. -/
  | collectivePartialArrival (opid node child : Nat)
  /-- SEQUENCE_INSTRUCTION (R275): The repetition buffer performs the next instruction of a running sequence. -/
  | sequenceInstruction (core : Nat)
  /-- LAUNCH_VALIDATION (R286): The front end validates a launch record in order of checks. -/
  | launchValidation (l : Nat)
  /-- CHANNEL_BINDING (R294): The front end binds one end of a pipeline channel. -/
  | channelBinding (l : Nat)
  /-- DISPATCH (R291): The front end sends one task's initial context. -/
  | dispatch (l : Nat)
  /-- LAUNCH_COMPLETION (R298): A launch completes and its completion record is written. -/
  | launchCompletion (l : Nat)
  /-- LAUNCH_COMMAND (R308): A launch record is read from a command slot whose generation byte matches. -/
  | launchCommand (q : Nat)
  /-- CANCEL (R297): Cancels every in-flight launch under a tag, optionally with ABORT. -/
  | cancel (q : Nat)
  /-- RESOLVE (R318): Retries or fails the item that a fault record parked. -/
  | resolve (q : Nat)
  /-- RPC_REPLY (R319): Places a reply payload at a rank and increments its berth after a generation check. -/
  | rpcReply (q : Nat)
  /-- INVAL (R314): Removes a context's translations over a range with implicit boundaries. -/
  | inval (q : Nat)
  /-- COMPLETION_QUEUE_FLUSH (R312): Held completion entries are written and one MSI-X sent on count, timer or idle. -/
  | completionQueueFlush (q : Nat)
  /-- DRAW_LOCK (R346): All participants have arrived; node 0 locks the slate and the draw proceeds. -/
  | drawLock (slate : Nat)
  /-- CA_DECREMENT_ARRIVAL (R370): A count decrement reaches a seal's home and may reclaim the line in a cascade. -/
  | caDecrementArrival (n : Nat)
  /-- SNAPSHOT_DIE_START (R389): A die starts a snapshot on the start message or a new-colour packet. -/
  | snapshotDieStart (j die : Nat)
  /-- SNAPSHOT_RECORD (R390): A core or engine records its state and takes the new colour. -/
  | snapshotRecord (j : Nat) (a : SnapAgent)
  /-- SNAPSHOT_COMPLETE (R399): A snapshot becomes COMPLETE or FAILED and the completion berth is incremented. -/
  | snapshotComplete (j : Nat)
  /-- CLAPPER (R395): A die sends clappers once its old-colour traffic has drained. -/
  | clapper (j die : Nat)
  /-- PAGE_WALK_COMPLETE (R313): A die page walk completes and settles the misses that joined it. -/
  | pageWalkComplete (die ctx va : Nat)
  /-- RANK_RELOCATION_COMPLETE (R201): An IN_TRANSIT rank becomes ACTIVE and its held packets are forwarded in order. -/
  | rankRelocationComplete (ctx rank phys : Nat)
  /-- REMOTE_SCRATCHPAD_ACCESS (R172): A remote read or write packet is served at the owning core. -/
  | remoteScratchpadAccess (l : Loc)
  /-- ATOMIC_PERFORMED (R183): An atomic is performed at its location's point of order. -/
  | atomicPerformed (l : Loc)
  /-- WATCHDOG_EXPIRY (R301): A launch's sink watchdog expires and a HANG record is written. -/
  | watchdogExpiry (l : Nat)
  /-- QCTL_WRITE (R305): Host write of QCTL that arms or disarms a queue. -/
  | qctlWrite (q : Nat) (v : Word)
  /-- QCQ_WRITE (R305): Host write of a queue's completion-queue base and size. -/
  | qcqWrite (q : Nat) (v : Word)
  /-- QINT_WRITE (R305): Host write of a queue's coalescing timer, count and vector. -/
  | qintWrite (q : Nat) (v : Word)
  /-- QCQH_WRITE (R312): Host advances CQHEAD, letting a stalled flush resume. -/
  | qcqhWrite (q : Nat) (v : Word)
  /-- ATS_TRANSLATION_COMPLETION (R315): The host answers an ATS Translation Request. -/
  | atsTranslationCompletion (die pasid : Nat) (range : AtsRange) (r w u : Bool)
  /-- ATS_INVALIDATION_REQUEST (R315): The host invalidates ATS entries and the die completes after draining users. -/
  | atsInvalidationRequest (pasid iova size : Nat)
  /-- PRI_PAGE_RESPONSE (R316): The host answers a PRI Page Request, retranslating or writing fault records. -/
  | priPageResponse (die pasid iova : Nat) (ans : PriAnswer)
  /-- CONTEXT_CREATE (R320): Writing CTXD VALID on a FREE id creates the context. -/
  | contextCreate (c : Nat) (v : Word)
  /-- PREEMPT (R326): Saves a context to its save area. -/
  | preempt (c : Nat)
  /-- RESUME (R330): Restores a saved context onto its cores. -/
  | resumeI (c : Nat)
  /-- TEARDOWN (R331): Cancels, aborts and frees a context. -/
  | teardown (c : Nat)
  /-- LOAD (R334): Loads a Bryneipel image's segments and scratchpads along the boot tree. -/
  | loadI (c : Nat)
  /-- SLATE_GRANT (R336): The host driver grants a slate to a context and resets its fields. -/
  | slateGrant (slate ctx : Nat)
  /-- CTXJOB_WRITE (R386): Host write placing a context in a job, ignored during recording. -/
  | ctxjobWrite (c : Nat) (v : Word)
  /-- JOB_SNAP_REQUEST (R387): Host JOBCTL request for a snapshot of the job. -/
  | jobSnapRequest (j : Nat)
  /-- JOB_ROLLBACK_REQUEST (R387): Host JOBCTL request to roll the job back to NUM. -/
  | jobRollbackRequest (j : Nat)
  /-- UNCORRECTABLE_ERROR (R403): An array error poisons its unit and is logged and reported. -/
  | uncorrectableError (array unit index : Nat)
  /-- PATROL_SCRUB (R407): The scrubber reads and corrects or poisons HBM sectors. -/
  | patrolScrub (sector : Nat) (bad : Bool)
  /-- ERRSEL_WRITE (R409): Write of ERRSEL selecting an entry or clearing a log. -/
  | errselWrite (die : Nat) (v : Word)
  /-- ERRINJ_WRITE (R410): Arms an error injection on the core's next write to an array. -/
  | errinjWrite (core : Nat) (v : Word)
  /-- PAIR_INTERVAL_END (R415): A pair interval ends and fingerprints are compared, releasing or re-executing. -/
  | pairIntervalEnd (core : Nat)
  /-- MARGIN_SAMPLE (R421): A quay's path-delay sample is taken, from the slack of each of its monitors, and its voltage offset re-planned. -/
  | marginSample (quay : Nat) (slack : List Nat)
  /-- PATCH (R425): Checks and loads a signed front-end patch into all patch RAMs. -/
  | patch
  /-- CONFIG (R426): Checks and stores a signed configuration record. -/
  | config
  /-- QUOTE (R427): Writes a signed attestation quote for a nonce. -/
  | quote
  /-- KEY_LOAD (R429): Copies KEYDATA into a key slot and marks it VALID. -/
  | keyLoad (slot : Nat)
  /-- KEY_ERASE (R429): Zeroes a key slot and clears VALID. -/
  | keyErase (slot : Nat)
  /-- PWRCTL_WRITE (R430): Host write of the power cap, clamped to its range. -/
  | pwrctlWrite (v : Word)
  /-- CLOCK_ADJUST (R431): Every 1 ms the core clock steps toward the power cap. -/
  | clockAdjust (watts : Nat)
  /-- CORE_POWER_GATE (R432): A core idle for 100 µs is power-gated. -/
  | corePowerGate (core : Nat)
  /-- CORE_WAKE (R432): A packet wakes a gated core and its shadowed increments are restored. -/
  | coreWake (core : Nat)
  /-- DEVICE_RESET (R412): The device is reset, restarting all state. -/
  | deviceReset
  /-- REGISTER_WRITE (R8): A write to a register with no row of its own, applied field by field under its access codes. -/
  | registerWrite (t : RegTarget) (v : Word)
  /-- RELOCATION_AROUND_DEFECTIVE_CORE (R201): The front end marks a rank IN_TRANSIT and starts moving its logical core's state to another physical core for a relocation or a repair. -/
  | relocationAroundDefectiveCore (ctx rank phys : Nat)
  /-- SLATE_REQUEST_AT_SLATE (R340): A slate instruction reaches the slate's home die and acts on the slate indivisibly, in arrival order, checked against the fields as they stand. -/
  | slateRequestAtSlate (l : Loc)
  /-- CA_REQUEST_AT_HOME (R369): A SEAL, SFETCH, RETAIN or DROP request, or a count increment sent by a root-slot engine, reaches the seal's home CA engine and is applied in arrival order. -/
  | caRequestAtHome (l : Loc)
  /-- CLAPPER_ARRIVAL (R395): A clapper arrives at a die over an incoming link or path and may complete that die's channel recording. -/
  | clapperArrival (j die source : Nat)
  /-- FQHEAD_WRITE (R317): The host advances a context's FQHEAD, letting fault records that were waiting for room be written and their items go on. -/
  | fqheadWrite (c : Nat) (v : Word)
  /-- HOST_MEMORY_WRITE (R304): The host writes device memory over CXL.mem, changing memory that programs and engines read, with writes to the reserved control region dropped. -/
  | hostMemoryWrite (w : HostWrite)
  deriving DecidableEq, Repr

end Sys2Proof
end

