-- ==== Sys2Proof/WellFormed.lean ====
section
/-!
DEFINITION. Which instructions are well formed: the encoding check of step 4 of R49, constructor by constructor. An instruction that
fails its check traps ILLEGAL. For an event, the check is that the units it names exist (R1).
-/

namespace Sys2Proof

/-- The encoding check of every instruction (step 4 of R49), and the range check of every event. -/
def Instr.wf : Instr → Bool
  | .padParcel => true
  | .nop h f => bareS h f
  | .add h f => shortLA h && wfBin f
  | .sub h f => shortLA h && wfBin f
  | .andI h f => shortLA h && wfBin f
  | .orI h f => shortLA h && wfBin f
  | .xor h f => shortLA h && wfBin f
  | .andn h f => shortLA h && wfBin f
  | .orn h f => shortLA h && wfBin f
  | .shl h f => shortLA h && wfBin f
  | .shr h f => shortLA h && wfBin f
  | .sar h f => shortLA h && wfBin f
  | .rol h f => shortLA h && wfBin f
  | .ror h f => shortLA h && wfBin f
  | .minI h f => shortLA h && wfBin f
  | .maxI h f => shortLA h && wfBin f
  | .minu h f => shortLA h && wfBin f
  | .maxu h f => shortLA h && wfBin f
  | .mul h f => shortLA h && wfBin f
  | .mulh h f => shortLA h && wfBin f
  | .mulhu h f => shortLA h && wfBin f
  | .clz h f => shortLA h && wfUn f
  | .ctz h f => shortLA h && wfUn f
  | .popc h f => shortLA h && wfUn f
  | .brev h f => shortLA h && wfUn f
  | .bswap h f => shortLA h && wfUn f && f.sz != 3
  | .div _ f => wfBin f
  | .divu _ f => wfBin f
  | .rem _ f => wfBin f
  | .remu _ f => wfBin f
  | .addX h f => shortLA h && wfBinX f
  | .subX h f => shortLA h && wfBinX f
  | .andX h f => shortLA h && wfBinX f
  | .orX h f => shortLA h && wfBinX f
  | .xorX h f => shortLA h && wfBinX f
  | .andnX h f => shortLA h && wfBinX f
  | .ornX h f => shortLA h && wfBinX f
  | .shlX h f => shortLA h && wfBinX f
  | .shrX h f => shortLA h && wfBinX f
  | .sarX h f => shortLA h && wfBinX f
  | .rolX h f => shortLA h && wfBinX f
  | .rorX h f => shortLA h && wfBinX f
  | .minX h f => shortLA h && wfBinX f
  | .maxX h f => shortLA h && wfBinX f
  | .minuX h f => shortLA h && wfBinX f
  | .maxuX h f => shortLA h && wfBinX f
  | .mulX h f => shortLA h && wfBinX f
  | .mulhX h f => shortLA h && wfBinX f
  | .mulhuX h f => shortLA h && wfBinX f
  | .clzX h f => shortLA h && wfUnX f
  | .ctzX h f => shortLA h && wfUnX f
  | .popcX h f => shortLA h && wfUnX f
  | .brevX h f => shortLA h && wfUnX f
  | .bswapX h f => shortLA h && wfUnX f && f.sz != 3
  | .cmpEq h f => shortLA h && wfCmp f
  | .cmpNe h f => shortLA h && wfCmp f
  | .cmpLt h f => shortLA h && wfCmp f
  | .cmpLe h f => shortLA h && wfCmp f
  | .cmpLtu h f => shortLA h && wfCmp f
  | .cmpLeu h f => shortLA h && wfCmp f
  | .pand h f => shortLA h && wfPred f
  | .por h f => shortLA h && wfPred f
  | .pxor h f => shortLA h && wfPred f
  | .pnot h f => shortLA h && wfPnot f
  | .prd h f => shortLA h && wfPrd f
  | .pwr h f => shortLA h && wfPwr f
  | .sel h f => shortLA h && wfSel f
  | .bfx h f => shortLA h && wfBf f
  | .bfxu h f => shortLA h && wfBf f
  | .bfi h f => shortLA h && wfBf f
  | .lea h f => shortLA h && wfLea f
  | .b h f => shortLA h && wfB f
  | .j h f => shortLA h && wfJ f
  | .call h f => shortLA h && wfJ f
  | .jr h f => shortLA h && wfJr f
  | .callr h f => shortLA h && wfJr f
  | .ret h f => bareS h f
  | .vadd h f => shortLA h && wfVArith f
  | .vsub h f => shortLA h && wfVArith f
  | .vmul h f => shortLA h && wfVArith f
  | .vfma h f => shortLA h && wfVFma f
  | .vfms h f => shortLA h && wfVFma f
  | .vfnma h f => shortLA h && wfVFma f
  | .vmin h f => shortLA h && wfVMinMax f
  | .vmax h f => shortLA h && wfVMinMax f
  | .vabs h f => shortLA h && wfVUnary f
  | .vneg h f => shortLA h && wfVUnary f
  | .vand h f => shortLA h && wfVInt f
  | .vor h f => shortLA h && wfVInt f
  | .vxor h f => shortLA h && wfVInt f
  | .vshl h f => shortLA h && wfVInt f
  | .vshr h f => shortLA h && wfVInt f
  | .vsar h f => shortLA h && wfVInt f
  | .vcmpEq h f => shortLA h && wfVCmp f
  | .vcmpNe h f => shortLA h && wfVCmp f
  | .vcmpLt h f => shortLA h && wfVCmp f
  | .vcmpLe h f => shortLA h && wfVCmp f
  | .vsel h f => shortLA h && wfVSel f
  | .vcvt h f => shortLA h && wfVCvt f
  | .vquant h f => shortLA h && wfVQuant f
  | .vdeq h f => shortLA h && wfVDeq f
  | .vredSum h f => shortLA h && wfVRedSum f
  | .vredMax h f => shortLA h && wfVRed f
  | .vredMin h f => shortLA h && wfVRed f
  | .vredArgmax h f => shortLA h && wfVArg f
  | .vperm h f => shortLA h && wfVPerm f
  | .vbcast h f => shortLA h && wfVBcast f
  | .vslup h f => shortLA h && wfVSl f
  | .vsldn h f => shortLA h && wfVSl f
  | .viota h f => shortLA h && wfVIota f
  | .vmovx h f => shortLA h && wfVMovx f
  | .vmovv h f => shortLA h && wfVMovv f
  | .vdot8 h f => shortLA h && wfVDot8 f
  | .vdoti8 h f => shortLA h && wfVDotI8 f
  | .vrcp _ f => wfVTrans f
  | .vrsq _ f => wfVTrans f
  | .vsqrt _ f => wfVTrans f
  | .vexp2 _ f => wfVTrans f
  | .vlog2 _ f => wfVTrans f
  | .gangJoin h f => shortLA h && wfJoin f
  | .gangLeave h f => bareS h f
  | .wload _ f => wfWload f
  | .mma _ f => wfMma f
  | .mmaAcc _ f => wfMma f
  | .azero _ f => wfAzero f
  | .aswap _ f => wfAswap f
  | .aread _ f => wfArow f
  | .awrite _ f => wfArow f
  | .astat _ f => wfAstat f
  | .ld _ f => wfLd f
  | .lds _ f => wfLd f
  | .st h f => shortLA h && wfSt f
  | .vld _ f => wfVMem f
  | .vlds _ f => wfVMemS f
  | .vldg _ f => wfVMemG f
  | .vst h f => shortLA h && wfVMem f
  | .vsts h f => shortLA h && wfVMemS f
  | .vstg h f => shortLA h && wfVMemG f
  | .baddI32 _ f => wfBank false f
  | .baddF32 _ f => wfBank false f
  | .baddBf16 _ f => wfBank false f
  | .bminI32 _ f => wfBank false f
  | .bmaxI32 _ f => wfBank false f
  | .bminF32 _ f => wfBank false f
  | .bmaxF32 _ f => wfBank false f
  | .baxpyF32 _ f => wfBank true f
  | .aadd _ f => wfAtom f
  | .aand _ f => wfAtom f
  | .aor _ f => wfAtom f
  | .axor _ f => wfAtom f
  | .amin _ f => wfAtom f
  | .amax _ f => wfAtom f
  | .aminu _ f => wfAtom f
  | .amaxu _ f => wfAtom f
  | .aswp _ f => wfAtom f
  | .acas _ f => wfAtom f
  | .phase h f => shortLA h && wfPhase f
  | .phasePub h f => shortLA h && wfPhase f
  | .phaseRef h f => shortLA h && wfPhase f
  | .watch _ f => wfWatch f
  | .unwatch _ f => wfUnwatch f
  | .spawn h f => shortLA h && wfSpawn f
  | .exitI h f => bareS h f
  | .yield h f => bareS h f
  | .migrate h f => shortLA h && wfMigrate f
  | .anchor h f => bareS h f
  | .mobile h f => shortLA h && wfPredOnly f
  | .sendI h f => shortLA h && wfSend f
  | .waitI h f => shortLA h && wfWait f
  | .arrive h f => shortLA h && wfArrive false f
  | .bar h f => shortLA h && wfArrive true f
  | .bcfg h f => shortLA h && wfBcfg f
  | .bread h f => shortLA h && wfBread f
  | .bclr h f => shortLA h && wfBclr f
  | .cput h f => shortLA h && wfCput f
  | .cget h f => shortLA h && wfCget f
  | .cgetRel h f => shortLA h && wfCgetRel f
  | .btx h f => shortLA h && wfBtx f
  | .btabort h f => shortLA h && wfBtabort f
  | .repb h f => shortLA h && wfPredOnly f
  | .repe h f => shortLA h && wfRepe f
  | .repx h f => shortLA h && wfPredOnly f
  | .coll _ f => wfColl f
  | .draw _ f => wfDraw f
  | .slr _ f => wfSlr f
  | .slw _ f => wfSlw f
  | .force _ f => wfForce f
  | .gset _ f => wfGset f
  | .accept _ f => wfAccept f
  | .kvput _ f => wfKvput f
  | .kvcommit _ f => wfKvcommit f
  | .seal _ f => wfSeal f
  | .sfetch _ f => wfSfetch f
  | .retain _ f => wfRetain f
  | .retainR _ f => wfRetainR f
  | .dropI _ f => wfRetain f
  | .swaproot _ f => wfSwaproot f
  | .copyout _ f => wfCopyout f
  | .snap h f => shortLA h && wfSnap f
  | .snapq h f => shortLA h && wfSnapq f
  | .rollback h f => shortLA h && wfSnapq f
  | .crr h f => shortLA h && wfCrr f
  | .crw h f => shortLA h && wfCrw f
  | .trap h f => shortLA h && wfTrap f
  | .svc h f => shortLA h && wfSvc f
  | .breakI h f => shortLA h && wfSvc f
  | .iflush h f => bareS h f
  | .eret h f => shortLA h && wfEret f
  | .pair h f => shortLA h && wfPair f
  | .unpair h f => shortLA h && wfPair f
  | .longOperationComplete l => isLoc l
  | .threadRotation core slot => isCore core && decide (slot < 16)
  | .serviceArrival _ => true
  | .contextArrival _ => true
  | .berthIncrementArrival _ => true
  | .messagePlacement _ => true
  | .barrierArrival _ => true
  | .barrierRelease _ => true
  | .channelLanding _ => true
  | .publishComplete core => isCore core
  | .mergeBufferDrain _ _ _ => true
  | .flushMarkerArrival p marker => decide (p.path < 64) && decide (marker < 2 ^ 32)
  | .chunkSend quay => decide (quay < 128)
  | .chunkLanded quay chan _ => decide (quay < 128) && decide (chan < 64)
  | .lighterAbort _ => true
  | .collectivePartialArrival _ _ _ => true
  | .sequenceInstruction core => isCore core
  | .launchValidation _ => true
  | .channelBinding _ => true
  | .dispatch _ => true
  | .launchCompletion _ => true
  | .launchCommand q => decide (q < 32768)
  | .cancel q => decide (q < 32768)
  | .resolve q => decide (q < 32768)
  | .rpcReply q => decide (q < 32768)
  | .inval q => decide (q < 32768)
  | .completionQueueFlush q => decide (q < 32768)
  | .drawLock slate => decide (slate < 32768)
  | .caDecrementArrival _ => true
  | .snapshotDieStart job die => decide (job < 256) && decide (die < 8)
  | .snapshotRecord job a => decide (job < 256) && isAgent a
  | .snapshotComplete job => decide (job < 256)
  | .clapper job die => decide (job < 256) && decide (die < 8)
  | .pageWalkComplete die ctx _ => decide (die < 8) && decide (ctx < 4096)
  | .rankRelocationComplete ctx _ phys => decide (ctx < 4096) && isCore phys
  | .remoteScratchpadAccess l => isLoc l
  | .atomicPerformed l => isLoc l
  | .watchdogExpiry _ => true
  | .qctlWrite q _ => decide (q < 32768)
  | .qcqWrite q _ => decide (q < 32768)
  | .qintWrite q _ => decide (q < 32768)
  | .qcqhWrite q _ => decide (q < 32768)
  | .atsTranslationCompletion die _ x _ _ _ => decide (die < 8) && decide (4096 ≤ x.size) && x.size &&& (x.size - 1) == 0
  | .atsInvalidationRequest _ _ _ => true
  | .priPageResponse die _ _ _ => decide (die < 8)
  | .contextCreate c _ => decide (c < 4096)
  | .preempt c => decide (c < 4096)
  | .resumeI c => decide (c < 4096)
  | .teardown c => decide (c < 4096)
  | .loadI c => decide (c < 4096)
  | .slateGrant i ctx => decide (i < 32768) && decide (ctx < 4096)
  | .ctxjobWrite c _ => decide (c < 4096)
  | .jobSnapRequest job => decide (job < 256)
  | .jobRollbackRequest job => decide (job < 256)
  | .uncorrectableError array place _ => isArrayAt array place
  | .patrolScrub _ _ => true
  | .errselWrite die _ => decide (die < 8)
  | .errinjWrite core _ => isCore core
  | .pairIntervalEnd core => isCore core
  | .marginSample quay slacks => decide (quay < 128) && slacks.length == 8
  | .patch => true
  | .config => true
  | .quote => true
  | .keyLoad slot => decide (1 ≤ slot) && decide (slot < 128)
  | .keyErase slot => decide (1 ≤ slot) && decide (slot < 128)
  | .pwrctlWrite _ => true
  | .clockAdjust _ => true
  | .corePowerGate core => isCore core
  | .coreWake core => isCore core
  | .deviceReset => true
  | .registerWrite t _ => match t with
    | .bar _ => true
    | .quantum q cls => decide (q < 128) && decide (cls < 4)
    | .channelOwner q chan => decide (q < 128) && decide (chan < 64)
    | .caPool die => decide (die < 8)
  | .relocationAroundDefectiveCore ctx _ phys => decide (ctx < 4096) && isCore phys
  | .slateRequestAtSlate l => isLoc l
  | .caRequestAtHome l => isLoc l
  | .clapperArrival job die _ => decide (job < 256) && decide (die < 8)
  | .fqheadWrite c _ => decide (c < 4096)
  | .hostMemoryWrite w => match w with
    | .bytes .. => true
    | .leaf ctx _ => decide (ctx < 4096)

/-- The row is one of the 77 events of the table, which nothing fetches. -/
def Instr.isEvent : Instr → Bool
  | .longOperationComplete .. => true
  | .threadRotation .. => true
  | .serviceArrival .. => true
  | .contextArrival .. => true
  | .berthIncrementArrival .. => true
  | .messagePlacement .. => true
  | .barrierArrival .. => true
  | .barrierRelease .. => true
  | .channelLanding .. => true
  | .publishComplete .. => true
  | .mergeBufferDrain .. => true
  | .flushMarkerArrival .. => true
  | .chunkSend .. => true
  | .chunkLanded .. => true
  | .lighterAbort .. => true
  | .collectivePartialArrival .. => true
  | .sequenceInstruction .. => true
  | .launchValidation .. => true
  | .channelBinding .. => true
  | .dispatch .. => true
  | .launchCompletion .. => true
  | .launchCommand .. => true
  | .cancel .. => true
  | .resolve .. => true
  | .rpcReply .. => true
  | .inval .. => true
  | .completionQueueFlush .. => true
  | .drawLock .. => true
  | .caDecrementArrival .. => true
  | .snapshotDieStart .. => true
  | .snapshotRecord .. => true
  | .snapshotComplete .. => true
  | .clapper .. => true
  | .pageWalkComplete .. => true
  | .rankRelocationComplete .. => true
  | .remoteScratchpadAccess .. => true
  | .atomicPerformed .. => true
  | .watchdogExpiry .. => true
  | .qctlWrite .. => true
  | .qcqWrite .. => true
  | .qintWrite .. => true
  | .qcqhWrite .. => true
  | .atsTranslationCompletion .. => true
  | .atsInvalidationRequest .. => true
  | .priPageResponse .. => true
  | .contextCreate .. => true
  | .preempt .. => true
  | .resumeI .. => true
  | .teardown .. => true
  | .loadI .. => true
  | .slateGrant .. => true
  | .ctxjobWrite .. => true
  | .jobSnapRequest .. => true
  | .jobRollbackRequest .. => true
  | .uncorrectableError .. => true
  | .patrolScrub .. => true
  | .errselWrite .. => true
  | .errinjWrite .. => true
  | .pairIntervalEnd .. => true
  | .marginSample .. => true
  | .patch => true
  | .config => true
  | .quote => true
  | .keyLoad .. => true
  | .keyErase .. => true
  | .pwrctlWrite .. => true
  | .clockAdjust .. => true
  | .corePowerGate .. => true
  | .coreWake .. => true
  | .deviceReset => true
  | .registerWrite .. => true
  | .relocationAroundDefectiveCore .. => true
  | .slateRequestAtSlate .. => true
  | .caRequestAtHome .. => true
  | .clapperArrival .. => true
  | .fqheadWrite .. => true
  | .hostMemoryWrite .. => true
  | _ => false

end Sys2Proof
end

