-- ==== Sys2Proof/Decode.lean ====
section
/-!
DEFINITION. The decoder of instruction words and the encoder (R31 to R52). The field widths of each format stand once, least
significant first, and both directions read them.
-/

namespace Sys2Proof

/-- Why a decoding is refused; each is ILLEGAL in R49, but for `short`, which only says that bytes are missing. -/
inductive DecodeErr where
  /-- A lone parcel with LEN = 0b11 that is not the pad parcel (R32). -/
  | badParcel
  /-- A major that R50 leaves unassigned (R52). -/
  | badMajor
  /-- A LEN that R51 does not give the major (R52). -/
  | badLen
  /-- An FN above the major's last FN (R52). -/
  | badFn
  /-- A field that step 4 of R49 refuses. -/
  | badField
  /-- Fewer bytes than the length that LEN gives. -/
  | short
  deriving DecidableEq, Repr

/-- Fields laid one above the other, the first least significant: pairs of a width and a value. -/
def pack : List (Nat × Nat) → Nat
  | [] => 0
  | (w, v) :: t => v + 2 ^ w * pack t

/-- The fields of the given widths, the first least significant. -/
def unpack : List Nat → Nat → List Nat
  | [], _ => []
  | w :: t, n => n % 2 ^ w :: unpack t (n / 2 ^ w)

/-- The common low fields of a first parcel (R36): LEN, OP, GUARD.P, GUARD.N, LA. -/
def commonWidths : List Nat := [2, 7, 4, 1, 4]

/-- Format S (R37): D, A, B, SZ, FN, FL, IMM16 above the common fields. -/
def sWidths : List Nat := commonWidths ++ [4, 4, 4, 2, 8, 8, 16]

/-- Format SL (R38). -/
def slWidths : List Nat := commonWidths ++ [4, 4, 4, 2, 8, 8, 48]

/-- Format E (R39): the tail above format S. -/
def eWidths : List Nat := commonWidths ++ [4, 4, 4, 2, 8, 8, 16, 32]

/-- Format V (R40): VD, VA, XS, VB, MSK, TY, FN, RM, IMM8 above the common fields. -/
def vWidths : List Nat := commonWidths ++ [5, 5, 4, 5, 4, 3, 8, 4, 8]

/-- Format M (R41): XA, XS, XQ, reserved, FN, FMT, SC, reserved, ROWB, ROWN, IMM32, reserved above the common fields. -/
def mWidths : List Nat := commonWidths ++ [4, 4, 4, 2, 8, 4, 1, 3, 8, 8, 32, 32]

/-- The five formats. -/
inductive Format where
  | s | sl | e | v | m
  deriving DecidableEq, Repr

/-- The LEN of a format (R51). -/
def Format.len : Format → Nat
  | .s => 0
  | .v => 0
  | .sl => 1
  | .e => 1
  | .m => 2

/-- The number of parcels that a LEN gives (R31). -/
def lenParcels (len : Nat) : Nat := if len = 0 then 2 else if len = 1 then 3 else if len = 2 then 4 else 1

/-- The instructions of the format-S majors, FN from 0 (R51). -/
def sMajor : Nat → List (Hdr → SF → Instr)
  | 0x00 => [.nop]
  | 0x01 => [.add, .sub, .andI, .orI, .xor, .andn, .orn, .shl, .shr, .sar, .rol, .ror, .minI, .maxI, .minu, .maxu,
      .mul, .mulh, .mulhu, .clz, .ctz, .popc, .brev, .bswap]
  | 0x02 => [.div, .divu, .rem, .remu]
  | 0x04 => [.cmpEq, .cmpNe, .cmpLt, .cmpLe, .cmpLtu, .cmpLeu]
  | 0x05 => [.pand, .por, .pxor, .pnot, .prd, .pwr]
  | 0x06 => [.sel, .bfx, .bfxu, .bfi, .lea]
  | 0x08 => [.b]
  | 0x0A => [.jr, .callr, .ret]
  | 0x40 => [.gangJoin, .gangLeave]
  | 0x43 => [.azero, .aswap, .aread, .awrite, .astat]
  | 0x50 => [.ld, .lds]
  | 0x51 => [.st]
  | 0x56 => [.aadd, .aand, .aor, .axor, .amin, .amax, .aminu, .amaxu, .aswp, .acas]
  | 0x57 => [.phase, .phasePub, .phaseRef]
  | 0x58 => [.watch, .unwatch]
  | 0x61 => [.exitI, .yield, .migrate, .anchor, .mobile]
  | 0x63 => [.waitI]
  | 0x64 => [.arrive, .bar]
  | 0x6A => [.repb, .repe, .repx]
  | 0x76 => [.snap, .snapq, .rollback]
  | 0x78 => [.crr]
  | 0x79 => [.crw]
  | 0x7A => [.trap, .svc, .breakI, .iflush]
  | 0x7B => [.eret]
  | 0x7C => [.pair, .unpair]
  | _ => []

/-- The instructions of the format-SL majors, FN from 0 (R51). -/
def slMajor : Nat → List (Hdr → SLF → Instr)
  | 0x03 => [.addX, .subX, .andX, .orX, .xorX, .andnX, .ornX, .shlX, .shrX, .sarX, .rolX, .rorX, .minX, .maxX,
      .minuX, .maxuX, .mulX, .mulhX, .mulhuX, .clzX, .ctzX, .popcX, .brevX, .bswapX]
  | 0x09 => [.j, .call]
  | _ => []

/-- The instructions of the format-E majors, FN from 0 (R51). -/
def eMajor : Nat → List (Hdr → EF → Instr)
  | 0x55 => [.baddI32, .baddF32, .baddBf16, .bminI32, .bmaxI32, .bminF32, .bmaxF32, .baxpyF32]
  | 0x60 => [.spawn]
  | 0x62 => [.sendI]
  | 0x65 => [.bcfg, .bread, .bclr]
  | 0x66 => [.cput, fun h f => if f.fl == 1 then .cgetRel h f else .cget h f]
  | 0x68 => [.btx, .btabort]
  | 0x6B => [.coll]
  | 0x70 => [.draw]
  | 0x71 => [.slr, .slw, .force, .gset]
  | 0x72 => [.accept]
  | 0x73 => [.kvput, .kvcommit]
  | 0x74 => [.seal, .sfetch, fun h f => if f.fl == 1 then .retainR h f else .retain h f, .dropI]
  | 0x75 => [.swaproot, .copyout]
  | _ => []

/-- The instructions of the format-V majors, FN from 0 (R51). -/
def vMajor : Nat → List (Hdr → VF → Instr)
  | 0x20 => [.vadd, .vsub, .vmul, .vfma, .vfms, .vfnma, .vmin, .vmax, .vabs, .vneg, .vand, .vor, .vxor, .vshl, .vshr,
      .vsar]
  | 0x21 => [.vcmpEq, .vcmpNe, .vcmpLt, .vcmpLe]
  | 0x22 => [.vsel]
  | 0x23 => [.vcvt]
  | 0x24 => [.vquant, .vdeq]
  | 0x25 => [.vredSum, .vredMax, .vredMin, .vredArgmax]
  | 0x26 => [.vperm, .vbcast, .vslup, .vsldn, .viota, .vmovx, .vmovv]
  | 0x27 => [.vdot8, .vdoti8]
  | 0x28 => [.vrcp, .vrsq, .vsqrt, .vexp2, .vlog2]
  | 0x53 => [.vld, .vlds, .vldg]
  | 0x54 => [.vst, .vsts, .vstg]
  | _ => []

/-- The instructions of the format-M majors, FN from 0 (R51). -/
def mMajor : Nat → List (Hdr → MF → Instr)
  | 0x41 => [.wload]
  | 0x42 => [.mma, .mmaAcc]
  | _ => []

/-- The format of an assigned major (R50, R51). -/
def majorFormat (op : Nat) : Option Format :=
  if !(sMajor op).isEmpty then some .s
  else if !(vMajor op).isEmpty then some .v
  else if !(slMajor op).isEmpty then some .sl
  else if !(eMajor op).isEmpty then some .e
  else if !(mMajor op).isEmpty then some .m
  else none

/-- The header of R36 from its fields. -/
def hdrOf (gp gn la : Nat) : Hdr := { la := .ofNat 4 la, gn := .ofNat 1 gn, gp := .ofNat 4 gp }

/-- The instruction of format S, FN unchecked against the other fields: `none` where FN is above the last (R52). -/
def rawS (w : Nat) : Option Instr :=
  match unpack sWidths w with
  | [_, op, gp, gn, la, d, a, b, sz, fn, fl, imm] =>
    ((sMajor op)[fn]?).map fun c => c (hdrOf gp gn la)
      { imm := .ofNat 16 imm, fl := .ofNat 8 fl, sz := .ofNat 2 sz, b := .ofNat 4 b, a := .ofNat 4 a, d := .ofNat 4 d }
  | _ => none

/-- The instruction of format SL. -/
def rawSL (w : Nat) : Option Instr :=
  match unpack slWidths w with
  | [_, op, gp, gn, la, d, a, b, sz, fn, fl, imm] =>
    ((slMajor op)[fn]?).map fun c => c (hdrOf gp gn la)
      { imm := .ofNat 48 imm, fl := .ofNat 8 fl, sz := .ofNat 2 sz, b := .ofNat 4 b, a := .ofNat 4 a, d := .ofNat 4 d }
  | _ => none

/-- The instruction of format E. -/
def rawE (w : Nat) : Option Instr :=
  match unpack eWidths w with
  | [_, op, gp, gn, la, d, a, b, sz, fn, fl, imm, tail] =>
    ((eMajor op)[fn]?).map fun c => c (hdrOf gp gn la)
      { tail := .ofNat 32 tail, imm := .ofNat 16 imm, fl := .ofNat 8 fl, sz := .ofNat 2 sz, b := .ofNat 4 b, a := .ofNat 4 a,
        d := .ofNat 4 d }
  | _ => none

/-- The instruction of format V. -/
def rawV (w : Nat) : Option Instr :=
  match unpack vWidths w with
  | [_, op, gp, gn, la, vd, va, xs, vb, msk, ty, fn, rm, imm] =>
    ((vMajor op)[fn]?).map fun c => c (hdrOf gp gn la)
      { imm := .ofNat 8 imm, rm := .ofNat 4 rm, ty := .ofNat 3 ty, msk := .ofNat 4 msk, vb := .ofNat 5 vb, xs := .ofNat 4 xs,
        va := .ofNat 5 va, vd := .ofNat 5 vd }
  | _ => none

/-- The instruction of format M; the reserved bits of R41 are dropped here and checked by `resM`. -/
def rawM (w : Nat) : Option Instr :=
  match unpack mWidths w with
  | [_, op, gp, gn, la, xa, xs, xq, _, fn, fmt, sc, _, rowb, rown, imm, _] =>
    ((mMajor op)[fn]?).map fun c => c (hdrOf gp gn la)
      { imm := .ofNat 32 imm, rown := .ofNat 8 rown, rowb := .ofNat 8 rowb, sc := .ofNat 1 sc, fmt := .ofNat 4 fmt,
        xq := .ofNat 4 xq, xs := .ofNat 4 xs, xa := .ofNat 4 xa }
  | _ => none

/-- The reserved bits of format M are zero (R41). -/
def resM (w : Nat) : Bool := bits 31 30 w == 0 && bits 47 45 w == 0 && bits 127 96 w == 0

/-- The last checks of step 4 of R49 on a raw instruction. -/
def checked (res : Bool) : Option Instr → Except DecodeErr Instr
  | none => .error .badFn
  | some i => if res && i.wf then .ok i else .error .badField

/-- Decoding of the bits of one instruction, bit 0 the lowest bit of its first parcel (R31); total on any number. -/
def decodeBits (w : Nat) : Except DecodeErr Instr :=
  if w % 4 = 3 then (if w % 2 ^ 32 = 0xFFFFFFFF then .ok .padParcel else .error .badParcel)
  else match majorFormat (bits 8 2 w) with
    | none => .error .badMajor
    | some f =>
      if f.len ≠ w % 4 then .error .badLen
      else match f with
        | .s => checked true (rawS w)
        | .sl => checked true (rawSL w)
        | .e => checked true (rawE w)
        | .v => checked true (rawV w)
        | .m => checked (resM w) (rawM w)

/-- Decoding from memory bytes: the instruction and the bytes after it. -/
def decodeBytes (bs : List Byte) : Except DecodeErr (Instr × List Byte) :=
  if bs.length < 4 then .error .short
  else
    let n := 4 * lenParcels (ofBytes (bs.take 4) % 4)
    if bs.length < n then .error .short
    else match decodeBits (ofBytes (bs.take n)) with
      | .ok i => .ok (i, bs.drop n)
      | .error e => .error e

/-- The host's view of the decoder: the word's bytes as the TH8 stores them, given to the decoder. -/
def decodeTableWord (nbits w : Nat) : Option Instr :=
  match decodeBytes (toBytes 16 (w % 2 ^ nbits)) with
  | .ok (i, _) => some i
  | .error _ => none

/-- The values of the common fields (R36). -/
def commonVals (len op : Nat) (h : Hdr) : List Nat := [len, op, h.gp.toNat, h.gn.toNat, h.la.toNat]

/-- The word of a format-S instruction. -/
def packS (op fn : Nat) (h : Hdr) (f : SF) : Nat :=
  pack (sWidths.zip (commonVals 0 op h ++
    [f.d.toNat, f.a.toNat, f.b.toNat, f.sz.toNat, fn, f.fl.toNat, f.imm.toNat]))

/-- The word of a format-SL instruction. -/
def packSL (op fn : Nat) (h : Hdr) (f : SLF) : Nat :=
  pack (slWidths.zip (commonVals 1 op h ++
    [f.d.toNat, f.a.toNat, f.b.toNat, f.sz.toNat, fn, f.fl.toNat, f.imm.toNat]))

/-- The word of a format-E instruction. -/
def packE (op fn : Nat) (h : Hdr) (f : EF) : Nat :=
  pack (eWidths.zip (commonVals 1 op h ++
    [f.d.toNat, f.a.toNat, f.b.toNat, f.sz.toNat, fn, f.fl.toNat, f.imm.toNat, f.tail.toNat]))

/-- The word of a format-V instruction. -/
def packV (op fn : Nat) (h : Hdr) (f : VF) : Nat :=
  pack (vWidths.zip (commonVals 0 op h ++
    [f.vd.toNat, f.va.toNat, f.xs.toNat, f.vb.toNat, f.msk.toNat, f.ty.toNat, fn, f.rm.toNat, f.imm.toNat]))

/-- The word of a format-M instruction, its reserved bits zero. -/
def packM (op fn : Nat) (h : Hdr) (f : MF) : Nat :=
  pack (mWidths.zip (commonVals 2 op h ++
    [f.xa.toNat, f.xs.toNat, f.xq.toNat, 0, fn, f.fmt.toNat, f.sc.toNat, 0, f.rowb.toNat, f.rown.toNat, f.imm.toNat, 0]))

/-- The bits of an instruction (R31 to R51); the events of the table have none. -/
def encode : Instr → Option Nat
  | .padParcel => some 0xFFFFFFFF
  | .nop h f => some (packS 0x00 0 h f)
  | .add h f => some (packS 0x01 0 h f)
  | .sub h f => some (packS 0x01 1 h f)
  | .andI h f => some (packS 0x01 2 h f)
  | .orI h f => some (packS 0x01 3 h f)
  | .xor h f => some (packS 0x01 4 h f)
  | .andn h f => some (packS 0x01 5 h f)
  | .orn h f => some (packS 0x01 6 h f)
  | .shl h f => some (packS 0x01 7 h f)
  | .shr h f => some (packS 0x01 8 h f)
  | .sar h f => some (packS 0x01 9 h f)
  | .rol h f => some (packS 0x01 10 h f)
  | .ror h f => some (packS 0x01 11 h f)
  | .minI h f => some (packS 0x01 12 h f)
  | .maxI h f => some (packS 0x01 13 h f)
  | .minu h f => some (packS 0x01 14 h f)
  | .maxu h f => some (packS 0x01 15 h f)
  | .mul h f => some (packS 0x01 16 h f)
  | .mulh h f => some (packS 0x01 17 h f)
  | .mulhu h f => some (packS 0x01 18 h f)
  | .clz h f => some (packS 0x01 19 h f)
  | .ctz h f => some (packS 0x01 20 h f)
  | .popc h f => some (packS 0x01 21 h f)
  | .brev h f => some (packS 0x01 22 h f)
  | .bswap h f => some (packS 0x01 23 h f)
  | .div h f => some (packS 0x02 0 h f)
  | .divu h f => some (packS 0x02 1 h f)
  | .rem h f => some (packS 0x02 2 h f)
  | .remu h f => some (packS 0x02 3 h f)
  | .addX h f => some (packSL 0x03 0 h f)
  | .subX h f => some (packSL 0x03 1 h f)
  | .andX h f => some (packSL 0x03 2 h f)
  | .orX h f => some (packSL 0x03 3 h f)
  | .xorX h f => some (packSL 0x03 4 h f)
  | .andnX h f => some (packSL 0x03 5 h f)
  | .ornX h f => some (packSL 0x03 6 h f)
  | .shlX h f => some (packSL 0x03 7 h f)
  | .shrX h f => some (packSL 0x03 8 h f)
  | .sarX h f => some (packSL 0x03 9 h f)
  | .rolX h f => some (packSL 0x03 10 h f)
  | .rorX h f => some (packSL 0x03 11 h f)
  | .minX h f => some (packSL 0x03 12 h f)
  | .maxX h f => some (packSL 0x03 13 h f)
  | .minuX h f => some (packSL 0x03 14 h f)
  | .maxuX h f => some (packSL 0x03 15 h f)
  | .mulX h f => some (packSL 0x03 16 h f)
  | .mulhX h f => some (packSL 0x03 17 h f)
  | .mulhuX h f => some (packSL 0x03 18 h f)
  | .clzX h f => some (packSL 0x03 19 h f)
  | .ctzX h f => some (packSL 0x03 20 h f)
  | .popcX h f => some (packSL 0x03 21 h f)
  | .brevX h f => some (packSL 0x03 22 h f)
  | .bswapX h f => some (packSL 0x03 23 h f)
  | .cmpEq h f => some (packS 0x04 0 h f)
  | .cmpNe h f => some (packS 0x04 1 h f)
  | .cmpLt h f => some (packS 0x04 2 h f)
  | .cmpLe h f => some (packS 0x04 3 h f)
  | .cmpLtu h f => some (packS 0x04 4 h f)
  | .cmpLeu h f => some (packS 0x04 5 h f)
  | .pand h f => some (packS 0x05 0 h f)
  | .por h f => some (packS 0x05 1 h f)
  | .pxor h f => some (packS 0x05 2 h f)
  | .pnot h f => some (packS 0x05 3 h f)
  | .prd h f => some (packS 0x05 4 h f)
  | .pwr h f => some (packS 0x05 5 h f)
  | .sel h f => some (packS 0x06 0 h f)
  | .bfx h f => some (packS 0x06 1 h f)
  | .bfxu h f => some (packS 0x06 2 h f)
  | .bfi h f => some (packS 0x06 3 h f)
  | .lea h f => some (packS 0x06 4 h f)
  | .b h f => some (packS 0x08 0 h f)
  | .j h f => some (packSL 0x09 0 h f)
  | .call h f => some (packSL 0x09 1 h f)
  | .jr h f => some (packS 0x0A 0 h f)
  | .callr h f => some (packS 0x0A 1 h f)
  | .ret h f => some (packS 0x0A 2 h f)
  | .vadd h f => some (packV 0x20 0 h f)
  | .vsub h f => some (packV 0x20 1 h f)
  | .vmul h f => some (packV 0x20 2 h f)
  | .vfma h f => some (packV 0x20 3 h f)
  | .vfms h f => some (packV 0x20 4 h f)
  | .vfnma h f => some (packV 0x20 5 h f)
  | .vmin h f => some (packV 0x20 6 h f)
  | .vmax h f => some (packV 0x20 7 h f)
  | .vabs h f => some (packV 0x20 8 h f)
  | .vneg h f => some (packV 0x20 9 h f)
  | .vand h f => some (packV 0x20 10 h f)
  | .vor h f => some (packV 0x20 11 h f)
  | .vxor h f => some (packV 0x20 12 h f)
  | .vshl h f => some (packV 0x20 13 h f)
  | .vshr h f => some (packV 0x20 14 h f)
  | .vsar h f => some (packV 0x20 15 h f)
  | .vcmpEq h f => some (packV 0x21 0 h f)
  | .vcmpNe h f => some (packV 0x21 1 h f)
  | .vcmpLt h f => some (packV 0x21 2 h f)
  | .vcmpLe h f => some (packV 0x21 3 h f)
  | .vsel h f => some (packV 0x22 0 h f)
  | .vcvt h f => some (packV 0x23 0 h f)
  | .vquant h f => some (packV 0x24 0 h f)
  | .vdeq h f => some (packV 0x24 1 h f)
  | .vredSum h f => some (packV 0x25 0 h f)
  | .vredMax h f => some (packV 0x25 1 h f)
  | .vredMin h f => some (packV 0x25 2 h f)
  | .vredArgmax h f => some (packV 0x25 3 h f)
  | .vperm h f => some (packV 0x26 0 h f)
  | .vbcast h f => some (packV 0x26 1 h f)
  | .vslup h f => some (packV 0x26 2 h f)
  | .vsldn h f => some (packV 0x26 3 h f)
  | .viota h f => some (packV 0x26 4 h f)
  | .vmovx h f => some (packV 0x26 5 h f)
  | .vmovv h f => some (packV 0x26 6 h f)
  | .vdot8 h f => some (packV 0x27 0 h f)
  | .vdoti8 h f => some (packV 0x27 1 h f)
  | .vrcp h f => some (packV 0x28 0 h f)
  | .vrsq h f => some (packV 0x28 1 h f)
  | .vsqrt h f => some (packV 0x28 2 h f)
  | .vexp2 h f => some (packV 0x28 3 h f)
  | .vlog2 h f => some (packV 0x28 4 h f)
  | .gangJoin h f => some (packS 0x40 0 h f)
  | .gangLeave h f => some (packS 0x40 1 h f)
  | .wload h f => some (packM 0x41 0 h f)
  | .mma h f => some (packM 0x42 0 h f)
  | .mmaAcc h f => some (packM 0x42 1 h f)
  | .azero h f => some (packS 0x43 0 h f)
  | .aswap h f => some (packS 0x43 1 h f)
  | .aread h f => some (packS 0x43 2 h f)
  | .awrite h f => some (packS 0x43 3 h f)
  | .astat h f => some (packS 0x43 4 h f)
  | .ld h f => some (packS 0x50 0 h f)
  | .lds h f => some (packS 0x50 1 h f)
  | .st h f => some (packS 0x51 0 h f)
  | .vld h f => some (packV 0x53 0 h f)
  | .vlds h f => some (packV 0x53 1 h f)
  | .vldg h f => some (packV 0x53 2 h f)
  | .vst h f => some (packV 0x54 0 h f)
  | .vsts h f => some (packV 0x54 1 h f)
  | .vstg h f => some (packV 0x54 2 h f)
  | .baddI32 h f => some (packE 0x55 0 h f)
  | .baddF32 h f => some (packE 0x55 1 h f)
  | .baddBf16 h f => some (packE 0x55 2 h f)
  | .bminI32 h f => some (packE 0x55 3 h f)
  | .bmaxI32 h f => some (packE 0x55 4 h f)
  | .bminF32 h f => some (packE 0x55 5 h f)
  | .bmaxF32 h f => some (packE 0x55 6 h f)
  | .baxpyF32 h f => some (packE 0x55 7 h f)
  | .aadd h f => some (packS 0x56 0 h f)
  | .aand h f => some (packS 0x56 1 h f)
  | .aor h f => some (packS 0x56 2 h f)
  | .axor h f => some (packS 0x56 3 h f)
  | .amin h f => some (packS 0x56 4 h f)
  | .amax h f => some (packS 0x56 5 h f)
  | .aminu h f => some (packS 0x56 6 h f)
  | .amaxu h f => some (packS 0x56 7 h f)
  | .aswp h f => some (packS 0x56 8 h f)
  | .acas h f => some (packS 0x56 9 h f)
  | .phase h f => some (packS 0x57 0 h f)
  | .phasePub h f => some (packS 0x57 1 h f)
  | .phaseRef h f => some (packS 0x57 2 h f)
  | .watch h f => some (packS 0x58 0 h f)
  | .unwatch h f => some (packS 0x58 1 h f)
  | .spawn h f => some (packE 0x60 0 h f)
  | .exitI h f => some (packS 0x61 0 h f)
  | .yield h f => some (packS 0x61 1 h f)
  | .migrate h f => some (packS 0x61 2 h f)
  | .anchor h f => some (packS 0x61 3 h f)
  | .mobile h f => some (packS 0x61 4 h f)
  | .sendI h f => some (packE 0x62 0 h f)
  | .waitI h f => some (packS 0x63 0 h f)
  | .arrive h f => some (packS 0x64 0 h f)
  | .bar h f => some (packS 0x64 1 h f)
  | .bcfg h f => some (packE 0x65 0 h f)
  | .bread h f => some (packE 0x65 1 h f)
  | .bclr h f => some (packE 0x65 2 h f)
  | .cput h f => some (packE 0x66 0 h f)
  | .cget h f => some (packE 0x66 1 h f)
  | .cgetRel h f => some (packE 0x66 1 h f)
  | .btx h f => some (packE 0x68 0 h f)
  | .btabort h f => some (packE 0x68 1 h f)
  | .repb h f => some (packS 0x6A 0 h f)
  | .repe h f => some (packS 0x6A 1 h f)
  | .repx h f => some (packS 0x6A 2 h f)
  | .coll h f => some (packE 0x6B 0 h f)
  | .draw h f => some (packE 0x70 0 h f)
  | .slr h f => some (packE 0x71 0 h f)
  | .slw h f => some (packE 0x71 1 h f)
  | .force h f => some (packE 0x71 2 h f)
  | .gset h f => some (packE 0x71 3 h f)
  | .accept h f => some (packE 0x72 0 h f)
  | .kvput h f => some (packE 0x73 0 h f)
  | .kvcommit h f => some (packE 0x73 1 h f)
  | .seal h f => some (packE 0x74 0 h f)
  | .sfetch h f => some (packE 0x74 1 h f)
  | .retain h f => some (packE 0x74 2 h f)
  | .retainR h f => some (packE 0x74 2 h f)
  | .dropI h f => some (packE 0x74 3 h f)
  | .swaproot h f => some (packE 0x75 0 h f)
  | .copyout h f => some (packE 0x75 1 h f)
  | .snap h f => some (packS 0x76 0 h f)
  | .snapq h f => some (packS 0x76 1 h f)
  | .rollback h f => some (packS 0x76 2 h f)
  | .crr h f => some (packS 0x78 0 h f)
  | .crw h f => some (packS 0x79 0 h f)
  | .trap h f => some (packS 0x7A 0 h f)
  | .svc h f => some (packS 0x7A 1 h f)
  | .breakI h f => some (packS 0x7A 2 h f)
  | .iflush h f => some (packS 0x7A 3 h f)
  | .eret h f => some (packS 0x7B 0 h f)
  | .pair h f => some (packS 0x7C 0 h f)
  | .unpair h f => some (packS 0x7C 1 h f)
  | .longOperationComplete .. => none
  | .threadRotation .. => none
  | .serviceArrival .. => none
  | .contextArrival .. => none
  | .berthIncrementArrival .. => none
  | .messagePlacement .. => none
  | .barrierArrival .. => none
  | .barrierRelease .. => none
  | .channelLanding .. => none
  | .publishComplete .. => none
  | .mergeBufferDrain .. => none
  | .flushMarkerArrival .. => none
  | .chunkSend .. => none
  | .chunkLanded .. => none
  | .lighterAbort .. => none
  | .collectivePartialArrival .. => none
  | .sequenceInstruction .. => none
  | .launchValidation .. => none
  | .channelBinding .. => none
  | .dispatch .. => none
  | .launchCompletion .. => none
  | .launchCommand .. => none
  | .cancel .. => none
  | .resolve .. => none
  | .rpcReply .. => none
  | .inval .. => none
  | .completionQueueFlush .. => none
  | .drawLock .. => none
  | .caDecrementArrival .. => none
  | .snapshotDieStart .. => none
  | .snapshotRecord .. => none
  | .snapshotComplete .. => none
  | .clapper .. => none
  | .pageWalkComplete .. => none
  | .rankRelocationComplete .. => none
  | .remoteScratchpadAccess .. => none
  | .atomicPerformed .. => none
  | .watchdogExpiry .. => none
  | .qctlWrite .. => none
  | .qcqWrite .. => none
  | .qintWrite .. => none
  | .qcqhWrite .. => none
  | .atsTranslationCompletion .. => none
  | .atsInvalidationRequest .. => none
  | .priPageResponse .. => none
  | .contextCreate .. => none
  | .preempt .. => none
  | .resumeI .. => none
  | .teardown .. => none
  | .loadI .. => none
  | .slateGrant .. => none
  | .ctxjobWrite .. => none
  | .jobSnapRequest .. => none
  | .jobRollbackRequest .. => none
  | .uncorrectableError .. => none
  | .patrolScrub .. => none
  | .errselWrite .. => none
  | .errinjWrite .. => none
  | .pairIntervalEnd .. => none
  | .marginSample .. => none
  | .patch => none
  | .config => none
  | .quote => none
  | .keyLoad .. => none
  | .keyErase .. => none
  | .pwrctlWrite .. => none
  | .clockAdjust .. => none
  | .corePowerGate .. => none
  | .coreWake .. => none
  | .deviceReset => none
  | .registerWrite .. => none
  | .relocationAroundDefectiveCore .. => none
  | .slateRequestAtSlate .. => none
  | .caRequestAtHome .. => none
  | .clapperArrival .. => none
  | .fqheadWrite .. => none
  | .hostMemoryWrite .. => none

/-- The length of an instruction in parcels (R31). -/
def Instr.parcels (i : Instr) : Nat := match encode i with
  | some w => lenParcels (w % 4)
  | none => 0

/-- The bytes of an instruction in memory order (R5, R31); none for an event. -/
def encodeBytes (i : Instr) : List Byte := match encode i with
  | some w => toBytes (4 * lenParcels (w % 4)) w
  | none => []

end Sys2Proof
end

