-- ==== Sys2Proof/Config.lean ====
section
/-!
DEFINITION. What the manual leaves open or gives no value for: opaque constants without a body, so that no proof can depend on
a value of one of them.
-/

namespace Sys2Proof.Config

/-- A free number, one for every value of State's counter `frees`: an order or a value that the manual does not give
(log entry 8). -/
opaque freeValue : Nat → Nat

/-- The rank that a quay core shows to a handler whose context has no rank there (R30, R103): the manual gives none
(log entry 27). -/
opaque unrankedCore : Nat → Nat

/-- The undefined contents of a service slot's stub area at trap entry (R103): a byte for each entry and offset. -/
opaque stubByte : Nat → Nat → BitVec 8

/-- The number of monitors that a quay's table holds (R188, R189), which the manual does not give (log entry 11). -/
opaque monitorCapacity : Nat

/-- How many rows of a gang's MMA, by the cycle of its run, have been fetched when a stop cuts it (R154): the manual leaves the row open
(log entry 19). -/
opaque cutRow : Nat → Nat → Nat

/-- Whether the host performs the AtomicOps of PCI Express at an IOVA, or completes them with Unsupported Request (R185): the host's own (log entry 64). -/
opaque hostAtomicOk : Nat → Bool

/-- The set of a second-level translation cache that a leaf's translation falls in (R313): how the sets are indexed is not in the manual
(log entry 63). -/
opaque l2Set : Nat → Nat

/-- The paths of the Syern links, beside path 0, that a flush marker is sent down (R244): the route table is not in the manual (log entry 35). -/
opaque markerPath : Nat → Bool

/-- The words of the front ends' control store in mask ROM (R424): they are not in the manual (log entry 8). -/
opaque controlRom : Nat → BitVec 64

/-- The error syndrome of an array's code (R409): its raw value is not given. -/
opaque syndrome : Nat → Nat → BitVec 16

/-- Whether an Ed448 signature of Abaric's key verifies over a digest (R424 to R426): the key is not in the manual. -/
opaque signatureOk : List (BitVec 8) → List (BitVec 8) → Bool

/-- The identity signature of the device over a digest (R427): the private key cannot be read. -/
opaque identitySign : List (BitVec 8) → List (BitVec 8)

/-- The SHAKE256 digest of the device's identity public key (R426). -/
opaque identityDigest : List (BitVec 8)

end Sys2Proof.Config
end

