-- ==== Sys2Proof/Machine/Records.lean ====
section
/-!
DEFINITION. The records that State is built from: threads, windows, cores, gangs, quays and the packets of the network. Plain
data only. The rule that names each piece of state stands in its docstring.
-/

namespace Sys2Proof.Machine

/-- A list of `n` equal elements. -/
abbrev rep {α : Type} (n : Nat) (a : α) : List α := List.replicate n a

/-- A value and its poison bit (R403). -/
structure PWord where
  v : Word
  p : Bool
  deriving DecidableEq, Repr

/-- A task: its launch and the linear index of its coordinate in it (R191, R192). -/
structure TaskId where
  launch : Nat
  taskid : Word
  deriving DecidableEq, Repr

/-- A thread context: the fields of its packet (R193), and what the front end knows of the task it belongs to (R204, R288). -/
structure Thread where
  ctx : Nat := 0
  rank : Nat := 0
  launch : Nat := 0
  taskid : Word := 0
  seq : BitVec 32 := 0xFFFFFFFF#32
  rngkey : Word := 0
  status : Word := 0
  vq : Nat := 0
  vbase : Nat := 0
  pred : BitVec 16 := 1#16
  x : Vector Word 10 := Vector.replicate 10 0#64
  xp : BitVec 10 := 0#10
  pc : Word := 0
  array : Bool := false
  nlev : Nat := 0
  domain : Nat := 5
  scope : Nat := 0
  svc : Bool := false
  cause : Nat := 0
  epc : Word := 0
  eval : Word := 0
  retRank : Nat := 0
  deriving DecidableEq, Repr

/-- One write that waits in a landing latch (R16). -/
inductive LatchWrite where
  | x (r : Nat) (v : PWord)
  | v (r : Nat) (mask val : VReg) (lanes pois : BitVec 64)
  | p (i : Nat) (b : Bool)
  deriving DecidableEq, Repr

/-- Where an access has been resolved to. -/
inductive Place where
  /-- the core's own scratchpad -/
  | own (home : Nat)
  /-- a service slot's stub area -/
  | stub (off : Nat)
  /-- another core's scratchpad -/
  | remote (home rank : Nat)
  /-- memory behind the phase queue: quay shared memory, ORDINARY, READONLY, ROOT and HOST pages -/
  | mem (home : Nat) (cls : PageClass)
  /-- a DEVICE page -/
  | device (home : Nat)
  /-- a lighter aperture -/
  | lighter (quay off : Nat)
  deriving DecidableEq, Repr

/-- A store that R374 performs when its window closes: address as formed, where it goes, its bytes and their poison. -/
structure LateStore where
  va : Nat
  place : Place
  data : List Byte
  pois : List Bool
  deriving DecidableEq, Repr

/-- A lookahead window (R17): instructions left before the closer, whether the operation has completed, and the latch. -/
structure Window where
  major : Nat
  left : Nat
  done : Bool
  decided : Bool
  latch : List LatchWrite
  late : List LateStore
  refresh : Bool
  tag : Nat
  deriving DecidableEq, Repr

/-- Why a thread that holds a slot may not issue until an event (R10, R20, R156, R217, R231, R243, R275, R340). -/
inductive Stall where
  | windowResult | walk (va : Nat) | ats | gangMma | request | sequence | overlap
  /-- a handler that sleeps on a berth of its quay core; its service slot and stub area stay (R105, R217) -/
  | asleep
  /-- a sequence's instruction that has met a trap, at the place that it executes from (R275) -/
  | trapped
  deriving DecidableEq, Repr

/-- A barrel slot or a service slot (R10, R103): the thread and the slot state that does not travel with it. -/
structure Slot where
  th : Option Thread := none
  wins : List Window := []
  count : Nat := 0
  stall : Option Stall := none
  yielded : Bool := false
  granted : Bool := false
  deriving DecidableEq, Repr

/-- What a thread waits for on a berth (R155, R217, R221). -/
inductive WaitKind where
  | wait (c : Nat) (nr : Bool)
  | bar (g : Nat) (nr : Bool)
  deriving DecidableEq, Repr

/-- A context on a berth's wait list (R213); `woken` marks one that found the run queue full, by the number of its wake (R197, R199). -/
structure Waiter where
  th : Thread
  kind : WaitKind
  woken : Option Nat
  deriving DecidableEq, Repr

/-- The rank and berth that an outward arrival carries (R220). -/
structure Origin where
  rank : Nat
  berth : Nat
  deriving DecidableEq, Repr

/-- A berth (R210). `kind` is 0 PLAIN, 1 SLOT, 2 ALLOW, 3 BARRIER; `cfg` the configuration word of R223. -/
structure Berth where
  count : Nat := 0
  kind : Nat := 0
  cfg : Word := 0
  ovf : Bool := false
  held : Bool := false
  pending : Bool := false
  gen : Nat := 0
  ridx : Nat := 0
  widx : Nat := 0
  waiters : List Waiter := []
  origins : List Origin := []
  aside : List (Option Origin) := []
  deriving DecidableEq, Repr

/-- A phase-queue entry (R229): a store's byte mask and bytes, or a bank operation's lanes (R180). -/
inductive QOp where
  | store (mask : BitVec 64) (data : Line) (pois : BitVec 64)
  | bank (fn : Nat) (lanes : BitVec 64) (data : Line) (factor : BitVec 32) (pois : BitVec 64)
  deriving DecidableEq, Repr

/-- An entry of an outbound phase queue or of a merge-buffer line: the 64-byte piece (by home address), the context and the core
that stored it, its colour (R388) and the operation. -/
structure QEntry where
  piece : Nat
  ctx : Nat
  core : Nat
  colour : Bool
  op : QOp
  deriving DecidableEq, Repr

/-- A publish that has started and not completed (R231): its scope and how many entries at the head of the queue it carries. -/
structure Pub where
  scope : Nat
  n : Nat
  deriving DecidableEq, Repr

/-- A pinned line of a snapshot cache (R235): home line, the address it was formed with (R243), bytes and byte poison. -/
structure Pin where
  home : Nat
  va : Nat
  data : Line
  pois : BitVec 64
  deriving DecidableEq, Repr

/-- A line of a merge buffer (R233): what has been merged, oldest first. -/
structure MergeLine where
  line : Nat
  ops : List QEntry
  deriving DecidableEq, Repr

/-- A translation held in a TLB or a second-level cache (R313), tagged with its context. -/
structure TlbEntry where
  ctx : Nat
  pte : Pte
  deriving DecidableEq, Repr

/-- A range-scoreboard entry (R243): the copy it guards (lighter and serial number) and its bounding range, if returned. -/
structure Range where
  quay : Nat
  serial : Nat
  lo : Nat
  hi : Nat
  deriving DecidableEq, Repr

/-- The restart record of an interrupted MMA for one member (R151): encoding and XA, XS, XQ values. -/
structure Restart where
  member : Nat
  word : Nat
  xa : Word
  xs : Word
  xq : Word
  deriving DecidableEq, Repr

/-- One stream row: its element bytes as a number, its block scales as a number, and whether any of them is poisoned (R149). -/
structure StreamRow where
  data : Nat
  scales : Nat
  pois : Bool
  deriving DecidableEq, Repr

/-- The latest MMA of a core, which a stop may cut while its window is open (R154): its member and form, its thread as it issued, the cycle of
its run, its first row, its rows of the working bank as they were, by row number, and what it streams for each row. A store that its thread makes
inside the window is not seen, in a row that it still owes either (R149; log entry 19). -/
structure MmaRun where
  member : Nat
  accum : Bool
  hdr : Hdr
  f : MF
  th : Thread
  cycle : Nat
  start : Nat
  old : List (Nat × VReg × BitVec 64)
  rows : List (Nat × StreamRow)
  deriving DecidableEq, Repr

/-- The array state of a core (R140 to R162). `wrow` holds the latched weight rows as stored; `acc` the rows of both banks, keyed
256 × bank + row, unlisted rows zero. -/
structure ArrayState where
  loaded : Bool := false
  wf : Nat := 0
  wsc : Bool := false
  wdepth : Nat := 0
  wrow : List Nat := []
  wpois : List (BitVec 64) := []
  wscale : List Nat := []
  wspois : List (BitVec 64) := []
  acc : Tab VReg := []
  accp : Tab (BitVec 64) := []
  role : Nat := 0
  rowprog : BitVec 32 := 0
  restart : List Restart := []
  last : Option MmaRun := none
  deriving DecidableEq, Repr

/-- An instruction captured in the repetition buffer (R273): its word and its address. -/
structure Captured where
  word : Nat
  pc : Word
  deriving DecidableEq, Repr

/-- The repetition buffer of a core (R272 to R276): its owner's task and whether that thread is in a service slot, the body, the operands of
REPE, the X registers as REPE read them, and the position of a running sequence. -/
structure RepBuf where
  owner : Option TaskId := none
  svc : Bool := false
  running : Bool := false
  body : List Captured := []
  n : Nat := 0
  sv : Nat := 0
  sr : Nat := 0
  step : PWord := { v := 0, p := false }
  iter : Nat := 0
  pos : Nat := 0
  xs : List PWord := []
  deriving DecidableEq, Repr

/-- A command of a work queue whose completion is still to be written (R310): queue, slot, number and launch tag. -/
structure Cmd where
  q : Nat
  slot : Nat
  taken : Nat
  ltag : Nat
  deriving DecidableEq, Repr

/-- The packets of the network (R193, R201, R215, R218, R220, R226, R271, R319, R370). -/
inductive PKind where
  /-- a thread context with its KIND (R193) -/
  | context (kind : Nat) (th : Thread)
  /-- a berth increment; an outward arrival carries its origin (R220) -/
  | inc (berth : Nat) (origin : Option Origin)
  /-- a message (R218), or an RPC reply with its command (R319): the payload is placed and published at `scope`, then the berth is
  incremented -/
  | place (berth : Nat) (dest : Nat) (data : List Byte) (pois : List Bool) (scope : Nat) (launch : Nat) (cmd : Option Cmd)
  /-- a channel message (R226) -/
  | chan (berth : Nat) (len : Nat) (data : List Byte) (pois : List Bool) (scope : Nat) (launch : Nat)
  /-- a barrier release (R220) -/
  | release (berth : Nat)
  /-- an abort of a lighter channel (R271) -/
  | abort (quay chan : Nat)
  /-- a count decrement for a seal (R370) -/
  | caDec (dom : Nat) (sl : Nat)
  /-- a publish entry for the scratchpad of a rank that has moved or is saved (R201) -/
  | write (e : QEntry)
  deriving DecidableEq, Repr

/-- A packet: sending place (a core, or 4096 and up for an engine), origin rank, context, generation (R319), colour (R388),
destination rank, marker number to wait for (R244), contents, the cycle in which it was sent (R216), whether it is a channel packet that
waited for a slot when its berth was configured anew (R226), and the cycle in which it was forwarded, where it had been held for its rank
(R201). -/
structure Packet where
  src : Nat
  origin : Nat
  ctx : Nat
  gen : Nat
  colour : Bool
  rank : Nat
  marker : Option Nat
  kind : PKind
  cycle : Nat := 0
  doomed : Bool := false
  fwd : Option Nat := none
  deriving DecidableEq, Repr

/-- A thread's fingerprints on the two cores of its pair (R414). `last` is the result word that it wrote last, for an error that falls on it: the
cycle, the X register, and the fingerprints and the value that the word was mixed from. -/
structure Fingerprint where
  ctx : Nat
  task : TaskId
  even : Word := 0
  odd : Word := 0
  last : Option (Nat × Nat × Word × Word × Word) := none
  deriving DecidableEq, Repr

/-- An 8-byte unit of an undo log: its home address, its old bytes and whether it was poisoned (R416). -/
structure UndoUnit where
  home : Nat
  data : List Byte
  pois : Bool
  deriving DecidableEq, Repr

/-- The pair interval of a paired core (R413 to R418): the instructions retired in it, its threads' fingerprints, whether an error has made the two
cores differ beyond them (log entry 33), whether a unit of the even core is poisoned by an error of its own, now and at the checkpoint, whether
the instruction that runs or has just completed is alone in it (R415), whether an agent waits for its end, the gate buffer, the packets that came in, the undo log, the checkpoint (contexts, berths, array state, and what else its core would run from), and
the counts of PAIRSTAT. -/
structure PairCore where
  retired : Nat := 0
  prints : List Fingerprint := []
  upset : Bool := false
  struck : Bool := false
  struckThen : Bool := false
  alone : Bool := false
  due : Bool := false
  gate : List Packet := []
  inbound : List Packet := []
  undo : List UndoUnit := []
  slots : List Slot := []
  queue : List Thread := []
  berths : Tab Berth := []
  arr : ArrayState := {}
  vregs : Tab VReg := []
  vpois : Tab (BitVec 64) := []
  pq : List QEntry := []
  pubs : List Pub := []
  pins : List Pin := []
  rpt : RepBuf := {}
  accstat : BitVec 32 := 0
  woke : List (Nat × Thread) := []
  rel : List Thread := []
  ni : List Packet := []
  agreed : Nat := 0
  disagreed : Nat := 0
  run : Nat := 0
  deriving DecidableEq, Repr

/-- A core (R10, R25, R29, R197, R210, R229, R235, R243, R272, R313, R410, R419, R432). The contexts that join its run queue in the next cycle
are `woke`, those woken, each with the number of its wake; `rel`, those released from a hold; and `ni`, those that have come from the network (R13, R199). `accNew` are the bits
of ACCSTAT set in this cycle (R63). -/
structure Core where
  slots : List Slot := rep 16 {}
  lastSlot : Nat := 15
  issuedAt : Option Nat := none
  queue : List Thread := []
  vregs : Tab VReg := []
  vpois : Tab (BitVec 64) := []
  arr : ArrayState := {}
  berths : Tab Berth := []
  instret : Nat := 0
  phasecnt : Nat := 0
  implcnt : Nat := 0
  wakeNo : Nat := 0
  accstat : BitVec 32 := 0
  accNew : BitVec 32 := 0
  errinj : Word := 0
  pq : List QEntry := []
  pubs : List Pub := []
  pins : List Pin := []
  tlb : List TlbEntry := []
  ibuf : Tab (List Byte) := []
  board : List Range := []
  rpt : RepBuf := {}
  owner : Option Nat := none
  degraded : Bool := false
  gated : Bool := false
  gateFrom : Nat := 0
  gatedCycles : Nat := 0
  idleFrom : Nat := 0
  wake : Option Nat := none
  pair : PairCore := {}
  woke : List (Nat × Thread) := []
  rel : List Thread := []
  ni : List Packet := []
  deriving DecidableEq, Repr

/-- A member that has issued its MMA of the next gang MMA and stalls at the comparison (R156). -/
structure MmaReq where
  member : Nat
  slot : Nat
  accum : Bool
  hdr : Hdr
  f : MF
  deriving DecidableEq, Repr

/-- The join and pairing state of a gang (R109, R155 to R158). -/
structure Gang where
  mask : Nat := 0
  arrived : Nat := 0
  berths : Tab Nat := []
  joined : Nat := 0
  dissolving : Bool := false
  paired : Bool := false
  rowprog : BitVec 32 := 0
  restart : List Restart := []
  mma : List MmaReq := []
  deriving DecidableEq, Repr

/-- An armed address monitor (R188). -/
structure Monitor where
  ea : Nat
  home : Nat
  berth : Nat
  rank : Nat
  ctx : Nat
  task : TaskId
  deriving DecidableEq, Repr

/-- A template (R261). -/
structure Template where
  src : Word := 0
  dst : Word := 0
  sstride : Word := 0
  dstride : Word := 0
  rowbytes : Nat := 0
  rows : Nat := 0
  drank : Nat := 0
  ptag : Nat := 0
  ctag : Nat := 0
  list : Word := 0
  mode : Nat := 0
  deriving DecidableEq, Repr

/-- A kick that reached a lighter channel (R257, R265, R270, R380); `aborted` says that an abort reached it before its channel accepted it
(R271). -/
structure Kick where
  value : Word
  core : Nat
  rank : Nat
  ctx : Nat
  gen : Nat
  task : TaskId
  copyout : Bool
  serial : Nat
  aborted : Bool := false
  deriving DecidableEq, Repr

/-- A chunk of an active copy (R263, R266, R269): the sectors that have landed, whether it waits for nothing, an address whose walk has been made for
it and the address whose walk it waits for (R313), whether it has had its turn to be translated (R385), whether it is parked, the host pages for which
its page request has been answered (R316), and the RESOLVE command that waits for it (R383). -/
structure Chunk where
  j : Nat
  landed : List Nat := []
  ready : Bool := true
  walked : Option Nat := none
  wait : Option Nat := none
  tried : Bool := false
  parked : Bool := false
  asked : List Nat := []
  resolve : Option Cmd := none
  deriving DecidableEq, Repr

/-- A copy that the lighter has accepted (R262 to R269). `fail` holds STATUS, FCODE and FADDR once the copy is to end otherwise than OK;
`bare` marks a kick without a usable template (R262); `leaves` are the lines of a tree walk (R380). -/
structure Copy where
  kick : Kick
  t : Template := {}
  next : Nat := 0
  flight : List Chunk := []
  bytes : Nat := 0
  chunksLanded : Nat := 0
  fail : Option (Nat × Nat × Word) := none
  bare : Bool := false
  leaves : List Nat := []
  root : Option Nat := none
  deriving DecidableEq, Repr

/-- A lighter channel (R258 to R260, R265, R267). `pending` are the kicks that it has not accepted: the thread of each waits for its range
(R243). -/
structure Chan where
  owner : Option Nat := none
  ringBase : Nat := 0
  lgr : Nat := 0
  wp : Nat := 0
  phase : Bool := true
  err : Bool := false
  copies : List Copy := []
  pending : List Kick := []
  deriving DecidableEq, Repr

/-- A service slot (R103): the slot, and its stub area as the bytes written since entry, its poisoned 8-byte units (R403) and the seed
of its undefined contents. -/
structure SvcSlot where
  slot : Slot := {}
  stub : Tab Byte := []
  stubp : List Nat := []
  seed : Nat := 0
  deriving DecidableEq, Repr

/-- A service record (R325): a context saved from a service slot with its stub area, whether it sleeps on a berth of its quay core and, where no
core record holds that wait list, the berth with its place there (R217), and its repetition capture or sequence there (R273, R275). -/
structure SvcRecord where
  th : Thread
  stub : Tab Byte
  stubp : List Nat
  seed : Nat
  quay : Nat
  asleep : Bool := false
  sleeps : Option (Nat × Nat × Waiter) := none
  rpt : RepBuf := {}
  deriving DecidableEq, Repr

/-- A quay: service pipeline (R103), restored contexts that wait for a service slot ahead of its queue (R330), lighter (R257 to R271), monitor table (R188), predictor (R186), merge buffer (R232),
second-level translation cache (R313), margin state (R420 to R423) and berth shadows of gated cores (R215). -/
structure Quay where
  svc : List SvcSlot := rep 16 {}
  svcLast : Nat := 15
  svcIssuedAt : Option Nat := none
  svcBack : List SvcRecord := []
  svcQueue : List Thread := []
  svcWait : List (Nat × Thread) := []
  svcRr : Nat := 31
  chans : Tab Chan := []
  deficit : List Nat := [0, 0, 0, 0]
  quanta : List Nat := [16384, 8192, 4096, 2048]
  drrClass : Nat := 0
  drrIn : Bool := false
  drrTurn : List Nat := [63, 63, 63, 63]
  monitors : List Monitor := []
  predictor : List (Nat × Nat × Option Nat) := []
  merge : List MergeLine := []
  l2 : List TlbEntry := []
  shadow : List (Nat × Packet) := []
  slack : Nat := 0xFF
  offset : Int := 0
  highrun : Nat := 0
  degraded : Bool := false
  deriving DecidableEq, Repr

end Sys2Proof.Machine
end

