-- ==== Sys2Proof/Machine/Records2.lean ====
section
/-!
DEFINITION. The records that State is built from: launches, work queues, contexts, slates, content-addressed lines, collective
operations, jobs, snapshots, dies. Plain data only.
-/

namespace Sys2Proof.Machine

/-- A level entry of a launch record (R285). -/
structure Level where
  scope : Nat
  domain : Nat
  extent : Nat
  deriving DecidableEq, Repr

/-- A stage entry (R292). -/
structure Stage where
  entry : Word
  arg : Word
  ntask : Nat
  scope : Nat
  deriving DecidableEq, Repr

/-- A channel entry (R293). -/
structure ChanEntry where
  from_ : Nat
  to_ : Nat
  lgn : Nat
  dsz : Nat
  sberth : Nat
  aberth : Nat
  base : Nat
  lgi : Nat
  deriving DecidableEq, Repr

/-- The decoded fields of a launch record (R284). -/
structure LaunchRec where
  kind : Nat := 0
  nlev : Nat := 0
  super : Bool := false
  array : Bool := false
  indirect : Bool := false
  fixed : Bool := false
  vq : Nat := 0
  xregs : Nat := 0
  nbuf : Nat := 0
  ndep : Nat := 0
  nstg : Nat := 0
  wdog : Nat := 0
  nberths : Nat := 0
  spad : Nat := 0
  ltag : Nat := 0
  levels : List Level := []
  entry : Word := 0
  arg : Word := 0
  place : Word := 0
  stages : Word := 0
  icount : Word := 0
  deps : List Nat := []
  stageTab : List Stage := []
  chanTab : List ChanEntry := []
  legal : Bool := true
  deriving DecidableEq, Repr

/-- A task that a launch has still to dispatch, or has dispatched (R288, R291). -/
structure TaskSpec where
  taskid : Word
  rank : Nat
  stage : Nat
  thread : Nat
  vbase : Nat := 0
  deriving DecidableEq, Repr

/-- Where a launch stands (R286 to R298): its record has been read, it waits for its count (R296), it has its tasks placed or has been refused and
waits to leave its queue, or it has left it. -/
inductive LPhase where
  | reading | counting | placed | refused | dispatching
  deriving DecidableEq, Repr

/-- How a launch was made: by a command of a work queue, which may be privileged, or by SPAWN of a task: the parent launch, the rank and
berth to increment, NB, the first rank of the task's domain instance, and the task's level count, domain, level scope and rights
(R204, R205, R288, R308). -/
inductive LSource where
  | queue (cmd : Cmd) (privileged : Bool)
  | spawn (parent : Nat) (rank berth : Nat) (nb : Bool) (base nlev domain scope : Nat) (super array : Bool)
  deriving DecidableEq, Repr

/-- A cancel of a launch on its way to a die's front end: the cycle of its command, whether it has ABORT, and whether a dispatch there has gone before
it (R283, R297). -/
structure CancelAt where
  die : Nat
  at_ : Nat
  abort : Bool
  waited : Bool := false
  deriving DecidableEq, Repr

/-- A launch (the state that the front end holds for it; R283 to R301), with the cancels that have still to reach front ends. -/
structure Launch where
  ctx : Nat := 0
  src : LSource := .queue { q := 0, slot := 0, taken := 0, ltag := 0 } false
  rcd : LaunchRec := {}
  phase : LPhase := .reading
  waitsOn : List Nat := []
  die : Nat := 0
  todo : List TaskSpec := []
  binds : List (Nat × Nat × Word) := []
  live : List TaskSpec := []
  ranksUsed : List Nat := []
  dispatched : Nat := 0
  exited : Nat := 0
  errcount : Nat := 0
  detail : Word := 0
  firstErr : Option Nat := none
  cancelled : Bool := false
  cancels : List CancelAt := []
  clamped : Bool := false
  status : Nat := 0
  code : Nat := 0
  children : Nat := 0
  pendingPlace : Nat := 0
  wdogFrom : Option Nat := none
  wdogLeft : Option Nat := none
  silent : Bool := false
  order : Nat := 0
  deriving DecidableEq, Repr

/-- A completion-queue entry that the front end holds (R311), with the time it was held from. -/
structure CqEntry where
  slot : Nat
  status : Nat
  ltag : Nat
  code : Nat
  taken : Nat
  at_ : Nat
  deriving DecidableEq, Repr

/-- The registers and held entries of a work queue (R305, R306, R311, R312); `waited` says that a dispatch has gone before the CANCEL that stands in slot
HEAD (R283). -/
structure WorkQueue where
  ctx : Nat := 0
  priv : Bool := false
  armed : Bool := false
  egen : Nat := 1
  head : Nat := 0
  taken : Nat := 0
  cqbase : Nat := 0
  lgc : Nat := 0
  tmr : Nat := 8
  cnt : Nat := 1
  vec : Nat := 0
  cqtail : Nat := 0
  cqhead : Nat := 0
  phase : Bool := true
  held : List CqEntry := []
  waited : Bool := false
  deriving DecidableEq, Repr

/-- A rank-table entry (R200), with what is held for the rank while it is IN_TRANSIT or SAVED (R201, R202, R327), and the core that a rank
IN_TRANSIT moves to. `state` is 0 ABSENT, 1 ACTIVE, 2 IN_TRANSIT, 3 SAVED. -/
structure RankEntry where
  state : Nat := 0
  immig : Bool := true
  pkg : Nat := 0
  phys : Nat := 0
  held : List Packet := []
  moving : Option Nat := none
  deriving DecidableEq, Repr

/-- The context descriptor (R321). -/
structure Desc where
  cadom : Nat := 0
  nranks : Nat := 0
  ranktab : Nat := 0
  ptbase : Nat := 0
  stub : Nat := 0
  ttbase : Nat := 0
  ttcount : Nat := 0
  fqsize : Nat := 16
  fqbase : Nat := 0
  savebase : Nat := 0
  savesize : Nat := 0
  image : Nat := 0
  rpcring : Nat := 0
  svrank : Nat := 0
  svberth : Nat := 0
  deriving DecidableEq, Repr

/-- What a fault record or a PRI request parked (R269, R316, R317, R318). -/
inductive ParkedItem where
  | chunk (quay chan serial j : Nat)
  | place (p : Packet)
  /-- an access of a participant of a collective operation (R317, SOURCE 3) -/
  | coll (die opid node : Nat)
  /-- an access by which an engine of a die serves a request that waits at its place, numbered by `kickReader` and `threadReader` (R316) -/
  | read (die who : Nat)
  | none
  deriving DecidableEq, Repr

/-- A parked item with its record number (R317), the bytes of its record, the page request that it waits for (R316: die and IOVA),
whether that request has been answered and the item waits for its translation, and the RESOLVE command that waits for it (R383). -/
structure Parked where
  n : Option Nat
  item : ParkedItem
  bytes : List Byte
  pri : Option (Nat × Nat)
  again : Bool := false
  cmd : Option Cmd := none
  deriving DecidableEq, Repr

/-- A saved core (R325): its rank and the physical core that it was, the core without its slots' windows, its scratchpad bytes and their poison, and
its gang's join state. -/
structure CoreRecord where
  rank : Nat
  phys : Nat
  core : Core
  gang : Gang
  spad : List (Nat × Byte)
  spois : List Nat
  deriving DecidableEq, Repr

/-- The save area of a context (R325): its cores, its threads in service slots and those that wait for one, the berths whose monitors were freed
(R189), and the contexts that came for its ranks while they were SAVED, in arrival order (R202). -/
structure SaveArea where
  cores : List CoreRecord := []
  services : List SvcRecord := []
  svcWaiting : List Thread := []
  freed : List (Nat × Nat) := []
  late : List (Nat × Packet) := []
  deriving DecidableEq, Repr

/-- A context id (R319 to R324, R200, R317, R386, R29). `state` is the code of R323, and `reqErr` the ERR that a save in progress will leave
(R335, R417, R422); `dueSave` is that of a save that begins when the request in progress has finished (R422), and `stir` says that what waited for packets
forwarded to its ranks is to be tried again (R201). -/
structure Context where
  ctxd : Word := 0
  state : Nat := 0
  err : Nat := 0
  reqErr : Nat := 0
  dueSave : Option Nat := none
  stir : Bool := false
  gen : Nat := 0
  desc : Desc := {}
  ranks : Tab RankEntry := []
  ptes : List Pte := []
  fqtail : Word := 0
  fqhead : Word := 0
  fqvec : Nat := 0
  parked : List Parked := []
  member : Bool := false
  job : Nat := 0
  snapgen : Nat := 0
  rollcnt : Nat := 0
  save : Option SaveArea := none
  stopped : Bool := false
  deriving DecidableEq, Repr

/-- A DRAW that has arrived at its slate (R345, R346): its node and number among its task's DRAWs there, its thread's place, task, rank and
address, the serial number of its window, its destination codes, its shard, the tree's parents and ranks, and invT. -/
structure DrawReq where
  node : Nat
  nth : Nat
  task : TaskId
  loc : Loc
  ctx : Nat
  rank : Nat
  pc : Word
  serial : Nat
  xd : Nat
  xs : Nat
  logits : Word
  first : Nat
  count : Nat
  fmt : Nat
  parents : List Nat
  ranks : List Nat
  invT : Nat
  deriving DecidableEq, Repr

/-- A slate (R336 to R339, R345, R355): every field of R337, the forced queue of tokens and origins, the DRAWs that have arrived, and how many
each task has issued. -/
structure Slate where
  alloc : Bool := false
  ctx : Nat := 0
  s : Vector Word 8 := Vector.replicate 8 0#64
  sp : BitVec 8 := 0
  wbase : Word := 0
  wsize : BitVec 32 := 64
  ven : Word := 0
  stat : Nat := 0
  omode : Bool := false
  tcount : Nat := 0
  tlimit : Nat := 16
  rngkey : Word := 0
  step : Word := 0
  vb : BitVec 32 := 0
  vocab : BitVec 32 := 0
  gbase : Word := 0
  gcount : BitVec 32 := 0
  gstate : BitVec 32 := 0xFFFFFFFF#32
  hookbase : Word := 0
  kvbase : Word := 0
  kvgeo : Word := 0
  kvpos : Word := 0
  opst : Word := 0
  opacc : Word := 0
  fq : List (BitVec 32 × Nat) := []
  draws : List DrawReq := []
  nth : List (TaskId × Nat) := []
  deriving DecidableEq, Repr

/-- A content-addressed line with its index entry (R367 to R370, R408 class 10). -/
structure CaLine where
  dom : Nat
  sl : Nat
  data : List Byte
  pois : Bool
  count : Nat
  pinned : Bool
  removed : Bool
  deriving DecidableEq, Repr

/-- One participant of a collective operation that its die's engine has accepted (R277 to R280): its node, rank and record, whether its source
has been read, the elements gathered or combined so far with their poison, by node, the children heard, the bytes that wait to be written to
its destination, whether an access waits for an ATS result, the host pages whose page request has been answered (R316), the RESOLVE command
that waits for it (R383), and whether it has completed. -/
structure CollNode where
  node : Nat
  rank : Nat
  op : Nat
  red : Nat
  ty : Nat
  count : Nat
  src : Word
  dst : Word
  ptag : Nat
  loaded : Bool := false
  parts : List (Nat × List (Nat × Bool)) := []
  heard : List Nat := []
  out : Option (List (Byte × Bool)) := none
  waits : Bool := false
  asked : List Nat := []
  resolve : Option Cmd := none
  finished : Bool := false
  deriving DecidableEq, Repr

/-- An active collective operation in one die's engine: its OPID, context and table, and its participants there (R277 to R280). -/
structure CollOp where
  opid : Nat
  ctx : Nat
  parents : List Nat
  ranks : List Nat
  nodes : List CollNode
  deriving DecidableEq, Repr

/-- An entry of an error log (R408, R409). -/
structure LogEntry where
  cls : Nat
  ctx : Nat
  place : Nat
  syndrome : Nat
  addr : Word
  deriving DecidableEq, Repr

/-- A corrupted code word that nothing has read since it was written (R410): its array class, the place that the array belongs to, the unit in
it, and the kind of the error, 1 correctable, 2 uncorrectable, 3 misdirected. -/
structure Upset where
  array : Nat
  place : Nat
  unit : Nat
  kind : Nat
  deriving DecidableEq, Repr

/-- An error log: up to 16 entries, newest first, and the overflow count (R408). -/
structure ErrLog where
  entries : List LogEntry := []
  overflow : Nat := 0
  deriving DecidableEq, Repr

/-- An entry of a die's address translation cache (R315): PASID, IOVA range with the size that the host returned, and the permissions granted. -/
structure AtcEntry where
  pasid : Nat
  iova : Nat
  size : Nat := 4096
  r : Bool
  w : Bool
  u : Bool
  deriving DecidableEq, Repr

/-- A PRI Page Request in flight (R382): the die that sent it, PASID, page and whether it asks for write access beside read access. Each is a page
request group of its own, with the Last bit set. -/
structure PageReq where
  die : Nat
  pasid : Nat
  iova : Nat
  write : Bool := false
  deriving DecidableEq, Repr

/-- A manifest entry's memory item in a snapshot: the page or sub-block by home address, the context and the address
that name it, or the rank whose scratchpad it lies in, and its stored bytes and poison. -/
structure PageImage where
  home : Nat
  size : Nat
  ctx : Nat
  va : Nat
  data : List (Nat × Byte)
  pois : List Nat
  same : Bool
  rank : Option Nat
  deriving DecidableEq, Repr

/-- A slate record in a snapshot (R390). -/
structure SlateRecord where
  i : Nat
  slate : Slate
  deriving DecidableEq, Repr

/-- An item in a job's store (R398, R443): the KIND of its manifest entry, 0 for a manifest itself, the die whose engine stored it, the page or
sub-block that it is an image of, where it lies and its length. -/
structure StoreItem where
  kind : Nat
  die : Nat
  home : Option Nat
  off : Nat
  len : Nat
  deriving DecidableEq, Repr

/-- A snapshot of a job (R388 to R399): its number; its state, 1 RECORDING, 2 COMPLETE, 3 FAILED; the dies that take part and those that have
started; the agents that have recorded; the clappers sent and received (from one die, to another); the recorded cores with their contexts,
service slots, waiting contexts, monitors, channels, slates, collective operations, launches, parked items and packets; the page images;
the root slots with their address, domain, seal and whether no reference was taken; the rank to tell; the pages that had been written; the items
that it has in the store, with those of released snapshots that it refers to; its manifests, by die; the cores whose scratchpads have taken
their record point and that record in the same step; the quays whose service pipelines have recorded, with the contexts whose handlers they have
recorded; and the queue entries and publishes of handlers at quay cores that are of no rank of the job. -/
structure Snapshot where
  n : Nat := 0
  state : Nat := 1
  dies : List Nat := []
  started : List Nat := []
  recorded : List SnapAgent := []
  sent : List (Nat × Nat) := []
  clappers : List (Nat × Nat) := []
  cores : List (Nat × CoreRecord) := []
  services : List SvcRecord := []
  svcWaiting : List Thread := []
  monitors : List (Nat × Nat × Nat) := []
  chans : List (Nat × Nat × Chan) := []
  slates : List SlateRecord := []
  colls : List (Nat × CollOp) := []
  launches : List (Nat × Launch) := []
  parked : List (Nat × Parked) := []
  packets : List Packet := []
  pages : List PageImage := []
  roots : List (Nat × Nat × Nat × Bool) := []
  target : Option (Nat × Nat × Nat) := none
  written : List Nat := []
  items : List StoreItem := []
  manifests : List (Nat × List Byte) := []
  due : List Nat := []
  svcDone : List (Nat × Nat) := []
  svcQueues : List (Nat × List QEntry × List Pub) := []
  deriving DecidableEq, Repr

/-- A job (R387, R388, R399). JOBSTORE and JOBSIZE are 0 at reset (DESIGN CHOICE, log entry 2). -/
structure Job where
  num : Nat := 0
  err : Nat := 0
  store : Nat := 0
  size : Nat := 0
  latest : Nat := 0
  snaps : List Snapshot := []
  failed : Option Nat := none
  written : List Nat := []
  deriving DecidableEq, Repr

/-- A task that has ended by EXIT and that its die's front end has still to count: its context, its task, and whether its core had recorded for the
snapshot of its job (R206, R283, R390). -/
structure ExitNote where
  ctx : Nat
  task : TaskId
  new : Bool
  deriving DecidableEq, Repr

/-- A die: merge buffer (R232), the size of the CA pool in lines (R369; 0 at reset, DESIGN CHOICE, log entry 2), collective operations (R277), error logs (R408),
translation cache (R315), the cycle in which its front end last handled an event and the exits that it has still to count (R283), the quay that it samples next (R420), and the accesses of `ParkedItem.read`, by context and number, that
RESOLVE FAIL has ended and that have still to learn of it (R318). -/
structure Die where
  merge : List MergeLine := []
  caPool : Nat := 0
  colls : List CollOp := []
  logs : Tab ErrLog := []
  errsel : Word := 0
  atc : List AtcEntry := []
  pendAts : List (Nat × Nat) := []
  feAt : Option Nat := none
  exits : List ExitNote := []
  marginNext : Nat := 0
  refused : List (Nat × Nat) := []
  deriving DecidableEq, Repr

/-- A margin plan entry (R421). -/
structure MarginPlan where
  low : Nat := 0
  high : Nat := 255
  vmin : Int := 0
  vmax : Int := 0
  init : Int := 0
  deriving DecidableEq, Repr

/-- The configuration record in effect or stored for the next reset (R426). -/
structure ConfigRec where
  seqno : Nat := 0
  minSvn : Nat := 0
  plan : List MarginPlan := []
  degraded : List Nat := []
  gangs : List Nat := []
  bytes : List Byte := []
  deriving DecidableEq, Repr

/-- The die 0 front end's firmware, key and power registers (R424 to R431). FWADDR is 0 at reset (DESIGN CHOICE, log entry 2). -/
structure Firmware where
  fwaddr : Nat := 0
  svn : Nat := 0
  err : Nat := 0
  patches : List (Nat × Word) := []
  flash : ConfigRec := {}
  active : ConfigRec := {}
  quotes : List (Nat × List Byte) := []
  keydata : List Word := rep 8 0
  keys : Tab (List Word) := []
  keySlot : Nat := 1
  cap : Nat := 4400
  clk : Nat := 20
  pwrnow : Nat := 0
  overAt : Option Nat := none
  deriving DecidableEq, Repr

end Sys2Proof.Machine
end

