-- ==== Sys2Proof/Machine/State.lean ====
section
/-!
DEFINITION. The state of one TH8 package, as plain data: every piece of state that the manual names, the packets in flight, and the
schedule that says which of the package's agents moves next.
-/

namespace Sys2Proof.Machine

/-- Why a step cannot be taken. -/
inductive Fault where
  /-- Raised by the step (Machine/Step.lean) of a package that a fatal error has stopped: R412 stops every core, engine and port
  until the device is reset. Safe: the manual says that nothing runs there. -/
  | stoppedByFatalError
  deriving DecidableEq, Repr

/-- Why an instruction has no meaning in the model. -/
inductive Refusal where
  /-- Raised by the arms of Machine/Dispatch.lean for an instruction that is not modelled. Safe: the run stops there. -/
  | notModelled (mnemonic : String)
  deriving DecidableEq, Repr

/-- Memory: addresses strictly rising, no entry equal to what an unlisted address reads as (log entry 1). -/
abbrev Memory := List Host.Cell

/-- One move of the package: which agent acts next (log entry 3). -/
inductive Move where
  /-- a core's barrel issues (R10) -/
  | issue (core : Nat)
  /-- a quay's service pipeline issues (R103) -/
  | issueSvc (quay : Nat)
  /-- an event of the opcode table happens -/
  | event (i : Instr)
  /-- one core cycle passes (R2, R430) -/
  | tick
  /-- a core's instruction buffer drops an entry (R102) -/
  | dropBuf (core frame : Nat)
  /-- a translation is evicted from a core's TLB (R313) -/
  | dropTlb (core n : Nat)
  /-- a translation is evicted from a quay's second-level cache (R313) -/
  | dropL2 (quay n : Nat)
  /-- a clapper sent by one die arrives at another (R395): CLAPPER_ARRIVAL, as the package owes it -/
  | clapper (j die source : Nat)
  /-- a launch's watchdog runs out (R301): WATCHDOG_EXPIRY, as the package owes it -/
  | watchdog (l : Nat)
  /-- a paired core's interval ends (R415): PAIR_INTERVAL_END, as the package owes it -/
  | interval (core : Nat)
  /-- a gated core wakes (R432): CORE_WAKE, as the package owes it -/
  | wake (core : Nat)
  /-- the agent that a thread's request has been sent to answers it (R172, R183, R340, R369): REMOTE_SCRATCHPAD_ACCESS, ATOMIC_PERFORMED,
  SLATE_REQUEST_AT_SLATE or CA_REQUEST_AT_HOME, as the package owes it -/
  | serve (l : Loc)
  /-- a rank's move ends (R201): RANK_RELOCATION_COMPLETE, as the package owes it -/
  | relocated (ctx rank phys : Nat)
  /-- a request to a context that is in progress finishes (R324) -/
  | request (ctx : Nat)
  /-- the array of a core completes the rows that a cut MMA owes (R154) -/
  | rows (core : Nat)
  /-- the front end of a die counts a task's exit that came to it in a cycle in which it had handled an event (R206, R283) -/
  | exits (die : Nat)
  /-- a cancel reaches the front end of a die (R283, R297): CANCEL, as the package owes it -/
  | cancels (die : Nat)
  /-- a soft error flips bits of the result that a thread has just written to an X register, on the even or the odd core of its pair: nothing
  but the fingerprints notices it (R414, R417) -/
  | slip (l : Loc) (odd : Bool) (flips : Word)
  deriving DecidableEq, Repr

/-- The state of the package. -/
structure State where
  /-- the cores (R1), keyed by physical number die × 512 + quay × 32 + gang × 8 + core; unlisted ones as reset -/
  cores : Tab Core
  /-- the gangs, keyed by physical core / 8 (R1, R155) -/
  gangs : Tab Gang
  /-- the quays, keyed by die × 16 + quay (R1) -/
  quays : Tab Quay
  /-- the dies (R1) -/
  dies : Tab Die
  /-- the package merge buffer (R232) -/
  pkgMerge : List MergeLine
  /-- the content-addressed lines of the eight dies' CA engines (R369) -/
  ca : List CaLine
  /-- the 4,096 context ids (R320) -/
  ctxs : Tab Context
  /-- the slates (R336), keyed by slate index -/
  slates : Tab Slate
  /-- the launches that the front ends hold (R283) and the number of the next -/
  launches : Tab Launch
  nextLaunch : Nat
  /-- the work queues (R305) -/
  queues : Tab WorkQueue
  /-- the jobs (R386) -/
  jobs : Tab Job
  /-- memory by home address (log entry 6) -/
  mem : Memory
  /-- the poisoned units of memory, by home address of the unit (R403) -/
  poison : List Nat
  /-- the allocation tags of HBM sectors, by home address / 32 (R168) -/
  tags : Tab Nat
  /-- the packets in flight, oldest first (R193, R216) -/
  net : List Packet
  /-- the flush markers received: sending core, path and number (R244) -/
  markers : List (Nat × Nat × Nat)
  /-- firmware, keys and power (R424 to R431) -/
  fw : Firmware
  /-- MSI-X vectors sent (R302, R311, R317), newest first -/
  msix : List Nat
  /-- AER reports sent (R411), newest first: the class code of R409 -/
  aer : List Nat
  /-- PRI Page Requests outstanding (R316, R382) -/
  pri : List PageReq
  /-- core cycles since reset (R6, R29) -/
  cycle : Nat
  /-- real time since reset, in units of 1/21,162,960 ns (log entry 4) -/
  time : Nat
  /-- corrupted code words that nothing has read (R410) -/
  latent : List Upset
  /-- the place whose thread the step or event acts for: the model's own (log entry 3) -/
  cur : Loc
  /-- the moves to come (log entry 3): the model's own -/
  schedule : List Move
  /-- whether requests to slates, CA engines, atomics, remote scratchpads and page walks are answered in the step that issues
  them (log entry 10): the model's own -/
  prompt : Bool
  /-- the counter that free values are taken from (log entry 8): the model's own -/
  frees : Nat
  /-- serial number of the next kick: the model's own -/
  serial : Nat
  /-- a fatal error has stopped the package (R412) -/
  fatal : Bool
  /-- the threads that have issued in the last 8 cycles, by context and task, and the cycle of each one's last issue (R10, R11) -/
  recent : List (Nat × TaskId × Nat)
  deriving DecidableEq, Repr

/-- The state of the quays after reset: their offsets are those of the margin plan in effect (R421, R423). -/
def resetQuays (r : ConfigRec) : Tab Quay :=
  (upFrom 0 128).filterMap fun q =>
    let i := ((r.plan[q]?).map (·.init)).getD 0
    let d := r.degraded.contains q
    if i = 0 ∧ !d then none else some (q, { offset := i, degraded := d })

/-- The cores that the configuration record holds to be degraded, by quay or by gang (R419). -/
def resetCores (r : ConfigRec) : Tab Core :=
  (upFrom 0 4096).filterMap fun c => if r.degraded.contains (c / 32) || r.gangs.contains (c / 8) then some (c, { degraded := true }) else none

/-- The package after a reset with the configuration record that its flash holds in effect (R421, R424, R426). -/
def State.resetWith (flash : ConfigRec) : State where
  cores := if flash.degraded.isEmpty && flash.gangs.isEmpty then [] else resetCores flash
  gangs := []
  quays := if flash.plan.isEmpty && flash.degraded.isEmpty then [] else resetQuays flash
  dies := []
  pkgMerge := []
  ca := []
  ctxs := []
  slates := []
  launches := []
  nextLaunch := 0
  queues := []
  jobs := []
  mem := []
  poison := []
  tags := []
  net := []
  markers := []
  fw := { flash := flash, active := flash }
  msix := []
  aer := []
  pri := []
  cycle := 0
  time := 0
  latent := []
  cur := { svc := false, unit := 0, slot := 0 }
  schedule := []
  prompt := true
  frees := 0
  serial := 0
  fatal := false
  recent := []

/-- The machine right after reset (R8, R27, R29, R210, R305, R320, R430); the fields the manual gives no reset value for are named in
log entry 2. -/
def State.reset : State := State.resetWith {}

end Sys2Proof.Machine
end

