-- ==== Sys2Proof/Machine/Mem.lean ====
section
/-!
DEFINITION. Memory as a canonical list of cells, and the map of home addresses: one number for every byte that the package or its host
homes (R164, R165, R304; log entries 1 and 6).
-/

namespace Sys2Proof.Machine

/-- What a byte that nothing has written reads as (R442 calls it unspecified; log entry 1). -/
def unwritten : Byte := 0

/-- The byte at an address. -/
def Memory.read : Memory → Nat → Byte
  | [], _ => unwritten
  | (k, b) :: t, a => if k = a then b else Memory.read t a

/-- Memory without the cell at an address. -/
def Memory.erase : Memory → Nat → Memory
  | [], _ => []
  | (k, b) :: t, a => if k < a then (k, b) :: Memory.erase t a else if k = a then t else (k, b) :: t

/-- Memory with a listed cell. -/
def Memory.insert : Memory → Nat → Byte → Memory
  | [], a, v => [(a, v)]
  | (k, b) :: t, a, v =>
    if k < a then (k, b) :: Memory.insert t a v else if k = a then (a, v) :: t else (a, v) :: (k, b) :: t

/-- One byte written, in canonical form. -/
def Memory.write (m : Memory) (a : Nat) (v : Byte) : Memory :=
  if v = unwritten then m.erase a else m.insert a v

/-- Addresses above `lo` strictly rising, no cell equal to an unwritten byte. -/
def Memory.wfFrom : Option Nat → Memory → Bool
  | _, [] => true
  | lo, (k, b) :: t =>
    (match lo with
      | none => true
      | some l => decide (l < k)) && b != unwritten && Memory.wfFrom (some k) t

/-- The canonical form of memory. -/
def Memory.wf (m : Memory) : Bool := Memory.wfFrom none m

/-- `n` bytes from an address upward. -/
def Memory.readN (m : Memory) (a : Nat) : Nat → List Byte
  | 0 => []
  | n + 1 => m.read a :: Memory.readN m (a + 1) n

/-- Bytes written from an address upward. -/
def Memory.writeN (m : Memory) (a : Nat) : List Byte → Memory
  | [] => m
  | b :: t => Memory.writeN (m.write a b) (a + 1) t

/-- Home address of a scratchpad byte of a physical core. -/
def spadHome (core off : Nat) : Nat := 2 ^ 48 + core * 2 ^ 18 + off

/-- Home address of a byte of a quay's shared memory. -/
def quayHome (quay off : Nat) : Nat := 2 ^ 49 + quay * 2 ^ 23 + off

/-- Home address of a byte of host memory at an IOVA. -/
def hostHome (iova : Nat) : Nat := 2 ^ 64 + iova

/-- What homes a byte (R232): an HBM controller, a core's scratchpad, a quay's shared memory, or the host. -/
inductive Home where
  | hbm | spad | quay | host
  deriving DecidableEq, Repr

/-- Home address of a byte of HBM that is reached under a key slot (R428): slot 0 means plaintext. -/
def keyedHome (slot a : Nat) : Nat := a + slot * 2 ^ 65

/-- The key slot that a home address is reached under (R428). -/
def keySlotOf (a : Nat) : Nat := a / 2 ^ 65

/-- A home address without its key slot: where the byte lies. -/
def physOf (a : Nat) : Nat := a % 2 ^ 65

/-- The kind of home of a home address. -/
def homeKind (a : Nat) : Home :=
  if 2 ^ 65 ≤ a then .hbm else if 2 ^ 64 ≤ a then .host else if 2 ^ 49 ≤ a then .quay else if 2 ^ 48 ≤ a then .spad else .hbm

/-- The core that homes a scratchpad address. -/
def spadCore (a : Nat) : Nat := (a - 2 ^ 48) / 2 ^ 18

/-- The quay that homes a shared-memory address. -/
def homeQuay (a : Nat) : Nat := (a - 2 ^ 49) / 2 ^ 23

/-- HBM bytes of one die: two stacks of 48 GiB (R1). -/
def dieHbm : Nat := 96 * 2 ^ 30

/-- The die that homes an address; 8 stands for the host (R232; log entry 12 for HBM). -/
def homeDie (a : Nat) : Nat :=
  match homeKind a with
  | .host => 8
  | .quay => homeQuay a / 16
  | .spad => spadCore a / 512
  | .hbm => min 7 (physOf a / dieHbm)

/-- The quay of a physical core (R1). -/
def quayOf (core : Nat) : Nat := core / 32

/-- The die of a physical core (R1). -/
def dieOf (core : Nat) : Nat := core / 512

/-- The gang of a physical core (R1). -/
def gangOf (core : Nat) : Nat := core / 8

/-- The physical number of a quay's quay core: core 7 of gang 3 (R1). -/
def quayCore (quay : Nat) : Nat := quay * 32 + 31

/-- The size of the poison unit that holds a home address (R403). -/
def poisonUnit (a : Nat) : Nat := if homeKind a = .spad then 8 else 32

/-- The home address of the poison unit that holds an address, without its key slot. -/
def unitOf (a : Nat) : Nat := physOf a / poisonUnit a * poisonUnit a

/-- A sorted list of numbers with one more. -/
def insNat (a : Nat) : List Nat → List Nat
  | [] => [a]
  | b :: t => if a < b then a :: b :: t else if a = b then b :: t else b :: insNat a t

/-- A list of numbers without one. -/
def delNat (a : Nat) (l : List Nat) : List Nat := l.filter (· != a)

/-- The unit that holds a home address is poisoned. Host memory carries no poison. -/
def poisoned (p : List Nat) (a : Nat) : Bool := p.contains (unitOf a)

/-- What a store brings to consecutive bytes: a byte and its poison, or nothing. -/
abbrev Patch := List (Option (Byte × Bool))

/-- What a patch that starts at `a` brings to address `b`. -/
def patchAt (a : Nat) (l : Patch) (b : Nat) : Option (Byte × Bool) :=
  if b < a then none else (l[b - a]?).getD none

/-- Memory after a patch. -/
def Memory.patch (m : Memory) (a : Nat) : Patch → Memory
  | [] => m
  | none :: t => Memory.patch m (a + 1) t
  | some (b, _) :: t => Memory.patch (m.write a b) (a + 1) t

/-- The poison set after a patch: a unit written completely takes the poison of its data, a unit written in part keeps its own as
well (R404). The list holds the units to settle. -/
def patchPoison (a : Nat) (l : Patch) : List Nat → List Nat → List Nat
  | [], p => p
  | u :: us, p =>
    let here := (upFrom u (poisonUnit u)).map (patchAt a l)
    let dirty := here.any fun o => match o with
      | some (_, d) => d
      | none => false
    let p' := if dirty then insNat u p else if here.all Option.isSome then delNat u p else p
    patchPoison a l us p'

/-- The poison units that a run of bytes touches. -/
def unitsOf (a n : Nat) : List Nat :=
  if n = 0 then [] else
    let sz := poisonUnit a
    let p := physOf a
    (upFrom (p / sz) ((p + n - 1) / sz - p / sz + 1)).map (· * sz)

/-- A patch of whole bytes. -/
def patchOf (data : List Byte) (pois : List Bool) : Patch :=
  (data.zip (pois ++ rep data.length false)).map some

/-- A patch of the bytes of a line that a mask selects. -/
def patchOfLine (mask : BitVec 64) (data : Line) (pois : BitVec 64) : Patch :=
  (upFrom 0 64).map fun i =>
    if mask.getLsbD i then some (data.extractLsb' (8 * i) 8, pois.getLsbD i) else none

end Sys2Proof.Machine
end

