-- ==== Sys2Proof/Machine/Access.lean ====
section
/-!
DEFINITION. Where each piece of state is found: accessors of the tables of State, and the thread that a step acts for.
-/

namespace Sys2Proof.Machine

/-- The core with a physical number. -/
def State.core (s : State) (p : Nat) : Core := Tab.get {} p s.cores

/-- The state with one core replaced. -/
def State.setCore (s : State) (p : Nat) (c : Core) : State := { s with cores := Tab.set p c s.cores }

/-- The state with one core changed. -/
def State.updCore (s : State) (p : Nat) (f : Core → Core) : State := s.setCore p (f (s.core p))

/-- The gang with a physical number. -/
def State.gang (s : State) (g : Nat) : Gang := Tab.get {} g s.gangs

/-- The state with one gang changed. -/
def State.updGang (s : State) (g : Nat) (f : Gang → Gang) : State := { s with gangs := Tab.set g (f (s.gang g)) s.gangs }

/-- A quay. -/
def State.quay (s : State) (q : Nat) : Quay := Tab.get {} q s.quays

/-- The state with one quay changed. -/
def State.updQuay (s : State) (q : Nat) (f : Quay → Quay) : State := { s with quays := Tab.set q (f (s.quay q)) s.quays }

/-- A die. -/
def State.die (s : State) (d : Nat) : Die := Tab.get {} d s.dies

/-- The state with one die changed. -/
def State.updDie (s : State) (d : Nat) (f : Die → Die) : State := { s with dies := Tab.set d (f (s.die d)) s.dies }

/-- A context id. -/
def State.ctx (s : State) (c : Nat) : Context := Tab.get {} c s.ctxs

/-- The state with one context changed. -/
def State.updCtx (s : State) (c : Nat) (f : Context → Context) : State := { s with ctxs := Tab.set c (f (s.ctx c)) s.ctxs }

/-- A slate. -/
def State.slate (s : State) (i : Nat) : Slate := Tab.get {} i s.slates

/-- The state with one slate changed. -/
def State.updSlate (s : State) (i : Nat) (f : Slate → Slate) : State :=
  { s with slates := Tab.set i (f (s.slate i)) s.slates }

/-- A launch. -/
def State.launch (s : State) (l : Nat) : Launch := Tab.get {} l s.launches

/-- The state with one launch changed, where the front ends hold it. -/
def State.updLaunch (s : State) (l : Nat) (f : Launch → Launch) : State :=
  match Tab.find l s.launches with
  | none => s
  | some x => { s with launches := Tab.set l (f x) s.launches }

/-- A work queue. -/
def State.queue (s : State) (q : Nat) : WorkQueue := Tab.get {} q s.queues

/-- The state with one work queue changed. -/
def State.updQueue (s : State) (q : Nat) (f : WorkQueue → WorkQueue) : State :=
  { s with queues := Tab.set q (f (s.queue q)) s.queues }

/-- A job. -/
def State.job (s : State) (j : Nat) : Job := Tab.get {} j s.jobs

/-- The state with one job changed. -/
def State.updJob (s : State) (j : Nat) (f : Job → Job) : State := { s with jobs := Tab.set j (f (s.job j)) s.jobs }

/-- A context is being saved, restored or torn down (R323). -/
def Context.frozen (c : Context) : Bool := c.state == 2 || c.state == 4 || c.state == 6

/-- A rank-table entry of a context; an unlisted rank is ABSENT (R200). -/
def Context.rank (c : Context) (r : Nat) : RankEntry := Tab.get {} r c.ranks

/-- The context with one rank-table entry changed. -/
def Context.updRank (c : Context) (r : Nat) (f : RankEntry → RankEntry) : Context :=
  { c with ranks := Tab.set r (f (c.rank r)) c.ranks }

/-- A berth of a core; an unlisted berth is PLAIN with every field zero (R210). -/
def Core.berth (c : Core) (b : Nat) : Berth := Tab.get {} b c.berths

/-- The core with one berth changed. -/
def Core.updBerth (c : Core) (b : Nat) (f : Berth → Berth) : Core := { c with berths := Tab.set b (f (c.berth b)) c.berths }

/-- A lighter channel. -/
def Quay.chan (q : Quay) (c : Nat) : Chan := Tab.get {} c q.chans

/-- The quay with one channel changed. -/
def Quay.updChan (q : Quay) (c : Nat) (f : Chan → Chan) : Quay := { q with chans := Tab.set c (f (q.chan c)) q.chans }

/-- The physical core whose pipeline or interface a place belongs to: a service slot belongs to its quay core (R103). -/
def locCore (l : Loc) : Nat := if l.svc then quayCore l.unit else l.unit

/-- A slot of a list of slots. -/
def slotAt (l : List Slot) (i : Nat) : Slot := (l[i]?).getD {}

/-- The service slot of a quay. -/
def Quay.svcAt (q : Quay) (i : Nat) : SvcSlot := (q.svc[i]?).getD {}

/-- The slot at a place. -/
def State.slot (s : State) (l : Loc) : Slot :=
  if l.svc then ((s.quay l.unit).svcAt l.slot).slot else slotAt (s.core l.unit).slots l.slot

/-- The state with the slot at a place replaced. -/
def State.setSlot (s : State) (l : Loc) (x : Slot) : State :=
  if l.svc then s.updQuay l.unit fun q => { q with svc := setNth { q.svcAt l.slot with slot := x } l.slot q.svc }
  else s.updCore l.unit fun c => { c with slots := setNth x l.slot c.slots }

/-- The slot of the current place. -/
def State.curSlot (s : State) : Slot := s.slot s.cur

/-- The thread of the current place. -/
def State.thread (s : State) : Option Thread := s.curSlot.th

/-- The physical core of the current place. -/
def State.here (s : State) : Nat := locCore s.cur

/-- The state with the current thread changed. -/
def State.updThread (s : State) (f : Thread → Thread) : State :=
  s.setSlot s.cur { s.curSlot with th := s.curSlot.th.map f }

/-- A free value (log entry 8) and the state with the counter advanced. -/
def State.free (s : State) : Nat × State := (Config.freeValue s.frees, { s with frees := s.frees + 1 })

/-- The task a thread belongs to. -/
def Thread.task (t : Thread) : TaskId := { launch := t.launch, taskid := t.taskid }

/-- STATUS.PRIV (R27): 0 drawn, 1 task, 2 supervisor. -/
def Thread.priv (t : Thread) : Nat := bits 1 0 t.status.toNat

/-- STATUS.PPRIV (R27). -/
def Thread.ppriv (t : Thread) : Nat := bits 13 12 t.status.toNat

/-- STATUS.MODE: the thread is anchored (R27, R194). -/
def Thread.anchored (t : Thread) : Bool := t.status.getLsbD 4

/-- A word with bits [hi:lo] replaced. -/
def setBits (hi lo : Nat) (v : Nat) (w : Word) : Word :=
  BitVec.ofNat 64 (w.toNat - bits hi lo w.toNat * 2 ^ lo + (v % 2 ^ (hi + 1 - lo)) * 2 ^ lo)

/-- The thread with STATUS.PRIV replaced. -/
def Thread.setPriv (t : Thread) (p : Nat) : Thread := { t with status := setBits 1 0 p t.status }

/-- The thread with STATUS.PPRIV replaced. -/
def Thread.setPpriv (t : Thread) (p : Nat) : Thread := { t with status := setBits 13 12 p t.status }

/-- The thread with STATUS.MODE replaced. -/
def Thread.setMode (t : Thread) (b : Bool) : Thread := { t with status := setBits 4 4 (b2n b) t.status }

/-- The stub area, quota and mode of a context in a service slot: it is treated as anchored (R105), and its V registers stay with its core
(R114), so its quota there is 0 (log entry 13). -/
def Thread.quota (t : Thread) : Nat := if t.svc then 0 else t.vq

/-- X register `r` of a thread with its poison. -/
def Thread.xreg (t : Thread) (r : Nat) : PWord := { v := t.x.toList.getD r 0, p := t.xp.getLsbD r }

/-- The thread with X register `r` written. -/
def Thread.setX (t : Thread) (r : Nat) (w : PWord) : Thread :=
  { t with
    x := t.x.setIfInBounds r w.v
    xp := if w.p then t.xp ||| (1#10 <<< r) else t.xp &&& ~~~(1#10 <<< r) }

/-- Predicate `i`; p0 reads 1 (R25). -/
def Thread.p (t : Thread) (i : Nat) : Bool := i == 0 || t.pred.getLsbD i

/-- The thread with predicate `i` written; writes to p0 are ignored (R25). -/
def Thread.setP (t : Thread) (i : Nat) (b : Bool) : Thread :=
  if i = 0 then t
  else { t with pred := if b then t.pred ||| (1#16 <<< i) else t.pred &&& ~~~(1#16 <<< i) }

/-- V register with physical number `r` of a core. -/
def Core.v (c : Core) (r : Nat) : VReg := Tab.get 0 r c.vregs

/-- The lane poison of a V register. -/
def Core.vp (c : Core) (r : Nat) : BitVec 64 := Tab.get 0 r c.vpois

/-- The core with a V register and its lane poison written. -/
def Core.setV (c : Core) (r : Nat) (v : VReg) (p : BitVec 64) : Core :=
  { c with vregs := Tab.set r v c.vregs, vpois := Tab.set r p c.vpois }

/-- Units of time in one microsecond (log entry 4). -/
def microUnits : Nat := 21162960 * 1000

end Sys2Proof.Machine
end

