-- ==== Sys2Proof/Machine/Aes.lean ====
section
/-!
DEFINITION. AES-256 and its XTS mode, by which the HBM controllers encrypt a sector (R428): FIPS 197 and IEEE 1619, which the rule names. A
block is a list of 16 bytes as numbers.
-/

namespace Sys2Proof.Machine

/-- The S-box, 32 bytes a row, the first lowest. -/
def sboxRows : List Nat :=
  [0xC072A49CAFA2D4ADF04759FA7DC982CA76ABD7FE2B670130C56F6BF27B777C63,
   0x75B227EBE28012079A059618C323C7041531D871F1E5A534CCF73F362693FDB7,
   0xCF584C4A39BECB6A5BB1FC20ED00D153842FE329B3D63B52A05A6E1B1A2C8309,
   0xD2F3FF1021DAB6BCF5389D928F40A351A89F3C507F02F94585334D43FBAAEFD0,
   0xDB0B5EDE14B8EE4688902A22DC4F816073195D643D7EA7C41744975FEC130CCD,
   0x08AE7A65EAF4566CA94ED58D6D37C8E779E4959162ACD3C25C2406490A3A32E0,
   0x9E1DC186B95735610EF6034866B53E708A8BBD4B1F74DDE8C6B4A61C2E2578BA,
   0x16BB54B00F2D99416842E6BF0D89A18CDF2855CEE9871E9B948ED9691198F8E1]

/-- The inverse S-box. -/
def invRows : List Nat :=
  [0xCBE9DEC444438E3487FF2F9B8239E37CFBD7F3819EA340BF38A53630D56A0952,
   0x25D18B6D49A25B76B224D92866A12E084EC3FA420B954CEE3D23C2A632947B54,
   0x849D8DA75746155EDAB9EDFD5048706C92B6655DCC5CA4D41698688664F6F872,
   0x6B8A130103BDAFC1020F3FCA8F1E2CD00645B3B80558E4F70AD3BC8C00ABD890,
   0x6EDF751CE837F9E28535ADE72274AC9673E6B4F0CECFF297EADC674F4111913A,
   0xF45ACD78FEC0DB9A2079D2C64B3E56FC1BBE18AA0E62B76F89C5291D711AF147,
   0xEF9CC9939F7AE52D0D4AB519A97F51605FEC8027591012B131C7078833A8DD1F,
   0x7D0C2155631469E126D677BA7E042B17619953833CBBEBC8B0F52AAE4D3BE0A0]

/-- A byte of a table. -/
def tableByte (rows : List Nat) (b : Nat) : Nat := rows.getD (b / 32) 0 / 256 ^ (b % 32) % 256

/-- A byte times x in the field of AES. -/
def xtimes (b : Nat) : Nat := if b < 128 then 2 * b else (2 * b) ^^^ 0x11B

/-- A byte times a small factor in the field of AES. -/
def aesMul (k b : Nat) : Nat :=
  (if bit 0 k then b else 0) ^^^ (if bit 1 k then xtimes b else 0) ^^^ (if bit 2 k then xtimes (xtimes b) else 0)
    ^^^ (if bit 3 k then xtimes (xtimes (xtimes b)) else 0)

/-- Two blocks combined bit by bit. -/
def xorBlock (a b : List Nat) : List Nat := List.zipWith (fun x y => x ^^^ y) a b

/-- The next word of the key schedule, from the words so far, newest first: word `i`. -/
def nextKeyWord (i : Nat) (ws : List (List Nat)) (rcon : Nat) : List Nat :=
  let t := ws.headD []
  let sub := fun (x : List Nat) => x.map (tableByte sboxRows)
  let t' := if i % 8 = 0 then xorBlock (sub (t.drop 1 ++ t.take 1)) [rcon, 0, 0, 0] else if i % 8 = 4 then sub t else t
  xorBlock (ws.getD 7 []) t'

/-- The key schedule: `n` more words from word `i` on, newest first. -/
def keyWords : Nat → Nat → Nat → List (List Nat) → List (List Nat)
  | 0, _, _, ws => ws
  | n + 1, i, rcon, ws => keyWords n (i + 1) (if i % 8 = 0 then xtimes rcon else rcon) (nextKeyWord i ws rcon :: ws)

/-- A list cut into pieces of `k`, `n` of them. -/
def piecesBy (k : Nat) : Nat → List Nat → List (List Nat)
  | 0, _ => []
  | n + 1, l => l.take k :: piecesBy k n (l.drop k)

/-- The 15 round keys of a 32-byte key. -/
def roundKeys (key : List Nat) : List (List Nat) :=
  piecesBy 16 15 (keyWords 52 8 1 (piecesBy 4 8 key).reverse).reverse.flatten

/-- ShiftRows: byte `i` comes from row i % 4, column i / 4 + i % 4. -/
def shiftRows (b : List Nat) : List Nat := (upFrom 0 16).map fun i => b.getD ((i + 4 * (i % 4)) % 16) 0

/-- Its inverse. -/
def unshiftRows (b : List Nat) : List Nat := (upFrom 0 16).map fun i => b.getD ((i + 12 * (i % 4)) % 16) 0

/-- MixColumns with the coefficients of a row of its matrix. -/
def mixColumns (cs : List Nat) (b : List Nat) : List Nat :=
  (upFrom 0 16).map fun i =>
    (upFrom 0 4).foldl (fun x k => x ^^^ aesMul (cs.getD ((k + 4 - i % 4) % 4) 0) (b.getD (i / 4 * 4 + k) 0)) 0

/-- Rounds of the cipher with the keys that are left; the last one mixes no columns. -/
def aesRounds : List (List Nat) → List Nat → List Nat
  | [], b => b
  | k :: ks, b =>
    let s := shiftRows (b.map (tableByte sboxRows))
    aesRounds ks (xorBlock (if ks.isEmpty then s else mixColumns [2, 3, 1, 1] s) k)

/-- Rounds of the inverse cipher with the keys that are left, the last round's first. -/
def aesUnrounds : List (List Nat) → List Nat → List Nat
  | [], b => b
  | k :: ks, b =>
    let s := xorBlock ((unshiftRows b).map (tableByte invRows)) k
    aesUnrounds ks (if ks.isEmpty then s else mixColumns [14, 11, 13, 9] s)

/-- AES-256 of a block. -/
def aesEncrypt (key block : List Nat) : List Nat :=
  match roundKeys key with
  | k :: ks => aesRounds ks (xorBlock block k)
  | [] => block

/-- The inverse of AES-256 of a block. -/
def aesDecrypt (key block : List Nat) : List Nat :=
  match (roundKeys key).reverse with
  | k :: ks => aesUnrounds ks (xorBlock block k)
  | [] => block

/-- The bytes of a number of 16 bytes. -/
def blockOf (n : Nat) : List Nat := (upFrom 0 16).map fun i => n / 256 ^ i % 256

/-- The number of a block. -/
def numOfBlock (b : List Nat) : Nat := b.foldr (fun x n => 256 * n + x) 0

/-- A tweak times the primitive element. -/
def nextTweak (t : Nat) : Nat := if t < 2 ^ 127 then 2 * t else (2 * t - 2 ^ 128) ^^^ 0x87

/-- The blocks of a data unit under XTS, from the tweak of the first: each is combined with its tweak before and after the cipher. -/
def xtsBlocks (cipher : List Nat → List Nat) : Nat → List (List Nat) → List Nat
  | _, [] => []
  | t, b :: bs => xorBlock (cipher (xorBlock b (blockOf t))) (blockOf t) ++ xtsBlocks cipher (nextTweak t) bs

/-- A 32-byte data unit with a number under XTS-AES-256: `key` is the data key followed by the tweak key (R429). -/
def xtsUnit (decrypt : Bool) (key : List Nat) (unit : Nat) (data : List Nat) : List Nat :=
  let t := numOfBlock (aesEncrypt (key.drop 32) (blockOf unit))
  xtsBlocks ((if decrypt then aesDecrypt else aesEncrypt) (key.take 32)) t (piecesBy 16 2 data)

end Sys2Proof.Machine
end

