-- ==== Sys2Proof/Machine/Num.lean ====
section
/-!
DEFINITION. Number formats, exact values, the one rounding of every format, and the sums whose order the manual fixes (R60 to R77).
A finite value is a sign, a natural mantissa and a power of two, so products, sums and fused operations are exact.
-/

namespace Sys2Proof.Machine

/-- How a format uses its top exponent code (R61). -/
inductive FClass where
  | ieee | e4m3 | noInf
  deriving DecidableEq, Repr

/-- A floating-point format (R61). -/
structure Fmt where
  ebits : Nat
  fbits : Nat
  bias : Nat
  cls : FClass
  deriving DecidableEq, Repr

def f64 : Fmt := { ebits := 11, fbits := 52, bias := 1023, cls := .ieee }
def f32 : Fmt := { ebits := 8, fbits := 23, bias := 127, cls := .ieee }
def bf16 : Fmt := { ebits := 8, fbits := 7, bias := 127, cls := .ieee }
def f16 : Fmt := { ebits := 5, fbits := 10, bias := 15, cls := .ieee }
def e4m3 : Fmt := { ebits := 4, fbits := 3, bias := 7, cls := .e4m3 }
def e5m2 : Fmt := { ebits := 5, fbits := 2, bias := 15, cls := .ieee }
def e3m2 : Fmt := { ebits := 3, fbits := 2, bias := 3, cls := .noInf }
def e2m3 : Fmt := { ebits := 2, fbits := 3, bias := 1, cls := .noInf }
def e2m1 : Fmt := { ebits := 2, fbits := 1, bias := 1, cls := .noInf }

/-- The floating-point format of an FMT code 0 to 8 (R44). -/
def fmtOf (c : Nat) : Fmt :=
  match c with
  | 0 => f64
  | 1 => f32
  | 2 => bf16
  | 3 => f16
  | 4 => e4m3
  | 5 => e5m2
  | 6 => e3m2
  | 7 => e2m3
  | _ => e2m1

/-- Width in bits of an element of an FMT code (R61, R66). -/
def fmtWidth (c : Nat) : Nat :=
  if c = 9 then 8 else if c = 10 then 2 else 1 + (fmtOf c).ebits + (fmtOf c).fbits

/-- An exact value: NaN, an infinity, or ±m × 2^e. -/
inductive FV where
  | nan
  | inf (neg : Bool)
  | fin (neg : Bool) (m : Nat) (e : Int)
  deriving DecidableEq, Repr

/-- Bit of a format's sign. -/
def Fmt.signBit (f : Fmt) : Nat := f.ebits + f.fbits

/-- The exponent of a format's smallest subnormal. -/
def Fmt.qmin (f : Fmt) : Int := 1 - (f.bias : Int) - (f.fbits : Int)

/-- The largest magnitude code that is finite (R61). -/
def Fmt.maxCode (f : Fmt) : Nat :=
  match f.cls with
  | .ieee => (2 ^ f.ebits - 1) * 2 ^ f.fbits - 1
  | .e4m3 => 2 ^ (f.ebits + f.fbits) - 2
  | .noInf => 2 ^ (f.ebits + f.fbits) - 1

/-- The code of an infinity's magnitude. -/
def Fmt.infCode (f : Fmt) : Nat := (2 ^ f.ebits - 1) * 2 ^ f.fbits

/-- The canonical NaN (R61, R62); the +0 code where the format has none (R69). -/
def Fmt.nanCode (f : Fmt) : Nat :=
  match f.cls with
  | .ieee => f.infCode + 2 ^ (f.fbits - 1)
  | .e4m3 => 2 ^ (f.ebits + f.fbits) - 1
  | .noInf => 0

/-- A magnitude code with a sign. -/
def Fmt.signed (f : Fmt) (neg : Bool) (mag : Nat) : Nat := if neg then 2 ^ f.signBit + mag else mag

/-- The value of a code (R61). -/
def Fmt.decode (f : Fmt) (n : Nat) : FV :=
  let neg := bit f.signBit n
  let mag := n % 2 ^ f.signBit
  let e := mag / 2 ^ f.fbits
  let fr := mag % 2 ^ f.fbits
  if f.cls = .ieee ∧ e = 2 ^ f.ebits - 1 then (if fr = 0 then .inf neg else .nan)
  else if f.cls = .e4m3 ∧ mag = 2 ^ f.signBit - 1 then .nan
  else if e = 0 then .fin neg fr f.qmin
  else .fin neg (2 ^ f.fbits + fr) (f.qmin + (e : Int) - 1)

/-- How a result is rounded (R45, R68, R70): a MODE code, or stochastically with 16 random bits. -/
inductive Rnd where
  | mode (m : Nat)
  | sr (r : Nat)
  deriving DecidableEq, Repr

/-- Round to nearest even. -/
def rne : Rnd := .mode 0

/-- `m × 2^-sh` rounded to an integer (R68, R70). -/
def roundShift (r : Rnd) (neg : Bool) (m sh : Nat) : Nat :=
  let lo := m / 2 ^ sh
  let rem := m % 2 ^ sh
  if rem = 0 then lo
  else match r with
    | .sr x => if 2 ^ 16 ≤ rem * 2 ^ 16 / 2 ^ sh + x then lo + 1 else lo
    | .mode 0 => if 2 * rem > 2 ^ sh then lo + 1 else if 2 * rem = 2 ^ sh then lo + lo % 2 else lo
    | .mode 1 => lo
    | .mode 2 => if neg then lo + 1 else lo
    | .mode _ => if neg then lo else lo + 1

/-- `m × 2^e` rounded to a multiple of `2^q`: the multiple's count. -/
def roundAt (r : Rnd) (neg : Bool) (m : Nat) (e q : Int) : Nat :=
  if q ≤ e then m * 2 ^ (e - q).toNat else roundShift r neg m (q - e).toNat

/-- What an overflowing float result becomes (R69 step 4, R70). -/
def Fmt.overflow (f : Fmt) (r : Rnd) (sat neg : Bool) : Nat :=
  match f.cls with
  | .noInf => f.signed neg f.maxCode
  | .e4m3 => if sat then f.signed neg f.maxCode else f.nanCode
  | .ieee =>
    if sat then f.signed neg f.maxCode
    else match r with
      | .sr _ => f.signed neg f.infCode
      | .mode 0 => f.signed neg f.infCode
      | .mode 1 => f.signed neg f.maxCode
      | .mode 2 => f.signed neg (if neg then f.infCode else f.maxCode)
      | .mode _ => f.signed neg (if neg then f.maxCode else f.infCode)

/-- The exponent of the grid on which a value of magnitude `m × 2^e` is rounded. -/
def Fmt.grid (f : Fmt) (m : Nat) (e : Int) : Int := max ((Nat.log2 m : Int) + e - (f.fbits : Int)) f.qmin

/-- The magnitude code of a non-zero finite value after rounding, overflow not yet applied. -/
def Fmt.magCode (f : Fmt) (r : Rnd) (neg : Bool) (m : Nat) (e : Int) : Nat :=
  let q := f.grid m e
  (q - f.qmin).toNat * 2 ^ f.fbits + roundAt r neg m e q

/-- Conversion of a value to a floating-point format (R69). -/
def Fmt.round (f : Fmt) (r : Rnd) (sat : Bool) (v : FV) : Nat :=
  match v with
  | .nan => f.nanCode
  | .inf neg =>
    match f.cls with
    | .ieee => f.signed neg (if sat then f.maxCode else f.infCode)
    | .e4m3 => if sat then f.signed neg f.maxCode else f.nanCode
    | .noInf => f.signed neg f.maxCode
  | .fin neg m e =>
    if m = 0 then f.signed neg 0
    else
      let c := f.magCode r neg m e
      if f.maxCode < c then f.overflow r sat neg else f.signed neg c

/-- A value rounded to an integer. -/
def roundInt (r : Rnd) (neg : Bool) (m : Nat) (e : Int) : Int :=
  let n : Int := (roundAt r neg m e 0 : Nat)
  if neg then -n else n

/-- The least and greatest value of an integer type. -/
def intLo (signed : Bool) (w : Nat) : Int := if signed then -(2 ^ (w - 1) : Nat) else 0
def intHi (signed : Bool) (w : Nat) : Int := if signed then (2 ^ (w - 1) : Nat) - 1 else (2 ^ w : Nat) - 1

/-- An integer clamped to a range. -/
def clampInt (lo hi i : Int) : Int := if i < lo then lo else if hi < i then hi else i

/-- Conversion of an exact integer to an integer type of width `w` (R69 step 4). -/
def intToInt (signed : Bool) (w : Nat) (sat : Bool) (i : Int) : Nat :=
  ofSigned w (if sat then clampInt (intLo signed w) (intHi signed w) i else i)

/-- Conversion of a value to an integer type (R69). -/
def fvToInt (signed : Bool) (w : Nat) (r : Rnd) (sat : Bool) (v : FV) : Nat :=
  match v with
  | .nan => 0
  | .inf neg => if sat then ofSigned w (if neg then intLo signed w else intHi signed w) else 0
  | .fin neg m e => intToInt signed w sat (roundInt r neg m e)

/-- Conversion of a value to TERN (R69 steps 1, 2, 5). -/
def fvToTern (r : Rnd) (v : FV) : Nat :=
  match v with
  | .nan => 0
  | .inf neg => if neg then 3 else 1
  | .fin neg m e => ofSigned 2 (clampInt (-1) 1 (roundInt r neg m e))

/-- An exact integer as a value. -/
def intFV (i : Int) : FV := .fin (decide (i < 0)) i.natAbs 0

/-- The signed mantissa of a finite value at exponent `e0 ≤ e`. -/
def scaled (neg : Bool) (m : Nat) (e e0 : Int) : Int :=
  let n : Int := (m * 2 ^ (e - e0).toNat : Nat)
  if neg then -n else n

/-- A sum of two values; an exact zero sum of opposite signs is −0 under RDN only (R68, R77). -/
def FV.add (rdn : Bool) (a b : FV) : FV :=
  match a, b with
  | .nan, _ => .nan
  | _, .nan => .nan
  | .inf x, .inf y => if x = y then .inf x else .nan
  | .inf x, .fin .. => .inf x
  | .fin .., .inf y => .inf y
  | .fin na ma ea, .fin nb mb eb =>
    let e0 := min ea eb
    let t := scaled na ma ea e0 + scaled nb mb eb e0
    if t = 0 then .fin (if ma = 0 ∧ mb = 0 ∧ na = nb then na else rdn) 0 0
    else .fin (decide (t < 0)) t.natAbs e0

/-- The negated value. -/
def FV.neg : FV → FV
  | .nan => .nan
  | .inf n => .inf !n
  | .fin n m e => .fin (!n) m e

/-- The magnitude. -/
def FV.abs : FV → FV
  | .nan => .nan
  | .inf _ => .inf false
  | .fin _ m e => .fin false m e

/-- A product. -/
def FV.mul (a b : FV) : FV :=
  match a, b with
  | .nan, _ => .nan
  | _, .nan => .nan
  | .inf x, .inf y => .inf (x != y)
  | .inf x, .fin y m _ => if m = 0 then .nan else .inf (x != y)
  | .fin x m _, .inf y => if m = 0 then .nan else .inf (x != y)
  | .fin x m e, .fin y n k => .fin (x != y) (m * n) (e + k)

/-- A value times a power of two, exactly. -/
def FV.scale (k : Int) : FV → FV
  | .nan => .nan
  | .inf n => .inf n
  | .fin n m e => .fin n m (e + k)

/-- A fused multiply-add, exact (R77). -/
def FV.fma (rdn : Bool) (a b c : FV) : FV := FV.add rdn (FV.mul a b) c

/-- Numeric order: −1, 0, 1, or none where an operand is NaN; −0 and +0 are equal. -/
def FV.cmp (a b : FV) : Option Int :=
  match a, b with
  | .nan, _ => none
  | _, .nan => none
  | .inf x, .inf y => some (if x = y then 0 else if x then -1 else 1)
  | .inf x, .fin .. => some (if x then -1 else 1)
  | .fin .., .inf y => some (if y then 1 else -1)
  | .fin na ma ea, .fin nb mb eb =>
    let e0 := min ea eb
    let x := scaled na ma ea e0
    let y := scaled nb mb eb e0
    some (if x < y then -1 else if x = y then 0 else 1)

/-- The sign of a value that is not NaN. -/
def FV.isNeg : FV → Bool
  | .nan => false
  | .inf n => n
  | .fin n _ _ => n

/-- `a` is the smaller, −0 below +0 (R77, R135); neither is NaN. -/
def FV.below (a b : FV) : Bool :=
  match FV.cmp a b with
  | some c => c == -1 || (c == 0 && a.isNeg && !b.isNeg)
  | none => false

/-- The smaller or larger by R77; NaN where an operand is. -/
def FV.minmax (big : Bool) (a b : FV) : FV :=
  match a, b with
  | .nan, _ => .nan
  | _, .nan => .nan
  | _, _ => if FV.below a b != big then a else b

/-- Width and signedness of the integer TY codes 4 to 7 (R43). -/
def tyWidth (ty : Nat) : Nat :=
  match ty with
  | 0 => 32
  | 1 => 16
  | 2 => 16
  | 3 => 64
  | 4 => 32
  | 5 => 16
  | _ => 8

/-- An integer of a TY code as an exact integer. -/
def tyInteger (ty n : Nat) : Int := if ty = 7 then ((n % 256 : Nat) : Int) else toSigned (tyWidth ty) n

/-- The FMT code of a float TY code (R43, R44). -/
def tyFloat (ty : Nat) : Nat := if ty = 0 then 1 else if ty = 1 then 2 else if ty = 2 then 3 else 0

/-- A TY code is one of the integer types. -/
def isIntTy (ty : Nat) : Bool := decide (4 ≤ ty)

/-- The value of a raw element of a TY code. -/
def tyVal (ty n : Nat) : FV := if isIntTy ty then intFV (tyInteger ty n) else (fmtOf (tyFloat ty)).decode n

/-- One arithmetic operation on raw 32-bit (or 16-bit for BADD.BF16) elements at a bank unit, by FN (R179). -/
def bankOp (fn fac m v : Nat) : Nat :=
  let F := fun n => f32.decode n
  match fn with
  | 0 => (m + v) % 2 ^ 32
  | 1 => f32.round rne false (FV.add false (F m) (F v))
  | 2 => bf16.round rne false (FV.add false (bf16.decode m) (bf16.decode v))
  | 3 => if toSigned 32 m ≤ toSigned 32 v then m else v
  | 4 => if toSigned 32 m ≤ toSigned 32 v then v else m
  | 5 => f32.round rne false (FV.minmax false (F m) (F v))
  | 6 => f32.round rne false (FV.minmax true (F m) (F v))
  | _ => f32.round rne false (FV.fma false (F fac) (F v) (F m))

/-- The value of an E8M0 scale code, as a power of two; `none` is NaN (R64). -/
def e8m0 (c : Nat) : Option Int := if c = 0xFF then none else some ((c : Int) - 127)

/-- A TERN code's value and whether it is the bad code (R65). -/
def ternVal (c : Nat) : Int × Bool := if c = 1 then (1, false) else if c = 3 then (-1, false) else (0, c == 2)

/-- The raw code of element `i` in packed elements given as a little-endian number (R66): the four packings are the same place,
`width × i` bits up. -/
def packedElem (fmt n i : Nat) : Nat := (n / 2 ^ (fmtWidth fmt * i)) % 2 ^ fmtWidth fmt

/-- Bytes of `k` packed elements. -/
def packedBytes (fmt k : Nat) : Nat := (fmtWidth fmt * k + 7) / 8

/-- The exact value of a raw element code; INT8 and TERN as plain integers (R61, R66). -/
def elemVal (fmt c : Nat) : FV :=
  if fmt = 9 then intFV (toSigned 8 c) else if fmt = 10 then intFV (ternVal c).1 else (fmtOf fmt).decode c

/-- `acc` plus an exact contribution, one rounding; the flag is ACCSTAT.OVF (R76). -/
def accumulate (acc : Nat) (s : FV) : Nat × Bool :=
  let a := f32.decode acc
  match s with
  | .fin neg m e =>
    if m ≠ 0 ∧ f32.maxCode < f32.magCode rne neg m e then (f32.round rne false (FV.add false a (.inf neg)), true)
    else match a with
      | .inf _ => (acc, false)
      | .nan => (f32.nanCode, false)
      | .fin .. =>
        let r := f32.round rne false (FV.add false a s)
        (r, r % 2 ^ 31 == f32.infCode)
  | _ => (f32.round rne false (FV.add false a s), false)

/-- Sum of truncated products: each magnitude is cut at `2^(E - Q)` before its sign is applied (R71). -/
def groupSum (q : Nat) (ps : List FV) : FV :=
  let big := ps.foldl (fun (o : Option Int) p => match p with
    | .fin _ m e => if m = 0 then o else
        let l := (Nat.log2 m : Int) + e
        some (match o with
          | none => l
          | some x => max x l)
    | _ => o) none
  match big with
  | none => .fin false 0 0
  | some bigE =>
    let g := bigE - (q : Int)
    let t := ps.foldl (fun (a : Int) p => match p with
      | .fin neg m e =>
        let n : Int := (roundAt (.mode 1) false m e g : Nat)
        if neg then a - n else a + n
      | _ => a) 0
    .fin (decide (t < 0)) t.natAbs g

/-- One group of R71: the products, the sum of the scale codes where the operands are block-scaled, and the accumulator. -/
def groupStep (q : Nat) (ps : List FV) (sc : Option (Nat × Nat)) (acc : Nat) : Nat × Bool :=
  let nan := ps.any (· == .nan)
  let pos := ps.any (· == .inf false)
  let neg := ps.any (· == .inf true)
  let badScale := match sc with
    | some (a, b) => a == 0xFF || b == 0xFF
    | none => false
  if nan || (pos && neg) || badScale then (f32.nanCode, false)
  else if pos || neg then (f32.round rne false (FV.add false (f32.decode acc) (.inf neg)), false)
  else
    let s := groupSum q ps
    accumulate acc (match sc with
      | some (a, b) => s.scale ((a : Int) + (b : Int) - 254)
      | none => s)

/-- mix of the device hash (R72). -/
def mix (z : Word) : Word :=
  let z := z ^^^ (z >>> 33)
  let z := z * 0xFF51AFD7ED558CCD#64
  let z := z ^^^ (z >>> 33)
  let z := z * 0xC4CEB9FE1A85EC53#64
  z ^^^ (z >>> 33)

/-- random_word of the device hash (R72). -/
def randomWord (key : Word) (stream : Nat) (step : Word) (index : Nat) : Word :=
  mix (mix (key ^^^ step) ^^^ (BitVec.ofNat 64 (stream % 2 ^ 32 * 2 ^ 32 + index % 2 ^ 32)))

/-- The advance of RNGKEY after an instruction with SR (R70). -/
def rngStep : Word := 0x9E3779B97F4A7C15#64

/-- The rounding that an RM field and an element index select (R45, R70). -/
def rndOf (rm : Nat) (key : Word) (stream index : Nat) : Rnd :=
  if 8 ≤ rm then .sr (randomWord key stream 0 index >>> 48).toNat else .mode (rm % 4)

/-- The SAT bit of RM (R45). -/
def satOf (rm : Nat) : Bool := bit 2 rm

/-- emax of a format for the choice of a block scale (R67). -/
def emaxOf (fmt : Nat) : Int :=
  match fmt with
  | 4 => 8
  | 5 => 15
  | 6 => 4
  | 7 => 2
  | 8 => 2
  | _ => 0

/-- The conversion of a value to an FMT code 4 to 10 inside quantisation (R67, R69). -/
def quantElem (fmt : Nat) (r : Rnd) (sat : Bool) (s : Int) (v : FV) : Nat :=
  if fmt = 9 then
    match v.scale (6 - s) with
    | .fin neg m e => ofSigned 8 (clampInt (-127) 127 (roundInt r neg m e))
    | _ => 0
  else if fmt = 10 then fvToTern r (v.scale (-s))
  else (fmtOf fmt).round r sat (v.scale (-s))

/-- Quantisation of the values of one block: its scale code and its element codes (R67). -/
def quantBlock (fmt : Nat) (sat : Bool) (vs : List (FV × Rnd)) : Nat × List Nat :=
  let bad := vs.any fun p => match p.1 with
    | .fin .. => false
    | _ => true
  if bad then (0xFF, vs.map fun _ => 0)
  else
    let top := vs.foldl (fun (o : Option Int) p => match p.1 with
      | .fin _ m e => if m = 0 then o else
          let l := (Nat.log2 m : Int) + e
          some (match o with
            | none => l
            | some x => max x l)
      | _ => o) none
    match top with
    | none => (0, vs.map fun p => quantElem fmt p.2 sat 0 p.1)
    | some l =>
      let s := clampInt (-127) 127 (l - emaxOf fmt)
      ((s + 127).toNat, vs.map fun p => quantElem fmt p.2 sat s p.1)

end Sys2Proof.Machine
end

