-- ==== Sys2Proof/Machine/Home.lean ====
section
/-!
DEFINITION. Homes and what reaches them: colours, packets sent, error logs, monitors, and the one operation that writes bytes at their
home (R188, R216, R232, R388, R389, R394, R397, R403, R408, R411).
-/

namespace Sys2Proof.Machine

/-- The snapshot of a job that is RECORDING, if any (R388). -/
def Job.recording (j : Job) : Option Snapshot := j.snaps.find? (fun x => x.state == 1)

/-- Agents that record together: a quay core and the service pipeline that it serves (R103, R390). -/
def sameCore : SnapAgent → SnapAgent → Bool
  | .core p, .quayCore q => p == quayCore q
  | .quayCore q, .core p => p == quayCore q
  | a, b => a == b

/-- The agent that records the thread at a place: its core, or the quay core of its service slot (R103, R390). -/
def locAgent (l : Loc) : SnapAgent := if l.svc then .quayCore l.unit else .core l.unit

/-- The colour of a job member's agent (R388, R390): the colour of the snapshot being recorded once the agent has recorded, the colour of
the one before it until then. -/
def State.colour (s : State) (ctx : Nat) (a : SnapAgent) : Bool :=
  let c := s.ctx ctx
  if c.member then
    let j := s.job c.job
    match j.recording with
    | some r => if r.recorded.any (sameCore a) then r.n % 2 == 1 else r.n % 2 == 0
    | none => j.latest % 2 == 1
  else false

/-- The colour that a die's CA engine gives a member context's packets: the die's own (R388, R389). -/
def State.dieColour (s : State) (ctx d : Nat) : Bool :=
  let c := s.ctx ctx
  if c.member then
    let j := s.job c.job
    match j.recording with
    | some r => if r.started.contains d then r.n % 2 == 1 else r.n % 2 == 0
    | none => j.latest % 2 == 1
  else false

/-- Two agents of a context's job have both recorded for its snapshot, or neither has (R390, R394). A request that a thread makes of an agent, other
than by a packet, is decided while this holds: the one that has not recorded does so first (log entry 61). -/
def State.aligned (s : State) (ctx : Nat) (a b : SnapAgent) : Bool :=
  let c := s.ctx ctx
  if c.member then
    match (s.job c.job).recording with
    | some r => r.recorded.any (sameCore a) == r.recorded.any (sameCore b)
    | none => true
  else true

/-- The core is the even core of a pair, which holds the pair's contexts (R109, R413). The service pipeline of a quay core, an odd core, is
never paired. -/
def State.isPaired (s : State) (core : Nat) : Bool := (s.gang (gangOf core)).paired && core % 2 == 0

/-- The interval of a paired core holds work: an instruction that ends the interval before it issues waits for that (R415). -/
def State.intervalOpen (s : State) (core : Nat) : Bool :=
  let p := (s.core core).pair
  s.isPaired core && (p.retired != 0 || p.upset || !p.gate.isEmpty || !p.undo.isEmpty)

/-- The instruction that runs now on a paired core is alone in its interval, which ends with it (R158, R415). -/
def State.endsInterval (s : State) (core : Nat) : State :=
  if s.isPaired core then s.updCore core fun c => { c with pair := { c.pair with alone := true } } else s

/-- What the core's instruction sends waits in the gate buffer until its interval ends: the core is paired, and the instruction is not alone in
its interval (R415, R416). -/
def State.gates (s : State) (core : Nat) : Bool := s.isPaired core && !(s.core core).pair.alone

/-- A packet put on the network, or into the gate buffer of a paired core that sends it (R416). -/
def State.put (s : State) (p : Packet) : State :=
  if p.src < 4096 ∧ s.gates p.src then
    s.updCore p.src fun c => { c with pair := { c.pair with gate := c.pair.gate ++ [p] } }
  else { s with net := s.net ++ [p] }

/-- A packet of a colour from a place to a rank of a context, with the context's generation (R319, R388). -/
def State.sendAs (s : State) (src : Nat) (colour : Bool) (ctx origin rank : Nat) (k : PKind) : State :=
  s.put { src := src, origin := origin, ctx := ctx, gen := (s.ctx ctx).gen, colour := colour, rank := rank, marker := none, kind := k,
          cycle := s.cycle }

/-- A packet from a place to a rank of a context, with the context's generation and the sender's colour (R319, R388). -/
def State.sendFrom (s : State) (src : Nat) (a : SnapAgent) (ctx origin rank : Nat) (k : PKind) : State :=
  s.sendAs src (s.colour ctx a) ctx origin rank k

/-- A packet sent by a core. -/
def State.send (s : State) (core ctx origin rank : Nat) (k : PKind) : State :=
  s.sendFrom core (.core core) ctx origin rank k

/-- An entry written to a die's error log of one array class, with its report to the host (R408, R411). -/
def State.logErr (s : State) (die array cls ctx place : Nat) (addr : Word) : State :=
  let s1 := s.updDie die fun d =>
    let l := Tab.get {} array d.logs
    let e : LogEntry := { cls := cls, ctx := ctx, place := place, syndrome := (Config.syndrome array addr.toNat).toNat, addr := addr }
    let full := decide (16 ≤ l.entries.length)
    let l' : ErrLog := { entries := (e :: l.entries).take 16, overflow := if full then min 255 (l.overflow + 1) else l.overflow }
    { d with logs := Tab.set array l' d.logs }
  { s1 with aer := cls :: s1.aer }

/-! Soft errors of memory (R403, R406, R408, R410) -/

/-- The home address of a unit of a memory array: HBM by home address, a core's scratchpad and a quay's shared memory by offset. -/
def memUnit (array place unit : Nat) : Option Nat :=
  if array = 0 then some unit
  else if array = 1 then some (spadHome place (unit % 2 ^ 18))
  else if array = 2 then some (quayHome place (unit % 2 ^ 23))
  else none

/-- The array class, place and unit of a home address (R408). -/
def arrayOf (a : Nat) : Nat × Nat × Nat :=
  match homeKind a with
  | .spad => (1, spadCore a, (a - 2 ^ 48) % 2 ^ 18)
  | .quay => (2, homeQuay a, (a - 2 ^ 49) % 2 ^ 23)
  | _ => (0, 0, a)

/-- The injection that a write of a core into an array meets: 0 none, 1 correctable, 2 uncorrectable, 3 misdirected (R410). -/
def State.armed (s : State) (core array : Nat) : Nat :=
  let v := (s.core core).errinj.toNat
  if bits 15 8 v = array then (if bits 1 0 v = 3 ∧ array ≠ 0 then 2 else bits 1 0 v) else 0

/-- A core whose injection has been used: KIND returns to 0 (R410). -/
def State.disarm (s : State) (core : Nat) : State := s.updCore core fun c => { c with errinj := c.errinj &&& 0xFF00#64 }

/-- A corrupted code word in place of what a unit held (R410). -/
def State.corrupt (s : State) (u : Upset) : State :=
  { s with latent := u :: s.latent.filter fun x => !(x.array == u.array && x.place == u.place && x.unit == u.unit) }

/-- A unit of an array written whole: a corrupted code word that it held is gone. -/
def State.rewrote (s : State) (array place : Nat) (unit : Nat → Bool) : State :=
  if s.latent.isEmpty then s
  else { s with latent := s.latent.filter fun x => !(x.array == array && x.place == place && unit x.unit) }

/-- A write of a core into a unit of an array: an armed injection leaves a corrupted code word there (R410). -/
def State.inject (s : State) (core array place unit : Nat) : State :=
  if s.armed core array = 0 then s
  else (s.disarm core).corrupt { array := array, place := place, unit := unit, kind := s.armed core array }

/-- A write of a core that fills a unit of an array. -/
def State.refill (s : State) (core array place unit : Nat) : State := (s.rewrote array place (· == unit)).inject core array place unit

/-- A corrupted code word that a read of its unit meets, taken from the list (R410). -/
def State.takeLatent (s : State) (array place unit : Nat) : Option (Upset × State) :=
  (s.latent.find? fun x => x.array == array && x.place == place && x.unit == unit).map fun x => (x, { s with latent := s.latent.erase x })

/-- A write of a core to memory as an array write: its first unit takes an armed injection. -/
def State.injectMem (s : State) (core a : Nat) : State :=
  let u := arrayOf (unitOf a)
  if homeKind a = Home.host then s else s.inject core u.1 u.2.1 u.2.2

/-- Free bytes: what an error beyond correction leaves in a unit (log entry 8). -/
def State.freeBytes (s : State) (n : Nat) : List Byte := (upFrom s.frees n).map fun i => BitVec.ofNat 8 (Config.freeValue i)

/-- A unit of memory with an error beyond correction: poisoned, its bytes open (R403, R406). -/
def State.spoilMem (s : State) (a : Nat) : State :=
  let u := unitOf a
  let n := poisonUnit a
  { s with mem := s.mem.writeN u (s.freeBytes n), poison := insNat u s.poison, frees := s.frees + n }

/-- A read of the unit at a home address by a context at a place, `ea` being the address of the access: a corrupted code word shows, and a
poisoned sector of HBM decodes as UNCORRECTABLE each time (R406, R408, R410). -/
def State.readUnit (s : State) (ctx place u ea : Nat) : State :=
  let k := arrayOf u
  let die := min 7 (homeDie u)
  match s.latent.find? fun x => memUnit x.array x.place x.unit == some u with
  | some x =>
    let s1 := { s with latent := s.latent.erase x }
    if x.kind = 1 then s1.logErr die k.1 0 ctx place (BitVec.ofNat 64 ea)
    else (s1.spoilMem u).logErr die k.1 2 ctx place (BitVec.ofNat 64 ea)
  | none =>
    if homeKind u = Home.hbm ∧ s.poison.contains u then s.logErr die 0 2 ctx place (BitVec.ofNat 64 ea) else s

/-- A read of a run of bytes at its home. -/
def State.readUnits (s : State) (ctx place h n ea : Nat) : State :=
  if s.poison.isEmpty && s.latent.isEmpty then s
  else if homeKind h = Home.host then s
  else (unitsOf h n).foldl (fun t u => t.readUnit ctx place u (ea + u - physOf h)) s

/-- Corrupted code words that a patch of memory rewrites whole are gone. -/
def keepLatent (a : Nat) (l : Patch) (xs : List Upset) : List Upset :=
  xs.filter fun x => match memUnit x.array x.place x.unit with
    | some u => !((upFrom u (poisonUnit u)).all fun b => (patchAt a l b).isSome)
    | none => true

/-- An advisory entry under array 13 (R408). -/
def State.advise (s : State) (die ctx place : Nat) (addr : Word) : State := s.logErr die 13 1 ctx place addr

/-- The increment that a firing monitor sends (R188). -/
def State.fire (s : State) (m : Monitor) (q : Nat) : State :=
  s.sendFrom (quayCore q) (.quayCore q) m.ctx m.rank m.rank (.inc m.berth none)

/-- Monitors of one quay that a write fires (R188): they leave the table and send their increments. -/
def State.fireQuay (s : State) (hit : Monitor → Bool) (q : Nat) : State :=
  let ms := (s.quay q).monitors.filter hit
  if ms.isEmpty then s
  else ms.foldl (fun t m => t.fire m q) (s.updQuay q fun x => { x with monitors := x.monitors.filter fun m => !hit m })

/-- Every monitor that a write fires. -/
def State.fireWhere (s : State) (hit : Monitor → Bool) : State := (s.quays.map Prod.fst).foldl (State.fireQuay · hit) s

/-- The monitors that a write of every byte of a run fires (R188). -/
def State.fireAll (s : State) (a n : Nat) : State := s.fireWhere fun m => decide (a < physOf m.home + 8) && decide (physOf m.home < a + n)

/-- The monitors that a patch fires: those of words of which it writes a byte (R188). -/
def State.firePatch (s : State) (a : Nat) (l : Patch) : State :=
  s.fireWhere fun m => (upFrom (physOf m.home) 8).any fun b => (patchAt a l b).isSome

/-! Encryption of HBM (R428) -/

/-- The key in a slot: the data key followed by the tweak key, as bytes; an erased slot holds zeros (R429). -/
def State.keyBytes (s : State) (slot : Nat) : List Nat :=
  (Tab.get (rep 8 0) slot s.fw.keys).flatMap fun w => (toBytes 8 w.toNat).map (·.toNat)

/-- A sector's 32 bytes as the HBM controller delivers them under a key (R428): the sector is one data unit, its address the tweak. -/
def sectorPlain (key : List Nat) (m : Memory) (u : Nat) : List Byte :=
  (xtsUnit true key u ((m.readN u 32).map (·.toNat))).map (BitVec.ofNat 8)

end Sys2Proof.Machine
end

