-- ==== Sys2Proof/Machine/Arm.lean ====
section
/-!
DEFINITION. The record points of homes: which pages and sub-blocks a snapshot holds, and a die's start of it (R386, R389, R397, R399, R406, R442).
-/

namespace Sys2Proof.Machine

/-- The page or sub-block that holds a home address (R389, R397): 64 KiB of HBM, 4 KiB of scratchpad or shared memory. -/
def pageKey (a : Nat) : Nat := if homeKind a = Home.hbm then a / 65536 * 65536 else a / 4096 * 4096

/-- The size of the page or sub-block that holds a home address (R389, R397). -/
def pageUnit (a : Nat) : Nat := if homeKind a = Home.hbm then 65536 else 4096

/-- A PTE covers a virtual address. -/
def pteCovers (p : Pte) (va : Nat) : Bool := decide (p.va ≤ va) && decide (va < p.va + 2 ^ p.lgs)

/-- The leaf of a context's tables that covers an address. -/
def Context.leaf (c : Context) (va : Nat) : Option Pte := c.ptes.find? (pteCovers · va)

/-- Two addresses lie in one leaf granule of a context: under one leaf, or in one 64 KiB granule that no leaf covers (R167, R313). -/
def Context.sameGranule (c : Context) (a b : Nat) : Bool :=
  match c.leaf a with
  | some p => pteCovers p b
  | none => a / 65536 == b / 65536 && (c.leaf b).isNone

/-- Cells of memory from an address up to another. -/
def Memory.range (m : Memory) (lo hi : Nat) : List (Nat × Byte) := m.filter fun c => decide (lo ≤ c.1) && decide (c.1 < hi)

/-- The poisoned units in a range. -/
def poisRange (p : List Nat) (lo hi : Nat) : List Nat := p.filter fun u => decide (lo ≤ u) && decide (u < hi)

/-- The ranks of a context with their cores, in rank order. -/
def Context.cores (c : Context) : List (Nat × Nat) := (c.ranks.filter fun p => p.2.state != 0).map fun p => (p.1, p.2.phys)

/-- The quays that hold a rank of a context. -/
def Context.quays (c : Context) : List Nat := (c.cores.map fun p => quayOf p.2).eraseDups

/-- The member contexts of a job (R386). -/
def State.members (s : State) (j : Nat) : List Nat := (s.ctxs.filter fun p => p.2.member && p.2.job == j).map Prod.fst

/-- A context is in a job. -/
def State.inJob (s : State) (j ctx : Nat) : Bool := (s.ctx ctx).member && (s.ctx ctx).job == j

/-- The cores of a job's ranks with their contexts and ranks. -/
def State.jobCores (s : State) (j : Nat) : List (Nat × Nat × Nat) :=
  (s.members j).flatMap fun c => (s.ctx c).cores.map fun p => (c, p.1, p.2)

/-- The 64 KiB frames of a context's pages that a snapshot holds: home and virtual address (R397). -/
def Context.snapFrames (c : Context) : List (Nat × Nat) :=
  (c.ptes.filter fun p => p.present && (p.cls == .ordinary || p.cls == .readonly || p.cls == .root || p.cls == .device)).flatMap fun p =>
    (upFrom 0 (2 ^ (p.lgs - 16))).map fun k => (p.frame + 65536 * k, p.va + 65536 * k)

/-- The dies that hold a rank or a page of a job (R389). -/
def State.jobDies (s : State) (j : Nat) : List Nat :=
  (upFrom 0 8).filter fun d =>
    (s.jobCores j).any (fun x => dieOf x.2.2 == d) || (s.members j).any fun c => (s.ctx c).snapFrames.any fun f => homeDie f.1 == d

/-- The quays of a die that hold a rank of a job. -/
def State.jobQuays (s : State) (j d : Nat) : List Nat :=
  (upFrom (16 * d) 16).filter fun q => (s.jobCores j).any fun x => quayOf x.2.2 == q

/-- The recording snapshot of a job changed. -/
def Job.updRec (j : Job) (f : Snapshot → Snapshot) : Job :=
  { j with snaps := j.snaps.map fun x => if x.state = 1 then f x else x }

/-- The number before a snapshot's (R388). -/
def prevSnap (n : Nat) : Nat := if n ≤ 1 then 0xFFFFFFFE else n - 1

/-- The key slot that a page image is read and written under: its page's, and 0 for a sub-block of a scratchpad or of shared memory (R428). -/
def State.imageKey (s : State) (ctx va home : Nat) : Nat :=
  if homeKind home = Home.hbm then (((s.ctx ctx).leaf va).map (·.key)).getD 0 else 0

/-- The bytes of a range under a key slot, those that are not zero. -/
def State.plainRange (s : State) (slot lo hi : Nat) : List (Nat × Byte) :=
  if slot = 0 then s.mem.range lo hi
  else (upFrom (lo / 32) ((hi - lo) / 32)).flatMap fun k =>
    ((upFrom (32 * k) 32).zip (sectorPlain (s.keyBytes slot) s.mem (32 * k))).filter fun c => c.2 != unwritten

/-- The image of a page or sub-block at its record point; an unwritten one goes by reference to the manifest before (R397, R442). -/
def State.imageOf (s : State) (j : Job) (ctx va home size : Nat) (rank : Option Nat) : PageImage :=
  let before := (j.snaps.filter (·.state == 2)).any fun x => x.n == prevSnap j.latest && x.pages.any fun p => p.home == home
  { home := home, size := size, ctx := ctx, va := va, data := s.plainRange (s.imageKey ctx va home) home (home + size), pois := poisRange s.poison home (home + size)
    same := before && !j.written.contains home, rank := rank }

/-- The homes of a die take their record point (R389 step 1). -/
def State.armHomes (s : State) (j d : Nat) : List PageImage :=
  let jb := s.job j
  ((s.members j).flatMap fun c => (((s.ctx c).snapFrames.filter fun f => homeDie f.1 == d).map fun f => s.imageOf jb c f.2 f.1 65536 none))
    ++ (s.jobQuays j d).flatMap fun q => (upFrom 0 2048).map fun k =>
      s.imageOf jb 0 (0x00FD000000000000 + q * 2 ^ 23 + 4096 * k) (quayHome q (4096 * k)) 4096 none

/-- Images added to the recording snapshot, each home once; what had been written before them no longer counts. -/
def Job.addImages (j : Job) (ps : List PageImage) : Job :=
  let ks := ps.map (·.home)
  let k := j.updRec fun x =>
    { x with
      pages := x.pages ++ ps.filter fun p => !(x.pages.any fun y => y.home == p.home)
      written := x.written ++ j.written.filter ks.contains }
  { k with written := j.written.filter fun w => !ks.contains w }

/-- The completion berth of a snapshot incremented (R392). -/
def State.tellSnap (s : State) (x : Snapshot) : State :=
  match x.target with
  | none => s
  | some (ctx, rank, b) => s.sendFrom 16384 (.frontEnd 0) ctx rank rank (.inc b none)

/-- A recording snapshot ends FAILED and releases what it holds (R399). -/
def State.failSnap (s : State) (j : Nat) : State :=
  match (s.job j).recording with
  | none => s
  | some r =>
    (s.updJob j fun y =>
      { y with
        snaps := y.snaps.filter fun z => z.state != 1
        failed := some r.n
        written := r.written.foldl (fun w k => insNat k w) y.written }).tellSnap r

/-- A unit of memory whose code word decodes as beyond correction when an engine reads it (R406, R410). -/
def State.unitBad (s : State) (u : Nat) : Bool :=
  (homeKind u == Home.hbm && s.poison.contains u) || s.latent.any fun x => x.kind != 1 && memUnit x.array x.place x.unit == some u

/-- The units of a page image that do not decode clean. -/
def State.unitsIn (s : State) (p : PageImage) : List Nat :=
  (s.poison ++ s.latent.filterMap fun x => memUnit x.array x.place x.unit).filter fun u => decide (p.home ≤ u) && decide (u < p.home + p.size)

/-- The snapshot engine of a die reads the images that it stores: an error beyond correction is logged, and the snapshot is FAILED (R399, R406). -/
def State.snapReads (s : State) (j d : Nat) (ps : List PageImage) : State :=
  if s.poison.isEmpty && s.latent.isEmpty then s
  else
    let us := (ps.filter fun p => !p.same).flatMap fun p => (s.unitsIn p).map fun u => (p.ctx, u)
    let t := us.foldl (fun t x => t.readUnit x.1 (512 * d) x.2 x.2) s
    if us.any fun x => s.unitBad x.2 then t.failSnap j else t

/-- The images of a core's scratchpad, for the core of a rank (R390, R397). -/
def State.spadImages (s : State) (j ctx rank core : Nat) : List PageImage :=
  (upFrom 0 64).map fun k =>
    s.imageOf (s.job j) ctx (0x00FE000000000000 + rank * 2 ^ 18 + 4096 * k) (spadHome core (4096 * k)) 4096 (some rank)

/-- The scratchpad of a core takes its record point, if it has not (R390). -/
def State.armSpad (s : State) (j : Nat) (x : Nat × Nat × Nat) : State :=
  match (s.job j).recording with
  | none => s
  | some r =>
    if r.pages.any fun p => p.home == spadHome x.2.2 0 then s
    else
      let ps := s.spadImages j x.1 x.2.1 x.2.2
      (s.updJob j fun y => y.addImages ps).snapReads j (dieOf x.2.2) ps

/-- A die starts its snapshot (R389). -/
def State.startDie (s : State) (j d : Nat) : State :=
  match (s.job j).recording with
  | none => s
  | some r =>
    if r.dies.contains d && !r.started.contains d then
      let ps := s.armHomes j d
      (s.updJob j fun x => (x.updRec fun y => { y with started := y.started ++ [d] }).addImages ps).snapReads j d ps
    else s

/-- Every slot of a core, and of its quay's service pipeline for the quay core, that waits for a copy to retire may issue again. So may those
of the cores of its gang: an MMA waits there for the ranges of every member (R151). -/
def State.wakeOverlap (s : State) (core : Nat) : State :=
  let wake := fun (x : Slot) => if x.stall = some Stall.overlap then { x with stall := none } else x
  let s1 := { s with cores := Tab.mapVals (fun k c => if gangOf k = gangOf core then { c with slots := c.slots.map wake } else c) s.cores }
  if core % 32 = 31 then s1.updQuay (quayOf core) fun q => { q with svc := q.svc.map fun x => { x with slot := wake x.slot } } else s1

/-- The launches, with their timers, and the parked items that a die's front end records (R390). -/
def State.frontRecord (s : State) (j d : Nat) : List (Nat × Launch) × List (Nat × Parked) :=
  ((s.launches.filter fun p => p.2.die == d && s.inJob j p.2.ctx).map fun p =>
      (p.1, { p.2 with wdogLeft := p.2.wdogFrom.map fun t => s.time - t }),
    if d = 0 then (s.members j).flatMap fun c => (s.ctx c).parked.map fun p => (c, p) else [])

/-- The recording snapshot of a job with an agent's part added. -/
def State.withRecord (s : State) (j : Nat) (as : List SnapAgent) (f : Snapshot → Snapshot) : State :=
  s.updJob j fun y => y.updRec fun x => { f x with recorded := x.recorded ++ as }

/-- Threads that wait to make a request of an agent try again: an agent has recorded (log entry 61). -/
def State.wakeAligned (s : State) : State := (s.cores.map Prod.fst).foldl State.wakeOverlap s

/-- The front end of a die records, if it has not (R390). -/
def State.recordFront (s : State) (j d : Nat) : State :=
  match (s.job j).recording with
  | none => s
  | some r =>
    if r.recorded.contains (.frontEnd d) || !r.dies.contains d then s
    else
      let t := s.startDie j d
      let f := t.frontRecord j d
      (t.withRecord j [.frontEnd d] fun x => { x with launches := x.launches ++ f.1, parked := x.parked ++ f.2 }).wakeAligned

end Sys2Proof.Machine
end

