-- ==== Sys2Proof/Machine/Patch.lean ====
section
/-!
DEFINITION. The one operation that writes bytes at their home, and what it does beside: the jobs' view of the write, monitors, encryption
(R188, R230, R389, R394, R397, R428).
-/

namespace Sys2Proof.Machine

/-- The page and sub-block keys that a run of bytes touches. -/
def pageKeys (a n : Nat) : List Nat :=
  let z := pageUnit a
  if n = 0 then [] else (upFrom (a / z) ((a + n - 1) / z - a / z + 1)).map (z * ·)

/-- A job after a write: the pages it reaches count as written since the last record point, and a write of the old colour also reaches
the stored image of a page whose record point has passed; `f` says what it brings to an image (R394, R397). -/
def Job.sawWrite (j : Job) (sameJob old : Bool) (a n : Nat) (f : PageImage → Patch) : Job :=
  let ks := pageKeys a n
  let old' := sameJob && old
  { j with
    written := ks.foldl (fun w k => insNat k w) j.written
    snaps := j.snaps.map fun sn =>
      if sn.state == 1 && old' then
        { sn with pages := sn.pages.map fun pg =>
            if ks.contains pg.home then
              { pg with
                data := Memory.patch pg.data a (f pg)
                pois := patchPoison a (f pg) (unitsOf a n) pg.pois
                same := false }
            else pg }
      else sn }

/-- Memory with 32 bytes stored in a sector under a key (R428). -/
def sectorStore (key : List Nat) (m : Memory) (u : Nat) (bytes : List Byte) : Memory :=
  m.writeN u ((xtsUnit false key u (bytes.map (·.toNat))).map (BitVec.ofNat 8))

/-- `n` bytes from a home address as its home delivers them. -/
def State.homeRead (s : State) (a n : Nat) : List Byte :=
  if keySlotOf a = 0 then s.mem.readN a n
  else
    let p := physOf a
    (((upFrom (p / 32) ((p + n + 31) / 32 - p / 32)).flatMap fun k => sectorPlain (s.keyBytes (keySlotOf a)) s.mem (32 * k)).drop (p % 32)).take n

/-- Memory after a patch of encrypted sectors: each sector that takes a byte of it is decrypted, patched and encrypted anew. -/
def patchKeyed (key : List Nat) (p : Nat) (l : Patch) (m : Memory) : Memory :=
  (unitsOf p l.length).foldl (fun m u =>
    if (upFrom u 32).any fun b => (patchAt p l b).isSome then
      sectorStore key m u (((sectorPlain key m u).zip (upFrom u 32)).map fun x => match patchAt p l x.2 with
        | some (b, _) => b
        | none => x.1)
    else m) m

/-- The context of a write that belongs to none: the host's, or a front end's own. -/
def noContext : Nat := 4096

/-- A write of the new colour to the scratchpad of a core that has not recorded: the scratchpad takes its record point first, and the core is to
record in the same step (R390, R394). -/
def State.meetSpad (s : State) (j core : Nat) : State :=
  match (s.job j).recording with
  | none => s
  | some r =>
    match (s.jobCores j).find? fun x => x.2.2 == core && ((s.ctx x.1).rank x.2.1).state == 1 with
    | none => s
    | some x =>
      if r.recorded.any (sameCore (.core core)) || r.due.contains core then s
      else (s.armSpad j x).updJob j fun y => y.updRec fun z => { z with due := z.due ++ [core] }

/-- What a context sends is of the colour of the snapshot that its job records (R388). -/
def State.isNew (s : State) (ctx : Nat) (colour : Bool) : Bool :=
  (s.ctx ctx).member && (s.job (s.ctx ctx).job).recording.any fun r => colour == (r.n % 2 == 1)

/-- Traffic of the new colour starts the snapshot of the die that it reaches (R389). -/
def State.startAt (s : State) (ctx : Nat) (colour : Bool) (die : Nat) : State :=
  if s.isNew ctx colour then s.startDie (s.ctx ctx).job die else s

/-- A write of the new colour starts the snapshot of the die that it reaches, before it is performed (R389, R390, R394). -/
def State.startFor (s : State) (ctx : Nat) (colour : Bool) (a : Nat) : State :=
  let t := s.startAt ctx colour (homeDie a)
  if s.isNew ctx colour ∧ homeKind a = Home.spad then t.meetSpad (s.ctx ctx).job (spadCore a) else t

/-- A patch written at its home: the bytes, their poison, the jobs' view of it and the monitors it fires; `f` is what the same write brings to a
stored image, which a later write of the new colour may have left behind. -/
def State.homePut (s : State) (ctx : Nat) (colour : Bool) (home : Nat) (l : Patch) (f : PageImage → Patch) : State :=
  let a := physOf home
  let s := s.startFor ctx colour a
  let s1 := { s with
    mem := if keySlotOf home = 0 then Memory.patch s.mem a l else patchKeyed (s.keyBytes (keySlotOf home)) a l s.mem
    poison := if homeKind a = Home.host then s.poison else patchPoison a l (unitsOf a l.length) s.poison
    jobs := Tab.mapVals (fun jn j =>
      let c := s.ctx ctx
      j.sawWrite (c.member && c.job == jn) (match j.recording with
        | some r => colour != (r.n % 2 == 1)
        | none => false) a l.length f) s.jobs
    latent := keepLatent a l s.latent }
  s1.firePatch a l

/-- A patch that leaves the same bytes whatever it finds. -/
def State.homePatch (s : State) (ctx : Nat) (colour : Bool) (home : Nat) (l : Patch) : State := s.homePut ctx colour home l fun _ => l

/-- Bytes of a stored image with their poison. -/
def PageImage.read (p : PageImage) (a n : Nat) : List (Byte × Bool) :=
  (Memory.readN p.data a n).zip ((upFrom a n).map (poisoned p.pois))

/-- Bytes written at their home. -/
def State.homeWrite (s : State) (ctx : Nat) (colour : Bool) (a : Nat) (data : List Byte) (pois : List Bool) : State :=
  s.homePatch ctx colour a (patchOf data pois)

/-- `n` bytes at an HDM offset lie in the HBM of the package (R1, R304). -/
def inHdm (off n : Nat) : Bool := decide (off + n ≤ 8 * dieHbm)

/-- Bytes of the HDM range as they stand; an offset that the descriptor or a register gives beyond the HBM reads 0 (log entry 37). -/
def State.hdmRead (s : State) (off n : Nat) : List Byte := if inHdm off n then s.mem.readN off n else rep n 0

/-- What a front end's read of the HDM range shows of errors there (R406, R410). -/
def State.hdmNote (s : State) (ctx off n : Nat) : State := if inHdm off n then s.readUnits ctx 0 off n off else s

/-- Bytes that a front end writes to the HDM range; beyond the HBM they are dropped (log entry 37). -/
def State.hdmWrite (s : State) (off : Nat) (bytes : List Byte) : State :=
  if inHdm off bytes.length then s.homeWrite noContext false off bytes [] else s

/-- A line and its poison from 64 bytes. -/
def lineOf (l : List (Byte × Bool)) : Line × BitVec 64 :=
  (BitVec.ofNat 512 (ofBytes (l.map Prod.fst)), BitVec.ofNat 64 (l.foldr (fun x n => 2 * n + b2n x.2) 0))

/-- A line's bytes and their poison as its home holds them. -/
def State.homeLine (s : State) (a : Nat) : Line × BitVec 64 :=
  (BitVec.ofNat 512 (ofBytes (s.homeRead a 64)),
   BitVec.ofNat 64 ((upFrom 0 64).foldr (fun i n => 2 * n + b2n (poisoned s.poison (a + i))) 0))

/-- Per-byte poison spread over elements of `w` bytes: an element is poisoned when any byte of it is. -/
def spreadPois (w : Nat) (p : BitVec 64) (i : Nat) : Bool := (upFrom (i * w) w).any fun b => p.getLsbD b

/-- A queue operation applied to a line's bytes and poison (R179, R230, R404). Lanes of a bank operation are counted within the piece:
16 lanes of 4 bytes, or 32 of 2 bytes for BADD.BF16. Poison of a byte or element that the operation does not write, under a poisoned mask, poisons what
stands there (R404). -/
def QOp.apply (op : QOp) (l : Line × BitVec 64) : Line × BitVec 64 :=
  match op with
  | .store m d p =>
    (upFrom 0 64).foldl (fun (acc : Line × BitVec 64) i =>
      if m.getLsbD i then
        (setLineBits acc.1 (8 * i) 8 ((d.extractLsb' (8 * i) 8).toNat),
         if p.getLsbD i then acc.2 ||| (1#64 <<< i) else acc.2 &&& ~~~(1#64 <<< i))
      else if p.getLsbD i then (acc.1, acc.2 ||| (1#64 <<< i))
      else acc) l
  | .bank fn lanes d fac p =>
    let w := if fn = 2 then 2 else 4
    (upFrom 0 (64 / w)).foldl (fun (acc : Line × BitVec 64) i =>
      let bm : BitVec 64 := BitVec.ofNat 64 ((2 ^ w - 1) * 2 ^ (w * i))
      if lanes.getLsbD i then
        let m := (acc.1.extractLsb' (8 * w * i) (8 * w)).toNat
        let v := (d.extractLsb' (8 * w * i) (8 * w)).toNat
        let dirty := spreadPois w acc.2 i || spreadPois w p i
        (setLineBits acc.1 (8 * w * i) (8 * w) (bankOp fn fac.toNat m v),
         if dirty then acc.2 ||| bm else acc.2 &&& ~~~bm)
      else if spreadPois w p i then (acc.1, acc.2 ||| bm)
      else acc) l
where
  setLineBits (l : Line) (lo w v : Nat) : Line :=
    BitVec.ofNat 512 (l.toNat - bits (lo + w - 1) lo l.toNat * 2 ^ lo + (v % 2 ^ w) * 2 ^ lo)

/-- The bytes that an operation changes or poisons, as a mask. -/
def QOp.mask : QOp → BitVec 64
  | .store m _ p => m ||| p
  | .bank fn lanes _ _ p =>
    let w := if fn = 2 then 2 else 4
    BitVec.ofNat 64 ((upFrom 0 64).foldr (fun i n => 2 * n + b2n (lanes.getLsbD (i / w) && decide (i / w < 64 / w))) 0) ||| p

/-- The lowest byte of a piece that a mask selects. -/
def firstByte (m : BitVec 64) : Nat := ((upFrom 0 64).find? m.getLsbD).getD 0

/-- The old contents of 8-byte units of the scratchpad of a paired core, added to its undo log (R416). -/
def State.logUnits (s : State) (core : Nat) (us : List Nat) : State :=
  if s.isPaired core then
    s.updCore core fun c => { c with pair := { c.pair with
      undo := c.pair.undo ++ us.map fun u => { home := u, data := s.mem.readN u 8, pois := poisoned s.poison u } } }
  else s

/-- The units of a piece that an operation changes. -/
def QEntry.units (e : QEntry) : List Nat :=
  (unitsOf e.piece 64).filter fun u => (upFrom (u - e.piece) 8).any e.op.mask.getLsbD

/-- A queue entry performed at its home (R231); in the scratchpad of a paired core it leaves what was there in the undo log (R416). -/
def State.homeLand (s : State) (e : QEntry) : State :=
  let s := if homeKind e.piece = Home.spad then s.logUnits (spadCore e.piece) e.units else s
  let after := fun (x : Line × BitVec 64) => let l := e.op.apply x; patchOfLine e.op.mask l.1 l.2
  let s1 := s.homePut e.ctx e.colour e.piece (after (s.homeLine e.piece)) fun p => after (lineOf (p.read (physOf e.piece) 64))
  if e.core < 4096 then s1.injectMem e.core (e.piece + firstByte e.op.mask) else s1

/-- The rank of a context that a physical core holds (R200), a free one where it holds none. -/
def Context.rankAt (c : Context) (phys : Nat) : Nat :=
  match c.ranks.find? fun p => p.2.state == 1 && p.2.phys == phys with
  | some p => p.1
  | none => Config.unrankedCore phys % 2 ^ 24

/-- The rank of a context that a core holds. -/
def Context.rankOn (c : Context) (core : Nat) : Option Nat := (c.ranks.find? fun r => r.2.state != 0 && r.2.phys == core).map Prod.fst

/-- Packets that were held for a rank are still on their way to it: what is sent to it later comes after them (R201). -/
def State.forwarding (s : State) (ctx rank : Nat) : Bool := s.net.any fun p => p.fwd.isSome && p.ctx == ctx && p.rank == rank

/-- What accesses the scratchpad of a rank has to wait: the rank is IN_TRANSIT or SAVED, or packets that were held for it come first. A context
that is being saved leaves its ranks where they are until its cores have published and its chunks have landed (R201, R326, R327). -/
def State.spadWaits (s : State) (ctx rank : Nat) : Bool :=
  let e := (s.ctx ctx).rank rank
  e.state == 3 || (e.state == 2 && (s.ctx ctx).state != 2) || s.forwarding ctx rank

/-- A publish entry as a packet to the rank whose scratchpad it is for (R201). -/
def State.writePacket (s : State) (e : QEntry) (rank : Nat) : Packet :=
  { src := e.core, origin := 0, ctx := e.ctx, gen := (s.ctx e.ctx).gen, colour := e.colour, rank := rank, marker := none, kind := .write e
    cycle := s.cycle }

/-- A queue entry at its home (R231). One for the scratchpad of a rank in motion or saved is held for it like any packet (R201, R327), and one that comes
to a paired core from outside comes in again if its interval runs again (R413, R417). -/
def State.homeApply (s : State) (e : QEntry) : State :=
  if homeKind e.piece = Home.spad ∧ e.core ≠ spadCore e.piece then
    match (s.ctx e.ctx).rankOn (spadCore e.piece) with
    | none => s.homeLand e
    | some r =>
      if s.spadWaits e.ctx r then { s with net := s.net ++ [s.writePacket e r] }
      else if s.isPaired (spadCore e.piece) then
        (s.homeLand e).updCore (spadCore e.piece) fun c => { c with pair := { c.pair with inbound := c.pair.inbound ++ [s.writePacket e r] } }
      else s.homeLand e
  else s.homeLand e

/-- A publish entry that was held for a rank performed at the scratchpad of the core that has the rank now (R201). -/
def State.landWrite (s : State) (e : QEntry) (core : Nat) : State :=
  s.homeLand { e with piece := spadHome core ((e.piece - 2 ^ 48) % 2 ^ 18) }

end Sys2Proof.Machine
end

