-- ==== Sys2Proof/Machine/Phase.lean ====
section
/-!
DEFINITION. Phase consistency: the outbound phase queue, publishes and merge buffers, the snapshot cache, boundaries (R173, R229 to R238).
-/

namespace Sys2Proof.Machine

/-- The operations a merge buffer holds for a line. -/
def heldOps (l : List MergeLine) (line : Nat) : List QEntry :=
  match l.find? (·.line == line) with
  | some m => m.ops
  | none => []

/-- A merge buffer without a line. -/
def dropLine (l : List MergeLine) (line : Nat) : List MergeLine := l.filter (·.line != line)

/-- A merge buffer with operations behind those it holds for a line (R234). -/
def addOps (l : List MergeLine) (line : Nat) (ops : List QEntry) : List MergeLine :=
  if ops.isEmpty then l
  else if l.any (·.line == line) then l.map fun m => if m.line == line then { m with ops := m.ops ++ ops } else m
  else l ++ [{ line := line, ops := ops }]

/-- Operations applied at their home, in order. -/
def State.homeAll (s : State) (ops : List QEntry) : State := ops.foldl State.homeApply s

/-- A line drained from the package merge buffer (R234). -/
def State.drainPkg (s : State) (line : Nat) : State :=
  { s with pkgMerge := dropLine s.pkgMerge line }.homeAll (heldOps s.pkgMerge line)

/-- Operations merged into the package buffer; a full buffer drains its oldest line first (R232). -/
def State.addPkg (s : State) (line : Nat) (ops : List QEntry) : State :=
  let s1 := if s.pkgMerge.any (·.line == line) || decide (s.pkgMerge.length < 4096) then s
    else match s.pkgMerge with
      | m :: _ => s.drainPkg m.line
      | [] => s
  { s1 with pkgMerge := addOps s1.pkgMerge line ops }

/-- A line drained from a die merge buffer: to the package buffer when it is homed off the package, else to its home (R234). -/
def State.drainDie (s : State) (d line : Nat) : State :=
  let ops := heldOps (s.die d).merge line
  let s1 := s.updDie d fun x => { x with merge := dropLine x.merge line }
  if homeDie line < 8 then s1.homeAll ops else s1.addPkg line ops

/-- Operations merged into a die buffer (R232). -/
def State.addDie (s : State) (d line : Nat) (ops : List QEntry) : State :=
  let b := (s.die d).merge
  let s1 := if b.any (·.line == line) || decide (b.length < 8192) then s
    else match b with
      | m :: _ => s.drainDie d m.line
      | [] => s
  s1.updDie d fun x => { x with merge := addOps x.merge line ops }

/-- A line drained from a quay merge buffer: to the die buffer when it is homed off the die, else to its home (R234). -/
def State.drainQuay (s : State) (q line : Nat) : State :=
  let ops := heldOps (s.quay q).merge line
  let s1 := s.updQuay q fun x => { x with merge := dropLine x.merge line }
  if homeDie line = q / 16 then s1.homeAll ops else s1.addDie (q / 16) line ops

/-- Operations merged into a quay buffer (R232). -/
def State.addQuay (s : State) (q line : Nat) (ops : List QEntry) : State :=
  let b := (s.quay q).merge
  let s1 := if b.any (·.line == line) || decide (b.length < 1024) then s
    else match b with
      | m :: _ => s.drainQuay q m.line
      | [] => s
  s1.updQuay q fun x => { x with merge := addOps x.merge line ops }

/-- A line of a quay's own shared memory: a publish takes it to its bank at every scope (R232). -/
def nearHome (q line : Nat) : Bool := homeKind line == Home.quay && homeQuay line == q

/-- Operations on a line sent from a quay to the visibility point of a scope: 0 QUAY, 1 DIE, 2 PKG, 3 SYS (R232, R234). A buffer on
the way that holds the line hands on what it holds ahead of them. -/
def State.deliver (s : State) (q scope line : Nat) (ops : List QEntry) : State :=
  let d := q / 16
  if nearHome q line then
    let held := heldOps (s.quay q).merge line
    (s.updQuay q fun x => { x with merge := dropLine x.merge line }).homeAll (held ++ ops)
  else if scope = 0 then s.addQuay q line ops
  else
    let ops1 := heldOps (s.quay q).merge line ++ ops
    let s1 := s.updQuay q fun x => { x with merge := dropLine x.merge line }
    if homeDie line = d then s1.homeAll ops1
    else if scope = 1 then s1.addDie d line ops1
    else
      let ops2 := heldOps (s1.die d).merge line ++ ops1
      let s2 := s1.updDie d fun x => { x with merge := dropLine x.merge line }
      if homeDie line < 8 then s2.homeAll ops2
      else if scope = 2 then s2.addPkg line ops2
      else
        let ops3 := heldOps s2.pkgMerge line ++ ops2
        { s2 with pkgMerge := dropLine s2.pkgMerge line }.homeAll ops3

/-- The lines of a merge buffer to which a core has contributed. -/
def linesOf (core : Nat) (l : List MergeLine) : List Nat :=
  (l.filter fun m => m.ops.any (·.core == core)).map (·.line)

/-- Everything that a core or engine of quay `q` has published so far carried on to a wider scope's visibility point (R231). -/
def State.pushFrom (s : State) (q core scope : Nat) : State :=
  if scope = 0 then s
  else
    let s1 := (linesOf core (s.quay q).merge).foldl (fun t l => t.deliver q scope l []) s
    if scope = 1 then s1
    else
      let s2 := (linesOf core (s1.die (q / 16)).merge).foldl (fun t l => t.deliver q scope l []) s1
      if scope = 2 then s2 else (linesOf core s2.pkgMerge).foldl (fun t l => t.deliver q scope l []) s2

/-- Everything that a core has published so far carried on (R231). -/
def State.pushEarlier (s : State) (core scope : Nat) : State := s.pushFrom (quayOf core) core scope

/-- What the core's pinned copies become as an entry leaves the queue: a store is merged in, a bank operation unpins (R231). -/
def pinsAfter (e : QEntry) (l : List Pin) : List Pin :=
  match e.op with
  | .store .. => l.map fun p =>
      if p.home == e.piece then
        let r := e.op.apply (p.data, p.pois)
        { p with data := r.1, pois := r.2 }
      else p
  | .bank .. => l.filter fun p => p.home != e.piece

/-- The first entries of a queue with the scope that each is published at, when everything is published at `scope`: an entry of an
outstanding publish keeps its own scope where that is wider (R231). -/
def scopesOf (scope : Nat) : List Pub → List QEntry → List (QEntry × Nat)
  | [], es => es.map fun e => (e, scope)
  | p :: ps, es => (es.take p.n).map (fun e => (e, max scope p.scope)) ++ scopesOf scope ps (es.drop p.n)

/-- Entries delivered in queue order; they leave the queue, with the colour that their core has then (R388), and reach the pinned lines. -/
def State.carry (s : State) (core : Nat) (es : List (QEntry × Nat)) : State :=
  es.foldl (fun t p =>
    (t.deliver (quayOf core) p.2 p.1.piece [{ p.1 with colour := t.colour p.1.ctx (.core core) }]).updCore core fun c => { c with pins := pinsAfter p.1 c.pins }) s

/-- A publish of the whole queue, completed, and with it every publish before it at its own scope (R231). -/
def State.publishNow (s : State) (core scope : Nat) : State :=
  let c := s.core core
  let s1 := s.updCore core fun c => { c with pq := [], pubs := [] }
  (s1.carry core (scopesOf scope c.pubs c.pq)).pushEarlier core (c.pubs.foldl (fun n p => max n p.scope) scope)

/-- A publish that an instruction completes before it goes on (R231). On a paired core its entries wait behind the gate until the interval
ends, but for an instruction that is alone in its interval (R415, R416). -/
def State.publish (s : State) (core scope : Nat) : State :=
  if s.gates core then
    s.updCore core fun c =>
      { c with pubs := c.pubs ++ [{ scope := scope, n := c.pq.length - (c.pubs.map (·.n)).sum }] }
  else s.publishNow core scope

/-- A publish that its thread does not wait for (R187): its entries stay in the queue until PUBLISH_COMPLETE. -/
def State.startPublish (s : State) (core scope : Nat) : State :=
  s.updCore core fun c =>
    { c with pubs := c.pubs ++ [{ scope := scope, n := c.pq.length - (c.pubs.map (·.n)).sum }] }

/-- The oldest outstanding publish of a core completes (R231). -/
def State.completePublish (s : State) (core : Nat) : State :=
  let c := s.core core
  match c.pubs with
  | [] => s
  | p :: ps =>
    let s1 := s.updCore core fun c => { c with pq := c.pq.drop p.n, pubs := ps }
    (s1.carry core ((c.pq.take p.n).map fun e => (e, p.scope))).pushEarlier core p.scope

/-- A refresh: every pinned line is discarded (R236). -/
def State.refresh (s : State) (core : Nat) : State := s.updCore core fun c => { c with pins := [] }

/-- PHASECNT counts `n` explicit boundaries (R29, R237). -/
def State.countPhase (s : State) (core n : Nat) : State := s.updCore core fun c => { c with phasecnt := c.phasecnt + n }

/-- PHASECNT and IMPLICITCNT count one implicit boundary (R238). -/
def State.countImplicit (s : State) (core : Nat) : State :=
  s.updCore core fun c => { c with phasecnt := c.phasecnt + 1, implcnt := c.implcnt + 1 }

/-- An explicit publish boundary. -/
def State.publishB (s : State) (core scope : Nat) : State := (s.publish core scope).countPhase core 1

/-- An explicit refresh boundary. -/
def State.refreshB (s : State) (core : Nat) : State := (s.refresh core).countPhase core 1

/-- The smallest scope that holds a home die's or core's place as seen from a core (R195): 0 QUAY, 1 DIE, 2 PKG. -/
def scopeTo (core dest : Nat) : Nat :=
  if quayOf core = quayOf dest then 0 else if dieOf core = dieOf dest then 1 else 2

/-- The smallest scope that holds an address's point of order (R184, R238). -/
def scopeToHome (core a : Nat) : Nat :=
  match homeKind a with
  | .host => 3
  | .quay => if homeQuay a = quayOf core then 0 else if homeDie a = dieOf core then 1 else 2
  | .spad => scopeTo core (spadCore a)
  | .hbm => if homeDie a = dieOf core then 1 else 2

/-- Room for `need` new queue entries: an implicit publish boundary at QUAY scope when they do not fit (R238). On a paired core its interval ends
with the instruction (R415). -/
def State.makeRoom (s : State) (core need : Nat) : State :=
  if (s.core core).pq.length + need ≤ 64 then s else ((s.publishNow core 0).countImplicit core).endsInterval core

/-- Position of the youngest entry for a piece. -/
def youngest (piece : Nat) (l : List QEntry) : Option Nat :=
  (firstIdx (fun e => e.piece == piece) l.reverse).map fun i => l.length - 1 - i

/-- The entry of a piece that a store may merge into: the youngest one, when it is a store and no outstanding publish carries it
(R187, R230). -/
def mergeInto (c : Core) (piece : Nat) : Option (Nat × QEntry) :=
  match youngest piece c.pq with
  | none => none
  | some i =>
    match c.pq[i]? with
    | none => none
    | some e => match e.op with
      | .store .. => if i < (c.pubs.map (·.n)).sum then none else some (i, e)
      | .bank .. => none

/-- One store piece enters the queue (R230). -/
def State.enqueue (s : State) (core ctx piece : Nat) (mask : BitVec 64) (data : Line) (pois : BitVec 64) : State :=
  let colour := s.colour ctx (.core core)
  (s.updCore core fun c =>
    match mergeInto c piece with
    | some (i, e) =>
      match e.op with
      | .store m d p =>
        let r := (QOp.store mask data pois).apply (d, p)
        { c with pq := setNth { e with op := .store (m ||| mask) r.1 r.2 } i c.pq }
      | .bank .. => c
    | none => { c with pq := c.pq ++ [{ piece := piece, ctx := ctx, core := core, colour := colour, op := .store mask data pois }] }).inject
      core 6 core (128 + (((mergeInto (s.core core) piece).map Prod.fst).getD (s.core core).pq.length))

/-- One bank-operation piece enters the queue as an entry of its own (R180). -/
def State.enqueueBank (s : State) (core ctx piece : Nat) (op : QOp) : State :=
  let colour := s.colour ctx (.core core)
  (s.updCore core fun c =>
    { c with pq := c.pq ++ [{ piece := piece, ctx := ctx, core := core, colour := colour, op := op }] }).inject
      core 6 core (128 + (s.core core).pq.length)

/-- A line as the merge buffers and its home give it (R233): the home's bytes under what each buffer on the core's path holds. -/
def State.lineBelow (s : State) (q line : Nat) : Line × BitVec 64 :=
  let ops := (if homeDie line < 8 then [] else heldOps s.pkgMerge line) ++ heldOps (s.die (q / 16)).merge line
    ++ heldOps (s.quay q).merge line
  ops.foldl (fun l e => e.op.apply l) (s.homeLine line)

/-- The core's own queued stores over a line (R173); bank operations answer no load (R180). -/
def overOwn (c : Core) (line : Nat) (l : Line × BitVec 64) : Line × BitVec 64 :=
  c.pq.foldl (fun l e => if e.piece == line then
      match e.op with
      | .store .. => e.op.apply l
      | .bank .. => l
    else l) l

/-- The bytes of a line that the core's queue holds stores of. -/
def Core.queuedBytes (c : Core) (line : Nat) : BitVec 64 :=
  c.pq.foldl (fun m e => if e.piece == line then
      match e.op with
      | .store k _ _ => m ||| k
      | .bank .. => m
    else m) 0

/-- A pinned line of a core. -/
def Core.pin (c : Core) (line : Nat) : Option Pin := c.pins.find? (·.home == line)

/-- A line as a load of the core reads it (R173, R235), not pinning it. -/
def State.viewLine (s : State) (core line : Nat) : Line × BitVec 64 :=
  let c := s.core core
  overOwn c line (match c.pin line with
    | some p => (p.data, p.pois)
    | none => s.lineBelow (quayOf core) line)

/-- A line as an array stream reads it: own queued stores, else the line by R233, never a pinned one (R149). -/
def State.streamLine (s : State) (core line : Nat) : Line × BitVec 64 :=
  overOwn (s.core core) line (s.lineBelow (quayOf core) line)

/-- A queued operation whose data is lost (R408 class 6). -/
def QOp.spoil (op : QOp) (free : Nat) : QOp :=
  match op with
  | .store m _ _ => .store m (BitVec.ofNat 512 free) (BitVec.allOnes 64)
  | .bank fn l _ f _ => .bank fn l (BitVec.ofNat 512 free) f (BitVec.allOnes 64)

/-- A pinned line of a core or, from unit 128, an entry of its phase queue hit by an error beyond correction: the line is read again, the entry's data
is lost (R408 class 6). -/
def State.strikeHeld (s : State) (core unit : Nat) : State × Option Nat :=
  if unit < 128 then
    match (s.core core).pins[unit]? with
    | some p =>
      let l := s.lineBelow (quayOf core) p.home
      (s.updCore core fun c => { c with pins := setNth { p with data := l.1, pois := l.2 } unit c.pins }, some 0)
    | none => (s, none)
  else
    match (s.core core).pq[unit - 128]? with
    | some e =>
      ({ s with frees := s.frees + 1 }.updCore core fun c =>
        { c with pq := setNth { e with op := e.op.spoil (Config.freeValue s.frees) } (unit - 128) c.pq }, some 2)
    | none => (s, none)

/-- A read of a pinned line or a queue entry of a core: a corrupted code word shows (R408, R410). -/
def State.showHeld (s : State) (core unit : Nat) : State :=
  match s.takeLatent 6 core unit with
  | none => s
  | some (x, t) =>
    let log := fun (u : State) (cls : Nat) => u.logErr (dieOf core) 6 cls ((s.core core).owner.getD 0) core (BitVec.ofNat 64 unit)
    if x.kind = 1 then log t 0
    else match t.strikeHeld core unit with
      | (u, some cls) => log u cls
      | (u, none) => u

/-- What a core holds of some lines in its snapshot cache, where `pin` says that the read looks there, and in its phase queue, read (R173, R235). -/
def State.showLines (s : State) (core : Nat) (pin : Bool) (lines : List Nat) : State :=
  if s.latent.isEmpty then s
  else
    let c := s.core core
    let hit := fun {α : Type} (l : List α) (f : α → Nat) (base : Nat) =>
      (l.zip (upFrom 0 l.length)).filterMap fun p => if lines.contains (f p.1) then some (base + p.2) else none
    ((if pin then hit c.pins (·.home) 0 else []) ++ hit c.pq (·.piece) 128).foldl (fun t u => t.showHeld core u) s

/-- A line pinned, unless it is already (R235). -/
def State.pinLine (s : State) (core line va : Nat) : State :=
  match (s.core core).pin line with
  | some _ => s
  | none =>
    let l := s.lineBelow (quayOf core) line
    (s.updCore core fun c => { c with pins := c.pins ++ [{ home := line, va := va, data := l.1, pois := l.2 }] }).inject
      core 6 core (s.core core).pins.length

/-- Room for the lines one instruction pins: an implicit refresh when they do not fit in the 128 (R238). -/
def State.makePins (s : State) (core : Nat) (lines : List Nat) : State :=
  let c := s.core core
  let fresh := lines.filter fun l => (c.pin l).isNone
  if c.pins.length + fresh.length ≤ 128 then s else (s.refresh core).countImplicit core

/-- What a core's quay still holds of the lines of a run of its scratchpad goes to the home, ahead of a write there (R172, R233, R234). -/
def State.settleOwn (s : State) (core h n : Nat) : State :=
  (((s.quay (quayOf core)).merge.map (·.line)).filter fun l => decide (h < l + 64) && decide (l < h + n)).foldl
    (fun t l => t.deliver (quayOf core) 3 l []) s

/-- The published contents of a line that a core's quay and die still hold, handed on to the home: it drains before an atomic acts there
(R183, R233). -/
def State.settleLine (s : State) (core line : Nat) : State := s.deliver (quayOf core) 3 line []

end Sys2Proof.Machine
end

