-- ==== Sys2Proof/Machine/Address.lean ====
section
/-!
DEFINITION. The checks of one access: how a meaning stops, the address decode, ranks, translation, classes and tags (R49 steps 9 to 14;
R105, R164 to R168, R172, R313 to R316, R428).
-/

namespace Sys2Proof.Machine

/-- How an instruction ends without its effect. -/
inductive Stop where
  /-- trap entry with a cause and EVAL (R9, R53); nothing else has changed -/
  | trap (cause : Nat) (eval : Word)
  /-- POISON_USE: the task is killed (R108) -/
  | kill
  /-- the thread stalls at issue until an event, in the state given -/
  | stall (why : Stall) (s : State)
  /-- the thread has left its slot, in the state given -/
  | gone (s : State)

/-- A part of a meaning: it reads and changes the state, or stops. -/
abbrev M := StateT State (Except Stop)

/-- The state as it stands. -/
def getS : M State := fun s => .ok (s, s)

/-- The state replaced. -/
def setS (t : State) : M Unit := fun _ => .ok ((), t)

/-- The state changed. -/
def modS (f : State → State) : M Unit := fun s => .ok ((), f s)

/-- Trap entry. -/
def trapM {α : Type} (cause : Nat) (eval : Word) : M α := fun _ => .error (.trap cause eval)

/-- The task is killed. -/
def killM {α : Type} : M α := fun _ => .error .kill

/-- The thread stalls until an event. -/
def stallM {α : Type} (w : Stall) : M α := fun s => .error (.stall w s)

/-- The thread has left its slot. -/
def goneM {α : Type} : M α := fun s => .error (.gone s)

/-- A trap unless a condition holds. -/
def require (b : Bool) (cause : Nat) (eval : Word) : M Unit := if b then pure () else trapM cause eval

/-- A value of an optional, or a trap. -/
def orTrap {α : Type} (o : Option α) (cause : Nat) (eval : Word) : M α :=
  match o with
  | some a => pure a
  | none => trapM cause eval

/-- An action for every element of a list, in order. -/
def eachM {α : Type} (f : α → M Unit) : List α → M Unit
  | [] => pure ()
  | a :: t => do
    f a
    eachM f t

/-- The results of an action for every element of a list, in order. -/
def collectM {α β : Type} (f : α → M β) : List α → M (List β)
  | [] => pure []
  | a :: t => do
    let b ← f a
    let bs ← collectM f t
    pure (b :: bs)

/-- The trap causes of R53. -/
def cILLEGAL : Nat := 0x01
def cPRIVILEGE : Nat := 0x02
def cFETCH_FRAME : Nat := 0x03
def cALIGN : Nat := 0x04
def cPAGE_NOT_PRESENT : Nat := 0x05
def cPAGE_PROTECTION : Nat := 0x06
def cTAG_MISMATCH : Nat := 0x07
def cADDRESS : Nat := 0x08
def cPOISON_USE : Nat := 0x09
def cVREG_QUOTA : Nat := 0x0A
def cMIGRATE_DENIED : Nat := 0x0B
def cARRAY_STATE : Nat := 0x0C
def cBERTH_RANGE : Nat := 0x0D
def cCA_NO_LINE : Nat := 0x0E
def cCA_COLLISION_EXHAUSTED : Nat := 0x0F
def cCA_CLASS : Nat := 0x10
def cSLATE : Nat := 0x11
def cSVC : Nat := 0x12
def cBREAK : Nat := 0x13
def cLAUNCH : Nat := 0x14

/-- The regions of R164; `stub` and `bad` are R105's narrowing of the own-scratchpad aperture. -/
inductive Region where
  | own (off : Nat)
  | stub (off : Nat)
  | window (rank off : Nat)
  | quayWin (quay off : Nat)
  | lighter (quay off : Nat)
  | paged (va : Nat)
  | bad
  deriving DecidableEq, Repr

/-- The decode of address bits [55:0] (R164, R105). -/
def regionOf (svc : Bool) (a : Nat) : Region :=
  if a < 0x00FC000000000000 then .paged a
  else if a ≤ 0x00FC0007FFFFFFFF then .lighter (bits 34 16 a) (bits 15 0 a)
  else if 0x00FD000000000000 ≤ a ∧ a ≤ 0x00FD03FFFFFFFFFF then .quayWin (bits 41 23 a) (bits 22 0 a)
  else if 0x00FE000000000000 ≤ a ∧ a ≤ 0x00FE03FFFFFFFFFF then .window (bits 41 18 a) (bits 17 0 a)
  else if 0x00FFFFFFFFFC0000 ≤ a then
    (if svc then (if bits 17 0 a < 4096 then .stub (bits 17 0 a) else .bad) else .own (bits 17 0 a))
  else .bad

/-- What an access does to its bytes, for the class table of R167 and the apertures of R174. -/
inductive Use where
  /-- LD and LDS -/
  | load
  /-- VLD forms and every record or operand read that is a load (R167, R174) -/
  | read
  /-- ST -/
  | store
  /-- VST forms and every output that is a store -/
  | write
  /-- an atomic; the flag says that it is AADD, ASWP or ACAS -/
  | atomic (hostOk : Bool)
  /-- a bank operation (R178) -/
  | bank
  /-- WATCH (R188) -/
  | watch
  /-- a root slot (R373); the flag says that it is written -/
  | root (w : Bool)
  deriving DecidableEq, Repr

/-- The use writes, for page protection, dirty and ATS (R167, R316). -/
def Use.writes : Use → Bool
  | .store => true
  | .write => true
  | .atomic _ => true
  | .bank => true
  | .root w => w
  | _ => false

/-- The use reads, for ATS (R316). -/
def Use.reads : Use → Bool
  | .store => false
  | .write => false
  | _ => true

/-- The classes that admit a use (R167, R373). -/
def admits (c : PageClass) (u : Use) : Bool :=
  match c, u with
  | .ordinary, .bank => false
  | .ordinary, .root _ => false
  | .ordinary, _ => true
  | .readonly, .load => true
  | .readonly, .read => true
  | .root, .load => true
  | .root, .read => true
  | .root, .root _ => true
  | .device, .load => true
  | .device, .store => true
  | .host, .load => true
  | .host, .read => true
  | .host, .store => true
  | .host, .write => true
  | .host, .atomic b => b
  | _, _ => false

/-- The home address of a resolved access; none for a lighter aperture or a stub area. -/
def Place.home? : Place → Option Nat
  | .own h => some h
  | .remote h _ => some h
  | .mem h _ => some h
  | .device h => some h
  | _ => none

/-- The home of a virtual address under a leaf: on the host, or in HBM under the leaf's key slot (R167, R315, R428). -/
def leafHome (p : Pte) (va : Nat) : Nat :=
  let pa := p.frame + (va - p.va)
  if p.cls = PageClass.host then hostHome pa else keyedHome p.key pa

/-- The translation that a list of cached entries holds (R313): of the context, or a global one. -/
def cached (ctx va : Nat) (l : List TlbEntry) : Option Pte :=
  (l.find? fun e => (e.ctx == ctx || e.pte.global) && pteCovers e.pte va).map (·.pte)

/-- A cache with an entry, the oldest dropped beyond its size. -/
def fill (size : Nat) (e : TlbEntry) (l : List TlbEntry) : List TlbEntry := (e :: l).take size

/-- The 8-way second-level cache of 2,048 entries with an entry (R313): the oldest of its set dropped beyond 8. Others may be dropped at any time
(`Move.dropL2`). -/
def fillL2 (e : TlbEntry) (l : List TlbEntry) : List TlbEntry :=
  let here := fun (x : TlbEntry) => Config.l2Set x.pte.va % 256 == Config.l2Set e.pte.va % 256
  let ways := (l.filter here).take 7
  e :: l.filter fun x => !here x || ways.contains x

/-- The context's tables with accessed, and dirty where the access writes, set (R167). -/
def markPte (va : Nat) (w : Bool) (l : List Pte) : List Pte :=
  l.map fun p => if pteCovers p va then { p with accessed := true, dirty := p.dirty || w } else p

/-- A walk of a context's tables in the die (R313): marks and caches a present leaf. -/
def State.walk (s : State) (core ctx va : Nat) (w : Bool) : Option Pte × State :=
  match (s.ctx ctx).leaf va with
  | none => (none, s)
  | some p =>
    if p.present then
      let e : TlbEntry := { ctx := ctx, pte := p }
      let s1 := s.updCtx ctx fun c => { c with ptes := markPte va w c.ptes }
      let s2 := s1.updQuay (quayOf core) fun q => { q with l2 := fillL2 e q.l2 }
      (some p, (s2.updCore core fun c => { c with tlb := fill 64 e c.tlb }).refill core 8 core va)
    else (none, s)

/-- Requests are answered in the step that issues them, for the current thread (log entry 10). -/
def State.promptHere (s : State) : Bool := s.prompt || s.curSlot.granted

/-- A corrupted entry of a core's TLB that a translation meets is discarded (R408 class 8, R410). -/
def State.showTlb (s : State) (core ctx va : Nat) : State :=
  match cached ctx va (s.core core).tlb with
  | none => s
  | some p => match s.latent.find? fun x => x.array == 8 && x.place == core && pteCovers p x.unit with
    | none => s
    | some x => ({ s with latent := s.latent.erase x }.updCore core fun c => { c with tlb := c.tlb.filter fun e => !pteCovers e.pte va }).logErr
        (dieOf core) 8 0 ctx core (BitVec.ofNat 64 va)

/-- Translation of a virtual address for the current core (R313); none where no present leaf covers it. -/
def translate (ctx va : Nat) (w : Bool) : M (Option Pte) := do
  modS fun s => s.showTlb s.here ctx va
  let s ← getS
  let core := s.here
  match cached ctx va (s.core core).tlb with
  | some p =>
    modS fun s => if w then s.updCtx ctx fun c => { c with ptes := markPte va w c.ptes } else s
    pure (some p)
  | none =>
    match cached ctx va (s.quay (quayOf core)).l2 with
    | some p =>
      modS fun s => ((s.updCtx ctx fun c => { c with ptes := markPte va w c.ptes }).updCore core fun c =>
        { c with tlb := fill 64 { ctx := ctx, pte := p } c.tlb }).refill core 8 core va
      pure (some p)
    | none =>
      if s.promptHere then
        let r := s.walk core ctx va w
        setS r.2
        pure r.1
      else stallM (.walk va)

/-- The key slot of a PTE is loaded; slot 0 is plaintext (R428). -/
def State.keyOk (s : State) (k : Nat) : Bool := k == 0 || (Tab.find k s.fw.keys).isSome

/-- A translation cache entry holds an IOVA (R315). -/
def AtcEntry.holds (e : AtcEntry) (pasid iova : Nat) : Bool := e.pasid == pasid && decide (e.iova ≤ iova) && decide (iova < e.iova + e.size)

/-- The entry of a die's address translation cache for a host address (R315, R382). -/
def State.atcEntry (s : State) (die pasid iova : Nat) : Option AtcEntry := (s.die die).atc.find? fun e => e.holds pasid iova

/-- Translation of a HOST page's IOVA by the die of the current core (R315, R316). -/
def hostAccess (ctx iova : Nat) (u : Use) (eval : Word) : M Unit := do
  let s ← getS
  let d := dieOf s.here
  match s.atcEntry d ctx iova with
  | none =>
    modS fun s => s.updDie d fun x =>
      { x with pendAts := if x.pendAts.contains (ctx, iova / 4096 * 4096) then x.pendAts
                          else x.pendAts ++ [(ctx, iova / 4096 * 4096)] }
    stallM .ats
  | some e => require ((!u.reads || e.r) && (!u.writes || e.w)) cPAGE_NOT_PRESENT eval

/-- Every 32-byte sector of `n` bytes at a home address carries a tag (R168). -/
def State.tagsMatch (s : State) (home n tag : Nat) : Bool :=
  let p := physOf home
  (upFrom (p / 32) ((p + n - 1) / 32 - p / 32 + 1)).all fun k => Tab.get 0 k s.tags == tag

/-- Steps 12 to 14 of R49 on a paged address: present, permission, class, tag. `tagSet` is a tag-setting store (R171); to a HOST page, whose sectors
have no tags, it traps PAGE_PROTECTION whatever the page's tag-enable bit (DESIGN CHOICE, log entry 59). -/
def pagedAccess (th : Thread) (va : Nat) (ea : Word) (n : Nat) (u : Use) (tagSet : Bool) : M Place := do
  let o ← translate th.ctx va u.writes
  let p ← orTrap o cPAGE_NOT_PRESENT ea
  require (p.cls != .reserved) cPAGE_PROTECTION ea
  require (!u.writes || p.write) cPAGE_PROTECTION ea
  let s ← getS
  require (s.keyOk p.key) cPAGE_PROTECTION ea
  require (!tagSet || p.tagEn && p.cls != .host) cPAGE_PROTECTION ea
  let pa := p.frame + (va - p.va)
  if p.cls = PageClass.host then hostAccess th.ctx pa u ea else pure ()
  require (admits p.cls u) cCA_CLASS ea
  let home := leafHome p va
  let s ← getS
  require (tagSet || !p.tagEn || p.cls == .host || s.tagsMatch home n (bits 59 56 ea.toNat)) cTAG_MISMATCH ea
  pure (if p.cls = PageClass.device then .device home else .mem home p.cls)

/-- The quay with a number, if the context's package has it (R165); the model holds package 0. -/
def quayNumber (q : Nat) : Option Nat := if q < 128 then some q else none

/-- Every check of steps 10 to 14 of R49 on one access of `n` bytes aligned to `al`, for the current thread; the accesses that no
other core's scratchpad or lighter aperture may serve are refused by their callers. -/
def access (th : Thread) (u : Use) (al n : Nat) (ea : Word) : M Place := do
  let a := ea.toNat % 2 ^ 56
  require (ea.toNat / 2 ^ 60 == 0) cADDRESS ea
  let s ← getS
  match regionOf th.svc a with
  | .bad => trapM cADDRESS ea
  | .own off =>
    require (u != .bank && u != .watch) cADDRESS ea
    require (a % al == 0) cALIGN ea
    require (u != .root true && u != .root false) cCA_CLASS ea
    pure (.own (spadHome s.here off))
  | .stub off =>
    require (u != .bank && u != .watch) cADDRESS ea
    require (a % al == 0) cALIGN ea
    require (u != .root true && u != .root false) cCA_CLASS ea
    pure (.stub off)
  | .window rank off =>
    let r := (s.ctx th.ctx).rank rank
    require (r.state != 0) cADDRESS ea
    require (u != .bank && u != .watch) cADDRESS ea
    require (a % al == 0) cALIGN ea
    require (u != .root true && u != .root false) cCA_CLASS ea
    if r.state = 1 ∧ (r.phys = s.here ∨ (u.writes ∧ !u.reads) ∨ !s.forwarding th.ctx rank) then
      pure (if r.phys = s.here then .own (spadHome s.here off) else .remote (spadHome r.phys off) rank)
    else stallM .request
  | .quayWin q off =>
    let q ← orTrap (quayNumber q) cADDRESS ea
    require (a % al == 0) cALIGN ea
    require (u != .root true && u != .root false) cCA_CLASS ea
    pure (.mem (quayHome q off) .ordinary)
  | .lighter q off =>
    let q ← orTrap (quayNumber q) cADDRESS ea
    require (u == .load || u == .store) cADDRESS ea
    require (off < 0x400) cADDRESS ea
    require (a % al == 0) cALIGN ea
    pure (.lighter q off)
  | .paged va =>
    require (u != .bank) cADDRESS ea
    require (a % al == 0) cALIGN ea
    pagedAccess th va ea n u false

end Sys2Proof.Machine
end

