-- ==== Sys2Proof/Machine/Ops.lean ====
section
/-!
DEFINITION. The named operations that the meanings share: closing windows, leaving a slot, the end of a task, taking an exception and
returning from one, retiring an instruction, and the two frames (`issue`, `issueLong`) in which every instruction runs (R10 to R21, R48,
R49, R104 to R108, R206, R273, R275).
-/

namespace Sys2Proof.Machine

/-- A thread waits for the range of a kick that its channel has not accepted (R243, R265). -/
def State.awaitsRange (s : State) (th : Thread) : Bool :=
  s.quays.any fun q => q.2.chans.any fun c => c.2.pending.any fun k => k.ctx == th.ctx && k.task == th.task

/-- The outcome of a step. -/
abbrev Out := Host.Outcome State Fault Refusal

/-- The number of a register of the thread at a place among the thread state of a core (array class 5 of R408): 16 to a slot, the service slots
after the barrel slots. -/
def threadUnit (l : Loc) (r : Nat) : Nat := 16 * ((if l.svc then 16 else 0) + l.slot % 16) + r

/-! Fingerprints of paired cores (R414) -/

/-- A fingerprint with one more word. -/
def Fingerprint.mixed (f : Fingerprint) (w : Word) : Fingerprint := { f with even := mix (f.even ^^^ w), odd := mix (f.odd ^^^ w), last := none }

/-- The fingerprint of a task among those of an interval, changed; it starts at 0. -/
def updPrint (ctx : Nat) (t : TaskId) (f : Fingerprint → Fingerprint) (l : List Fingerprint) : List Fingerprint :=
  let mine := fun (x : Fingerprint) => x.ctx == ctx && x.task == t
  f ((l.find? mine).getD { ctx := ctx, task := t }) :: l.filter fun x => !mine x

/-- The fingerprint of the thread at a place of a paired core's barrel changed; the service pipeline is never paired (R413). -/
def State.print (s : State) (l : Loc) (f : Fingerprint → Fingerprint) : State :=
  if !l.svc && s.isPaired l.unit then
    match (s.slot l).th with
    | some th => s.updCore l.unit fun c => { c with pair := { c.pair with prints := updPrint th.ctx th.task f c.pair.prints } }
    | none => s
  else s

/-- A value that carries the poison of an error in the even core alone makes the cores of the pair differ (R408, R413, R414). -/
def State.printPois (s : State) (l : Loc) (p : Bool) : State :=
  if p && !l.svc && s.isPaired l.unit && (s.core l.unit).pair.struck then
    s.updCore l.unit fun c => { c with pair := { c.pair with upset := true } }
  else s

/-- A result word of the thread at a place that goes to X register `r`. -/
def State.printX (s : State) (l : Loc) (r : Nat) (w : PWord) : State :=
  (s.print l fun f => { f.mixed w.v with last := some (s.cycle, r, f.even, f.odd, w.v) }).printPois l w.p

/-- Words of a result of the thread at a place, and whether one is poisoned. -/
def State.printWords (s : State) (l : Loc) (ws : List Word) (p : Bool) : State :=
  (s.print l fun f => ws.foldl Fingerprint.mixed f).printPois l p

/-- The 64-bit words of a run of bytes. -/
def wordsOf (bs : List Byte) : List Word := (upFrom 0 ((bs.length + 7) / 8)).map fun i => BitVec.ofNat 64 (ofBytes ((bs.drop (8 * i)).take 8))

/-- The address and the data of a store of the thread at a place. -/
def State.printStore (s : State) (l : Loc) (ea : Nat) (data : List (Byte × Bool)) : State :=
  s.printWords l (BitVec.ofNat 64 ea :: wordsOf (data.map Prod.fst)) (data.any Prod.snd)

/-- An error that flips bits of the result word that the thread at a place has written in this cycle, on the even or the odd core of its pair
(R414, R417). The model keeps the even core's registers: an error of the odd core's shows in its fingerprint alone (log entry 33). -/
def State.slip (s : State) (l : Loc) (odd : Bool) (flips : Word) : State :=
  match (s.slot l).th with
  | none => s
  | some th =>
    if !l.svc && s.isPaired l.unit then
      match (((s.core l.unit).pair.prints.find? fun f => f.ctx == th.ctx && f.task == th.task).bind (·.last)) with
      | none => s
      | some (cycle, r, e, o, v) =>
        if cycle ≠ s.cycle then s
        else
          let t := s.print l fun f =>
            if odd then { f with odd := mix (o ^^^ v ^^^ flips), last := none } else { f with even := mix (e ^^^ v ^^^ flips), last := none }
          if odd then t else t.setSlot l { t.slot l with th := (t.slot l).th.map fun x => x.setX r { x.xreg r with v := (x.xreg r).v ^^^ flips } }
    else s

/-- One write of a landing latch performed at a place (R17, R122). -/
def State.land (s : State) (l : Loc) (w : LatchWrite) : State :=
  match w with
  | .x r v =>
    (s.setSlot l { s.slot l with th := (s.slot l).th.map fun t => t.setX r v }).refill (locCore l) 5 (locCore l) (threadUnit l r) |>.printX l r v
  | .p i b => (s.setSlot l { s.slot l with th := (s.slot l).th.map fun t => t.setP i b }).printWords l [BitVec.ofNat 64 (b2n b)] false
  | .v r mask val lanes pois =>
    ((s.updCore (locCore l) fun c =>
      c.setV r ((c.v r &&& ~~~mask) ||| (val &&& mask)) ((c.vp r &&& ~~~lanes) ||| (pois &&& lanes))).rewrote 4 (locCore l)
        (fun u => u / 64 == r && lanes.getLsbD (u % 64)) |>.inject (locCore l) 4 (locCore l) (64 * r + firstByte lanes)).printWords
        l ((upFrom 0 32).map fun i => (val &&& mask).extractLsb' (64 * i) 64) (pois &&& lanes != 0)

/-- Bytes that a thread stores: at once in its own scratchpad, else through the phase queue, one entry for each 64-byte piece
(R172, R229, R230). -/
def State.storeBytes (s : State) (core ctx home : Nat) (data : List Byte) (pois : List Bool) : State :=
  if homeKind home = Home.spad ∧ spadCore home = core then
    (((s.settleOwn core home data.length).logUnits core (unitsOf home data.length)).homeWrite ctx (s.colour ctx (.core core)) home data pois).injectMem core home
  else
    let ps := upFrom (home / 64) (if data.length = 0 then 0 else (home + data.length - 1) / 64 - home / 64 + 1)
    let l := patchOf data pois
    ps.foldl (fun t k =>
      let bs := (upFrom (64 * k) 64).map (patchAt home l)
      let mask : BitVec 64 := BitVec.ofNat 64 (bs.foldr (fun o n => 2 * n + b2n o.isSome) 0)
      let dat : Line := BitVec.ofNat 512 (bs.foldr (fun o n => 256 * n + (match o with
        | some (b, _) => b.toNat
        | none => 0)) 0)
      let po : BitVec 64 := BitVec.ofNat 64 (bs.foldr (fun o n => 2 * n + (match o with
        | some (_, p) => b2n p
        | none => 0)) 0)
      t.enqueue core ctx (64 * k) mask dat po) s

/-- The new queue entries that a store to a run of bytes needs (R230). -/
def State.newEntries (s : State) (core home n : Nat) : Nat :=
  if homeKind home = Home.spad ∧ spadCore home = core then 0
  else
    let ps := upFrom (home / 64) (if n = 0 then 0 else (home + n - 1) / 64 - home / 64 + 1)
    (ps.filter fun k => (mergeInto (s.core core) (64 * k)).isNone).length

/-- Bytes of a stub area written, with the poison of its 8-byte units (R105, R403, R404). -/
def SvcSlot.storeStub (x : SvcSlot) (off : Nat) (data : List (Byte × Bool)) : SvcSlot :=
  let n := data.length
  let units := upFrom (off / 8) (if n = 0 then 0 else (off + n - 1) / 8 - off / 8 + 1)
  let dirty := fun u => (data.zip (upFrom off n)).any fun p => p.2 / 8 == u && p.1.2
  let full := fun u => decide (off ≤ 8 * u) && decide (8 * u + 8 ≤ off + n)
  { x with
    stub := (data.zip (upFrom off n)).foldl (fun t p => Tab.set p.2 p.1.1 t) x.stub
    stubp := units.foldl (fun l u => if dirty u then insNat u l else if full u then delNat u l else l) x.stubp }

/-- Bytes stored where a resolved access of the thread at a place goes: at once in the own scratchpad, a stub area or a DEVICE page, else
through the phase queue (R172). Room has been made. -/
def State.storePlace (s : State) (l : Loc) (ctx : Nat) (p : Place) (data : List (Byte × Bool)) : State :=
  let core := locCore l
  let bs := data.map Prod.fst
  let po := data.map Prod.snd
  match p with
  | .own h => s.storeBytes core ctx h bs po
  | .remote h _ => s.storeBytes core ctx h bs po
  | .mem h _ => s.storeBytes core ctx h bs po
  | .device h => s.homeWrite ctx (s.colour ctx (.core core)) h bs po
  | .stub off => s.updQuay l.unit fun q => { q with svc := setNth ((q.svcAt l.slot).storeStub off data) l.slot q.svc }
  | .lighter .. => s

/-- The new queue entries that a store to a place needs. -/
def State.entriesFor (s : State) (core : Nat) (p : Place) (n : Nat) : Nat :=
  match p with
  | .remote h _ => s.newEntries core h n
  | .mem h _ => s.newEntries core h n
  | _ => 0

/-- The stores of R374 performed, with room made for all of them (R238). -/
def State.lateStores (s : State) (l : Loc) (ctx : Nat) (ls : List LateStore) : State :=
  let core := locCore l
  let need := (ls.map fun x => s.entriesFor core x.place x.data.length).sum
  ls.foldl (fun t x => (t.printStore l x.va (x.data.zip x.pois)).storePlace l ctx x.place (x.data.zip x.pois)) (if need = 0 then s else s.makeRoom core need)

/-- A window of the thread at a place closes: the latch is written, then the outputs of R374 are stored, then the refresh of R237 is
taken (R17, R348, R349). -/
def State.closeWindow (s : State) (l : Loc) (w : Window) : State :=
  let s1 := w.latch.foldl (fun t x => t.land l x) s
  let ctx := match (s.slot l).th with
    | some t => t.ctx
    | none => 0
  let s2 := s1.lateStores l ctx w.late
  if w.refresh then s2.refreshB (locCore l) else s2

/-- Windows of a paired core's thread with outputs of R374 wait for the end of an interval that holds work: the stores may take an implicit
boundary, whose publish may not leave inside it (R238, R416). -/
def State.gatesLate (s : State) (l : Loc) (ws : List Window) : Bool :=
  !l.svc && ws.any (fun w => !w.late.isEmpty) && s.intervalOpen l.unit

/-- The first `n` windows of a slot close, oldest first; none where one of them has no result yet (R17, R19). -/
def State.closeFirst (s : State) (l : Loc) (n : Nat) : Option State :=
  let ws := (s.slot l).wins
  if (ws.take n).all (·.decided) && !s.gatesLate l (ws.take n) then
    let s1 := s.setSlot l { s.slot l with wins := ws.drop n }
    some ((ws.take n).foldl (fun t w => t.closeWindow l w) s1)
  else none

/-- How many windows the next instruction of a slot closes: all up to the youngest whose count has run out (R17, R19). -/
def dueWindows : List Window → Nat
  | [] => 0
  | [a] => if a.left = 0 then 1 else 0
  | a :: b :: _ => if b.left = 0 then 2 else if a.left = 0 then 1 else 0

/-- The windows due at the thread's next issue closed, or the slot stalled (R17). -/
def State.closeDue (s : State) (l : Loc) : Option State := s.closeFirst l (dueWindows (s.slot l).wins)

/-- Every window closed (R21). -/
def State.closeAll (s : State) (l : Loc) : Option State := s.closeFirst l (s.slot l).wins.length

/-- The core's instruction is alone in its interval no longer: it has not completed (R415). -/
def State.notAlone (s : State) (core : Nat) : State :=
  if (s.core core).pair.alone then s.updCore core fun c => { c with pair := { c.pair with alone := false } } else s

/-- A slot stalled at issue (R20). -/
def State.stallSlot (s : State) (l : Loc) (w : Stall) : State :=
  (s.setSlot l { s.slot l with stall := some w, granted := false }).notAlone (locCore l)

/-- The slot at a place given up (R13). -/
def State.emptySlot (s : State) (l : Loc) : State :=
  if l.svc then s.updQuay l.unit fun q => { q with svc := setNth {} l.slot q.svc }
  else s.setSlot l {}

/-- The monitors of a task freed (R189). -/
def State.freeMonitors (s : State) (ctx : Nat) (t : TaskId) : State :=
  { s with quays := Tab.mapVals (fun _ q =>
      { q with monitors := q.monitors.filter fun m => !(m.ctx == ctx && m.task == t) }) s.quays }

/-- How a task ends (R107, R108, R206, R297). -/
inductive TaskEnd where
  | exited
  | error (rank cause : Nat)
  | handlerFault (rank cause : Nat)
  | aborted
  deriving DecidableEq, Repr

/-- The top-level launch of a launch, following at most `n` parents (R298). -/
def State.topLaunch (s : State) : Nat → Nat → Nat
  | 0, l => l
  | n + 1, l => match (s.launch l).src with
    | .spawn p .. => s.topLaunch n p
    | .queue .. => l

/-- An error counted at a launch's top-level launch: the first one gives DETAIL, and of the statuses the first in the order of R299 stays
(R298, R299). -/
def State.launchError (s : State) (l : Nat) (status : Nat) (detail : Word) : State :=
  s.updLaunch (s.topLaunch s.launches.length l) fun x =>
    { x with
      errcount := min 0xFFFFFFFF (x.errcount + 1)
      detail := if x.errcount = 0 then detail else x.detail
      firstErr := match x.firstErr with
        | some e => some (min e status)
        | none => some status }

/-- DETAIL of a task error (R298). -/
def detailOf (rank cause : Nat) : Word := BitVec.ofNat 64 (rank % 2 ^ 24 + cause % 256 * 2 ^ 24)

/-- The launch's account of a task that has ended (R206, R298). -/
def State.taskDone (s : State) (l : Nat) (t : TaskId) (how : TaskEnd) : State :=
  let s1 := s.updLaunch l fun x =>
    { x with
      live := x.live.filter fun k => k.taskid != t.taskid
      exited := match how with
        | .exited => x.exited + 1
        | _ => x.exited }
  match how with
  | .exited => s1
  | .aborted => s1
  | .error r c => s1.launchError l 0x04 (detailOf r c)
  | .handlerFault r c => s1.launchError l 0x05 (detailOf r c)

/-- What the front end of a die learns of a launch that it holds: one that has not recorded does so before a sender of the new colour tells it, and what
one of the old colour tells it after it has recorded is channel state, and its record learns it too (R390, R394). `f` changes the launches alone. -/
def State.tellFront (s : State) (ctx die : Nat) (new : Bool) (f : State → State) : State :=
  let c := s.ctx ctx
  if c.member then
    match (s.job c.job).recording with
    | some r =>
      if new then f (s.recordFront c.job die)
      else (f s).updJob c.job fun j => j.updRec fun x => { x with launches := (f { s with launches := r.launches }).launches }
    | none => f s
  else f s

/-- An agent of a context's job has recorded for the snapshot that is being taken (R390). -/
def State.hasRecorded (s : State) (ctx : Nat) (a : SnapAgent) : Bool :=
  ((s.job (s.ctx ctx).job).recording).any fun r => r.recorded.any (sameCore a)

/-- A repetition capture or sequence of a task discarded (R273). -/
def State.dropRep (s : State) (core : Nat) (t : TaskId) : State :=
  s.updCore core fun c => if c.rpt.owner == some t && !c.rpt.running then { c with rpt := {} } else c

/-- A core whose task ends leaves its gang (R141, R157): the gang dissolves, and members that wait at the comparison issue anew, to find it
dissolving; the last to leave frees it. A paired core leaves with its partner (R158). -/
def State.abandonGang (s : State) (core : Nat) : State :=
  let g := gangOf core
  let x := s.gang g
  if bit (core % 8) x.joined then
    let mine := if x.paired then [core % 8 / 2 * 2, core % 8 / 2 * 2 + 1] else [core % 8]
    let left := mine.foldl (fun j m => if bit m j then j - 2 ^ m else j) x.joined
    let waiting := x.mma.filter fun q => !mine.contains q.member
    let s1 := s.updGang g fun y =>
      if left = 0 then { paired := y.paired } else { y with joined := left, dissolving := true, mma := [] }
    waiting.foldl (fun t q =>
      let l : Loc := { svc := false, unit := 8 * g + q.member, slot := q.slot }
      t.setSlot l { t.slot l with stall := none }) s1
  else s

/-- The core that holds the slice of a thread with array access: the one it stands on, or the one it trapped on. -/
def State.sliceCore (s : State) (l : Loc) (th : Thread) : Nat :=
  if th.svc then ((s.ctx th.ctx).rank th.retRank).phys else locCore l

/-- The task of the thread at a place leaves it, its windows already closed: its slot, capture, gang membership and monitors are freed
(R141, R206 step 5, R273). What it had captured on its rank's core before a trap goes too. -/
def State.leaveTask (s : State) (l : Loc) (th : Thread) : State :=
  let s1 := if th.array then s.abandonGang (s.sliceCore l th) else s
  (((s1.emptySlot l).dropRep (locCore l) th.task).dropRep ((s.ctx th.ctx).rank th.rank).phys th.task).freeMonitors th.ctx th.task

/-- The front ends count a task that has ended (R206, R298). -/
def State.countEnd (s : State) (ctx : Nat) (k : TaskId) (new : Bool) (how : TaskEnd) : State :=
  s.tellFront ctx (s.launch k.launch).die new fun t => t.taskDone k.launch k how

/-- The task of the thread at a place ends, and its launch counts it (R206, R298). -/
def State.endTask (s : State) (l : Loc) (th : Thread) (how : TaskEnd) : State :=
  (s.leaveTask l th).countEnd th.ctx th.task (s.hasRecorded th.ctx (locAgent l)) how

/-- Trap entry of a thread that stands at a place (R104, R53): windows close, CAUSE, EPC and EVAL are set, PPRIV := PRIV and PRIV := S, the
core publishes at QUAY scope, and the context leaves for its quay core's service slots with PC at the stub entry address. In a service slot
the trap is a handler fault that ends the task (R107), POISON_USE there among them, and its second cause is logged under array 13, as advisory (DESIGN
CHOICE, log entry 53); elsewhere POISON_USE ends the task without the stub (R108). -/
def State.trapTake (s : State) (l : Loc) (cause : Nat) (eval : Word) : State :=
  match s.closeAll l with
  | none => s.stallSlot l .windowResult
  | some s1 =>
    match (s1.slot l).th with
    | none => s1
    | some th =>
      let core := locCore l
      if th.svc then
        (s1.logErr (dieOf core) 13 1 th.ctx core (BitVec.ofNat 64 cause)).endTask l th (.handlerFault th.rank cause)
      else if cause = cPOISON_USE then (s1.endTask l th (.error th.rank cause)).endsInterval core
      else
        let t1 : Thread := { ((th.setPpriv th.priv).setPriv 2) with
          cause := cause
          epc := th.pc
          eval := eval
          retRank := th.rank
          pc := BitVec.ofNat 64 (s1.ctx th.ctx).desc.stub
          svc := true }
        let s2 := ((s1.dropRep core th.task).publishB core 0).emptySlot l
        s2.send core th.ctx th.rank th.rank (.context 2 t1)

/-- The place from which a core's repetition sequence executes: one past its barrel slots, present only while an instruction of the sequence
is under way (R275; the model's own). -/
def seqLoc (core : Nat) : Loc := { svc := false, unit := core, slot := 16 }

/-- A place is that of a sequence. -/
def isSeqLoc (l : Loc) : Bool := !l.svc && l.slot == 16

/-- The thread at a place runs a repetition sequence on its core. -/
def State.runsSequence (s : State) (l : Loc) : Bool :=
  let r := (s.core (locCore l)).rpt
  match (s.slot l).th with
  | some th => r.running && r.owner == some th.task && r.svc == th.svc
  | none => false

/-- An issue noted at a core's barrel or a quay's service pipeline, and for its thread (R10, R11, R103). -/
def State.noteIssue (s : State) (l : Loc) : State :=
  if isSeqLoc l then s
  else
    let s1 := { s with recent := match (s.slot l).th with
      | some th => (th.ctx, th.task, s.cycle) :: s.recent.filter fun r => !(r.1 == th.ctx && r.2.1 == th.task)
      | none => s.recent }
    if l.svc then s1.updQuay l.unit fun q => { q with svcLast := l.slot, svcIssuedAt := some s.cycle }
    else s1.updCore l.unit fun c => { c with lastSlot := l.slot, issuedAt := some s.cycle }

/-- TRAP ENTRY. A thread whose sequence runs waits for its end, since a trap takes a boundary and migrates (R195, R275); an instruction of the
sequence itself leaves its trap to the sequence. An instruction that traps has issued (R10, R29): now, where `issues`. A paired core ends its interval
before a task of it is ended (R415, R417). -/
def State.trapAs (issues : Bool) (s : State) (l : Loc) (cause : Nat) (eval : Word) : State :=
  if isSeqLoc l then
    s.setSlot l { s.slot l with
      th := (s.slot l).th.map fun t => { t with cause := cause, eval := eval }
      stall := some .trapped }
  else if s.runsSequence l then s.stallSlot l .sequence
  else if cause = cPOISON_USE ∧ !l.svc ∧ s.intervalOpen l.unit then s.stallSlot l .request
  else (if issues && (s.closeAll l).isSome then s.noteIssue l else s).trapTake l cause eval

/-- TRAP ENTRY at the issue of an instruction (R9, R104). -/
def State.trapEnter (s : State) (l : Loc) (cause : Nat) (eval : Word) : State := s.trapAs true l cause eval

/-- The rank that a thread acts and sends for: its own, or in a service slot that of the quay core (R188, R193; log entry 27). -/
def State.issuerRank (s : State) (th : Thread) (core : Nat) : Nat := if th.svc then (s.ctx th.ctx).rankAt core else th.rank

/-- The level that a return restores: PPRIV, and T where its code is 00, that of no thread (R22, R27, R106; log entry 49). -/
def Thread.returnsTo (th : Thread) : Nat := if th.ppriv = 0 then 1 else th.ppriv

/-- RETURN FROM AN EXCEPTION (R106): PC := `pc`, PRIV := PPRIV, PPRIV := 0, and the context leaves its service slot as a packet to `dest`, from the
quay core's rank; CAUSE, EPC, EVAL and the stub area end. -/
def State.trapReturn (s : State) (l : Loc) (th : Thread) (pc : Word) (dest : Nat) : State :=
  let t1 : Thread := { ((th.setPriv th.returnsTo).setPpriv 0) with
    pc := pc, cause := 0, epc := 0, eval := 0, svc := false, rank := dest }
  let core := locCore l
  let scope := scopeTo core ((s.ctx th.ctx).rank dest).phys
  let s1 := (s.publishB core scope).emptySlot l
  s1.send core th.ctx (s.issuerRank th core) dest (.context 3 t1)

/-- The counts of one instruction of a slot: its windows' counts and the slot's issue count (R17, R198), and a stall cleared. -/
def Slot.counted (x : Slot) : Slot :=
  { x with
    wins := x.wins.map fun w => { w with left := w.left - 1 }
    count := x.count + 1
    stall := none
    granted := false }

/-- INSTRET counts one completed instruction of a core (R29), and so does the interval of a paired core (R415). -/
def State.countInstr (s : State) (core : Nat) : State :=
  let d := b2n (s.isPaired core)
  s.updCore core fun c => { c with instret := c.instret + 1, pair := { c.pair with retired := c.pair.retired + d } }

/-- An instruction that has completed in its slot: the PC moves, the counts advance, and the windows open before it count it (R14, R17). -/
def Slot.completed (x : Slot) (pc : Word) (opened : Option Window) : Slot :=
  let y := x.counted
  { y with
    th := y.th.map fun t => { t with pc := pc }
    wins := y.wins ++ opened.toList }

/-- An instruction that issues and completes in its slot (R10, R14, R17). -/
def State.retire (s : State) (l : Loc) (pc : Word) (opened : Option Window) : State :=
  ((s.setSlot l ((s.slot l).completed pc opened)).noteIssue l).countInstr (locCore l)

/-- An instruction completes that its member of a gang issued before (R156). -/
def State.retireIssued (s : State) (l : Loc) (pc : Word) (opened : Option Window) : State :=
  (s.setSlot l ((s.slot l).completed pc opened)).countInstr (locCore l)

/-- The guard of an instruction (R48). -/
def guardOk (h : Hdr) (th : Thread) : Bool := th.p h.gp.toNat != (h.gn == 1#1)

/-- The majors that a repetition capture takes (R273). -/
def capturable (maj : Nat) : Bool :=
  (decide (0x20 ≤ maj) && decide (maj ≤ 0x28)) || (decide (0x41 ≤ maj) && decide (maj ≤ 0x43)) || maj == 0x53 || maj == 0x54
    || maj == 0x68

/-- The majors whose instructions wait for the thread's running sequence: capturable ones, and those that access memory, take a
boundary or migrate (R275). EXIT and MIGRATE, of major 0x61, and ERET wait as well. -/
def waitsForSequence (maj fn : Nat) : Bool :=
  capturable maj || (maj == 0x40 && fn == 0) || (decide (0x50 ≤ maj) && decide (maj ≤ 0x60)) || (maj == 0x61 && (fn == 0 || fn == 2))
    || (decide (0x62 ≤ maj) && decide (maj ≤ 0x64)) || (maj == 0x66 && fn == 0) || (decide (0x6B ≤ maj) && decide (maj ≤ 0x76)) || maj == 0x7B

/-- A form of WAIT, ARRIVE or BAR that takes no boundary (R217, R221). -/
def Instr.noBoundary (i : Instr) : Bool :=
  match i with
  | .waitI _ f => bit 11 f.imm.toNat
  | .arrive _ f => bit 4 f.fl.toNat
  | .bar _ f => bit 4 f.fl.toNat && bit 5 f.fl.toNat
  | _ => false

/-- Bits [63:0] of an instruction, for EVAL (R53). -/
def evalWord (i : Instr) : Word := BitVec.ofNat 64 ((encode i).getD 0)

/-- What the repetition buffer does with an instruction of its thread before it executes (R273, R275). -/
inductive RepView where
  | run | capture | refuse | wait
  deriving DecidableEq, Repr

/-- The repetition buffer's view of an instruction with a true guard. REPE and REPX are handled by their own meanings. -/
def repView (c : Core) (th : Thread) (i : Instr) (maj fn : Nat) : RepView :=
  if c.rpt.owner == some th.task && c.rpt.svc == th.svc then
    if c.rpt.running then (if waitsForSequence maj fn && !Instr.noBoundary i then .wait else .run)
    else if maj == 0x6A && fn != 0 then .run
    else if capturable maj && decide (c.rpt.body.length < 32) then .capture
    else .refuse
  else .run

/-- The end of a body's run: the outcome of the step. -/
def finish (l : Loc) (s : State) : Except Stop (Word × State) → Out
  | .ok (pc, t) => .next (t.retire l pc none)
  | .error (.trap c e) => .next (s.trapEnter l c e)
  | .error .kill => .next (s.trapEnter l cPOISON_USE 0)
  | .error (.stall w t) => .next (t.stallSlot l w)
  | .error (.gone t) => .next t

/-- The next instruction's address (R37 to R41). -/
def Thread.after (th : Thread) (len : Nat) : Word := th.pc + BitVec.ofNat 64 len

/-- The frame that every fetched instruction runs in: a place without a thread does nothing; a false guard nullifies (R48); the
repetition buffer captures, refuses or holds back (R273, R275); otherwise `body` runs. -/
def framed (i : Instr) (h : Hdr) (maj fn len : Nat) (s : State) (body : Thread → Out) : Out :=
  match s.thread with
  | none => .next s
  | some th =>
    if guardOk h th then
      match repView (s.core s.here) th i maj fn with
      | .run => body th
      | .capture =>
        .next ((s.updCore s.here fun c =>
          { c with rpt := { c.rpt with body := c.rpt.body ++ [{ word := (encode i).getD 0, pc := th.pc }] } }).retire s.cur (th.after len) none)
      | .refuse => .next (s.trapEnter s.cur cILLEGAL (evalWord i))
      | .wait => .next (s.stallSlot s.cur .sequence)
    else .next (s.retire s.cur (th.after len) none)

/-- A short instruction: the body answers the next PC. -/
def issueJ (i : Instr) (h : Hdr) (maj fn len : Nat) (s : State) (body : Thread → M Word) : Out :=
  framed i h maj fn len s fun th => finish s.cur s (body th s)

/-- A short instruction that goes on to the next one. -/
def issue (i : Instr) (h : Hdr) (maj fn len : Nat) (s : State) (body : Thread → M Unit) : Out :=
  issueJ i h maj fn len s fun th => do
    body th
    pure (th.after len)

/-- What a long instruction leaves in its window (R16, R17). -/
structure Opening where
  latch : List LatchWrite := []
  decided : Bool := true
  late : List LateStore := []
  refresh : Bool := false
  tag : Nat := 0

/-- The end of a long instruction's run: its window opens. -/
def finishLong (l : Loc) (maj la : Nat) (pc : Word) (s : State) : Except Stop (Opening × State) → Out
  | .ok (o, t) => .next (t.retire l pc (some
      { major := maj, left := la, done := false, decided := o.decided, latch := o.latch, late := o.late, refresh := o.refresh, tag := o.tag }))
  | .error (.trap c e) => .next (s.trapEnter l c e)
  | .error .kill => .next (s.trapEnter l cPOISON_USE 0)
  | .error (.stall w t) => .next (t.stallSlot l w)
  | .error (.gone t) => .next t

/-- A long instruction (R15): with two windows open it closes the older one first (R19); then the body runs and its window opens. -/
def issueLong (i : Instr) (h : Hdr) (maj fn len : Nat) (s : State) (body : Thread → M Opening) : Out :=
  framed i h maj fn len s fun th =>
    if (s.slot s.cur).wins.length < 2 then finishLong s.cur maj h.la.toNat (th.after len) s (body th s)
    else match s.closeFirst s.cur 1 with
      | none => .next (s.stallSlot s.cur .windowResult)
      | some t => match t.thread with
        | none => .next t
        | some th => finishLong s.cur maj h.la.toNat (th.after len) t (body th t)

end Sys2Proof.Machine
end

