-- ==== Sys2Proof/Machine/Operands.lean ====
section
/-!
DEFINITION. Reading operands and writing results of the scalar formats (R42, R47, R83), with poison (R404, R405).
-/

namespace Sys2Proof.Machine

/-- A word without poison. -/
def clean (v : Word) : PWord := { v := v, p := false }

/-- src(code) for an immediate already extended to 64 bits (R83). -/
def srcImm (th : Thread) (imm : Word) (code : BitVec 4) : PWord :=
  if code.toNat ≤ 9 then th.xreg code.toNat
  else if code = 11 then clean imm
  else if code = 12 then clean th.pc
  else clean 0

/-- src(code) of a field that takes no immediate. -/
def src (th : Thread) (code : BitVec 4) : PWord := srcImm th 0 code

/-- Source A of format S. -/
def srcA (f : SF) (th : Thread) : PWord := srcImm th 0 f.a

/-- Source B of format S, with IMM16 sign-extended (R47). -/
def srcB (f : SF) (th : Thread) : PWord := srcImm th (sext64 16 f.imm.toNat) f.b

/-- Source B of format SL, with IMM48 sign-extended. -/
def srcBX (f : SLF) (th : Thread) : PWord := srcImm th (sext64 48 f.imm.toNat) f.b

/-- Source B of format E, with IMM16 sign-extended. -/
def srcBE (f : EF) (th : Thread) : PWord := srcImm th (sext64 16 f.imm.toNat) f.b

/-- write_x of R83 on a thread: code 10 discards. -/
def Thread.writeX (t : Thread) (code : BitVec 4) (w : PWord) : Thread := if code.toNat ≤ 9 then t.setX code.toNat w else t

/-- write_x of R83. -/
def writeX (code : BitVec 4) (w : PWord) : M Unit := modS fun s =>
  let s1 := s.updThread fun t => t.writeX code w
  if code.toNat ≤ 9 then (s1.refill s.here 5 s.here (threadUnit s.cur code.toNat)).printX s.cur code.toNat w else s1

/-- A predicate written; p0 ignores it (R25). -/
def writeP (i : Nat) (b : Bool) : M Unit := modS fun s =>
  (s.updThread fun t => t.setP i b).printWords s.cur [BitVec.ofNat 64 (b2n b)] false

/-- The operation width of an SZ field (R37, R83). -/
def widthOf (sz : BitVec 2) : Nat := if sz = 0 then 64 else if sz = 1 then 32 else if sz = 2 then 16 else 8

/-- A latch write of X destination `code`; code 10 discards (R17, R83). -/
def latchX (code : BitVec 4) (w : PWord) : List LatchWrite := if code.toNat ≤ 9 then [.x code.toNat w] else []

/-- A value used as an address, a branch target or an operand that names a unit: poison kills the task (R405, step 8). -/
def cleanUse (w : PWord) : M Word := if w.p then killM else pure w.v

/-- The effective address of R169 before its poison check: base and index fields as LD has them. -/
def eaOf (th : Thread) (a b : BitVec 4) (fl : BitVec 8) (imm : BitVec 16) : PWord :=
  let x := srcImm th 0 a
  if b.toNat ≤ 9 then
    let y := th.xreg b.toNat
    { v := x.v + (y.v <<< (fl.toNat % 4)), p := x.p || y.p }
  else if b = 10 then x
  else { v := x.v + sext64 16 imm.toNat, p := x.p }

/-- The V register `n` of the thread's quota as a physical register; VREG_QUOTA beyond it (R26, step 7). -/
def vphys (th : Thread) (n : Nat) : M Nat :=
  if n < th.quota then pure (th.vbase + n) else trapM cVREG_QUOTA (BitVec.ofNat 64 n)

end Sys2Proof.Machine
end

