-- ==== Sys2Proof/Machine/Flags.lean ====
section
/-!
DEFINITION. Conditions and predicates: the compares of R87, their combination with a predicate, and the predicate word (R88, R89).
-/

namespace Sys2Proof.Machine

/-- The compares of major 0x04 (R87). -/
inductive Cond where
  | eq | ne | lt | le | ltu | leu
  deriving DecidableEq, Repr

/-- compare_cc on two `w`-bit values (R87). -/
def Cond.holds (c : Cond) (w a b : Nat) : Bool :=
  let a := a % 2 ^ w
  let b := b % 2 ^ w
  match c with
  | .eq => a == b
  | .ne => a != b
  | .lt => decide (toSigned w a < toSigned w b)
  | .le => decide (toSigned w a ≤ toSigned w b)
  | .ltu => decide (a < b)
  | .leu => decide (a ≤ b)

/-- How FL[1:0] combines a condition with the old predicate (R87). -/
def combine (fl : Nat) (old c : Bool) : Bool :=
  if fl % 4 = 0 then c else if fl % 4 = 1 then old && c else old || c

/-- A predicate read with its negation bit (R88). -/
def predOf (th : Thread) (i : BitVec 4) (neg : Bool) : Bool := th.p i.toNat != neg

/-- The predicate word, bit 0 reading 1 (R89). -/
def Thread.predWord (t : Thread) : Word := (t.pred ||| 1#16).setWidth 64

/-- The thread with the predicates that a mask selects written; bit 0 is ignored (R89). -/
def Thread.setPreds (t : Thread) (m v : BitVec 16) : Thread :=
  let m := m &&& 0xFFFE#16
  { t with pred := (t.pred &&& ~~~m) ||| (v &&& m) }

end Sys2Proof.Machine
end

