-- ==== Sys2Proof/Machine/Alu.lean ====
section
/-!
DEFINITION. NOP, the pad parcel, and the integer instructions: majors 0x00 to 0x06 (R14, R84 to R93).
-/

namespace Sys2Proof.Machine

/-- PAD_PARCEL: skipped; it issues nothing and takes no cycle (R14, R32). -/
def execPadParcel (s : State) : Out :=
  match s.thread with
  | none => .next s
  | some th => .next (s.updThread fun t => { t with pc := th.after 4 })

/-- NOP (R93). -/
def execNop (h : Hdr) (f : SF) (s : State) : Out := issue (.nop h f) h 0x00 0 8 s fun _ => pure ()

/-- The operations of majors 0x01 and 0x03 (R85). -/
inductive AluOp where
  | add | sub | and_ | or_ | xor | andn | orn | shl | shr | sar | rol | ror | min_ | max_ | minu | maxu | mul | mulh | mulhu
  | clz | ctz | popc | brev | bswap
  deriving DecidableEq, Repr

/-- Leading zeros of `b` within `w` bits. -/
def clzOf (w b : Nat) : Nat := if b = 0 then w else w - 1 - Nat.log2 b

/-- Trailing zeros of `b`; `w` where it is zero. -/
def ctzOf (w b : Nat) : Nat := ((upFrom 0 w).find? fun i => bit i b).getD w

/-- The number of 1 bits among the low `w`. -/
def popcOf (w b : Nat) : Nat := (upFrom 0 w).countP fun i => bit i b

/-- Bit `i` moved to bit `w - 1 - i`. -/
def brevOf (w b : Nat) : Nat := (upFrom 0 w).foldl (fun n i => 2 * n + b2n (bit i b)) 0

/-- Byte `j` moved to byte `w / 8 - 1 - j`. -/
def bswapOf (w b : Nat) : Nat := ofBytes (toBytes (w / 8) b).reverse

/-- A rotation left within `w` bits. -/
def rolOf (w a n : Nat) : Nat := (a * 2 ^ n + a / 2 ^ (w - n)) % 2 ^ w

/-- The result r of R85 for operands of `w` bits, before it is reduced to `w` bits. -/
def AluOp.eval (op : AluOp) (w a b : Nat) : Nat :=
  let sh := b % w
  let sa := toSigned w a
  let sb := toSigned w b
  match op with
  | .add => a + b
  | .sub => a + (2 ^ w - b)
  | .and_ => a &&& b
  | .or_ => a ||| b
  | .xor => a ^^^ b
  | .andn => a &&& (2 ^ w - 1 - b)
  | .orn => a ||| (2 ^ w - 1 - b)
  | .shl => a * 2 ^ sh
  | .shr => a / 2 ^ sh
  | .sar => ofSigned w (sa / ((2 ^ sh : Nat) : Int))
  | .rol => rolOf w a sh
  | .ror => rolOf w a ((w - sh) % w)
  | .min_ => if sa ≤ sb then a else b
  | .max_ => if sa ≤ sb then b else a
  | .minu => min a b
  | .maxu => max a b
  | .mul => a * b
  | .mulh => ofSigned w ((sa * sb) / ((2 ^ w : Nat) : Int))
  | .mulhu => a * b / 2 ^ w
  | .clz => clzOf w b
  | .ctz => ctzOf w b
  | .popc => popcOf w b
  | .brev => brevOf w b
  | .bswap => bswapOf w b

/-- The Ext column of R85: the results that are zero-extended. -/
def AluOp.zext : AluOp → Bool
  | .shr => true
  | .minu => true
  | .maxu => true
  | .mulhu => true
  | .clz => true
  | .ctz => true
  | .popc => true
  | _ => false

/-- The unary operations read source B only (R84). -/
def AluOp.unary : AluOp → Bool
  | .clz => true
  | .ctz => true
  | .popc => true
  | .brev => true
  | .bswap => true
  | _ => false

/-- The 64-bit result of an operation of width `w` (R83, R85). -/
def AluOp.result (op : AluOp) (w : Nat) (a b : Word) : Word :=
  let r := op.eval w (lowBits w a.toNat) (lowBits w b.toNat)
  if op.zext then zext64 w r else sext64 w r

/-- The result with its poison (R404). -/
def AluOp.apply (op : AluOp) (sz : BitVec 2) (a b : PWord) : PWord :=
  { v := op.result (widthOf sz) a.v b.v, p := b.p || (!op.unary && a.p) }

/-- An operation of major 0x01 (R84, R85). -/
def aluS (op : AluOp) (f : SF) (th : Thread) : M Unit := writeX f.d (op.apply f.sz (srcA f th) (srcB f th))

/-- An operation of major 0x03 (R84, R85). -/
def aluSL (op : AluOp) (f : SLF) (th : Thread) : M Unit := writeX f.d (op.apply f.sz (srcImm th 0 f.a) (srcBX f th))

/-- ADD (R85). -/
def execAdd (h : Hdr) (f : SF) (s : State) : Out := issue (.add h f) h 0x01 0 8 s (aluS .add f)

/-- SUB (R85). -/
def execSub (h : Hdr) (f : SF) (s : State) : Out := issue (.sub h f) h 0x01 1 8 s (aluS .sub f)

/-- AND (R85). -/
def execAndI (h : Hdr) (f : SF) (s : State) : Out := issue (.andI h f) h 0x01 2 8 s (aluS .and_ f)

/-- OR (R85). -/
def execOrI (h : Hdr) (f : SF) (s : State) : Out := issue (.orI h f) h 0x01 3 8 s (aluS .or_ f)

/-- XOR (R85). -/
def execXor (h : Hdr) (f : SF) (s : State) : Out := issue (.xor h f) h 0x01 4 8 s (aluS .xor f)

/-- ANDN (R85). -/
def execAndn (h : Hdr) (f : SF) (s : State) : Out := issue (.andn h f) h 0x01 5 8 s (aluS .andn f)

/-- ORN (R85). -/
def execOrn (h : Hdr) (f : SF) (s : State) : Out := issue (.orn h f) h 0x01 6 8 s (aluS .orn f)

/-- SHL (R85). -/
def execShl (h : Hdr) (f : SF) (s : State) : Out := issue (.shl h f) h 0x01 7 8 s (aluS .shl f)

/-- SHR (R85). -/
def execShr (h : Hdr) (f : SF) (s : State) : Out := issue (.shr h f) h 0x01 8 8 s (aluS .shr f)

/-- SAR (R85). -/
def execSar (h : Hdr) (f : SF) (s : State) : Out := issue (.sar h f) h 0x01 9 8 s (aluS .sar f)

/-- ROL (R85). -/
def execRol (h : Hdr) (f : SF) (s : State) : Out := issue (.rol h f) h 0x01 10 8 s (aluS .rol f)

/-- ROR (R85). -/
def execRor (h : Hdr) (f : SF) (s : State) : Out := issue (.ror h f) h 0x01 11 8 s (aluS .ror f)

/-- MIN (R85). -/
def execMinI (h : Hdr) (f : SF) (s : State) : Out := issue (.minI h f) h 0x01 12 8 s (aluS .min_ f)

/-- MAX (R85). -/
def execMaxI (h : Hdr) (f : SF) (s : State) : Out := issue (.maxI h f) h 0x01 13 8 s (aluS .max_ f)

/-- MINU (R85). -/
def execMinu (h : Hdr) (f : SF) (s : State) : Out := issue (.minu h f) h 0x01 14 8 s (aluS .minu f)

/-- MAXU (R85). -/
def execMaxu (h : Hdr) (f : SF) (s : State) : Out := issue (.maxu h f) h 0x01 15 8 s (aluS .maxu f)

/-- MUL (R85). -/
def execMul (h : Hdr) (f : SF) (s : State) : Out := issue (.mul h f) h 0x01 16 8 s (aluS .mul f)

/-- MULH (R85). -/
def execMulh (h : Hdr) (f : SF) (s : State) : Out := issue (.mulh h f) h 0x01 17 8 s (aluS .mulh f)

/-- MULHU (R85). -/
def execMulhu (h : Hdr) (f : SF) (s : State) : Out := issue (.mulhu h f) h 0x01 18 8 s (aluS .mulhu f)

/-- CLZ (R85). -/
def execClz (h : Hdr) (f : SF) (s : State) : Out := issue (.clz h f) h 0x01 19 8 s (aluS .clz f)

/-- CTZ (R85). -/
def execCtz (h : Hdr) (f : SF) (s : State) : Out := issue (.ctz h f) h 0x01 20 8 s (aluS .ctz f)

/-- POPC (R85). -/
def execPopc (h : Hdr) (f : SF) (s : State) : Out := issue (.popc h f) h 0x01 21 8 s (aluS .popc f)

/-- BREV (R85). -/
def execBrev (h : Hdr) (f : SF) (s : State) : Out := issue (.brev h f) h 0x01 22 8 s (aluS .brev f)

/-- BSWAP (R85). -/
def execBswap (h : Hdr) (f : SF) (s : State) : Out := issue (.bswap h f) h 0x01 23 8 s (aluS .bswap f)

/-- ADD.X (R85). -/
def execAddX (h : Hdr) (f : SLF) (s : State) : Out := issue (.addX h f) h 0x03 0 12 s (aluSL .add f)

/-- SUB.X (R85). -/
def execSubX (h : Hdr) (f : SLF) (s : State) : Out := issue (.subX h f) h 0x03 1 12 s (aluSL .sub f)

/-- AND.X (R85). -/
def execAndX (h : Hdr) (f : SLF) (s : State) : Out := issue (.andX h f) h 0x03 2 12 s (aluSL .and_ f)

/-- OR.X (R85). -/
def execOrX (h : Hdr) (f : SLF) (s : State) : Out := issue (.orX h f) h 0x03 3 12 s (aluSL .or_ f)

/-- XOR.X (R85). -/
def execXorX (h : Hdr) (f : SLF) (s : State) : Out := issue (.xorX h f) h 0x03 4 12 s (aluSL .xor f)

/-- ANDN.X (R85). -/
def execAndnX (h : Hdr) (f : SLF) (s : State) : Out := issue (.andnX h f) h 0x03 5 12 s (aluSL .andn f)

/-- ORN.X (R85). -/
def execOrnX (h : Hdr) (f : SLF) (s : State) : Out := issue (.ornX h f) h 0x03 6 12 s (aluSL .orn f)

/-- SHL.X (R85). -/
def execShlX (h : Hdr) (f : SLF) (s : State) : Out := issue (.shlX h f) h 0x03 7 12 s (aluSL .shl f)

/-- SHR.X (R85). -/
def execShrX (h : Hdr) (f : SLF) (s : State) : Out := issue (.shrX h f) h 0x03 8 12 s (aluSL .shr f)

/-- SAR.X (R85). -/
def execSarX (h : Hdr) (f : SLF) (s : State) : Out := issue (.sarX h f) h 0x03 9 12 s (aluSL .sar f)

/-- ROL.X (R85). -/
def execRolX (h : Hdr) (f : SLF) (s : State) : Out := issue (.rolX h f) h 0x03 10 12 s (aluSL .rol f)

/-- ROR.X (R85). -/
def execRorX (h : Hdr) (f : SLF) (s : State) : Out := issue (.rorX h f) h 0x03 11 12 s (aluSL .ror f)

/-- MIN.X (R85). -/
def execMinX (h : Hdr) (f : SLF) (s : State) : Out := issue (.minX h f) h 0x03 12 12 s (aluSL .min_ f)

/-- MAX.X (R85). -/
def execMaxX (h : Hdr) (f : SLF) (s : State) : Out := issue (.maxX h f) h 0x03 13 12 s (aluSL .max_ f)

/-- MINU.X (R85). -/
def execMinuX (h : Hdr) (f : SLF) (s : State) : Out := issue (.minuX h f) h 0x03 14 12 s (aluSL .minu f)

/-- MAXU.X (R85). -/
def execMaxuX (h : Hdr) (f : SLF) (s : State) : Out := issue (.maxuX h f) h 0x03 15 12 s (aluSL .maxu f)

/-- MUL.X (R85). -/
def execMulX (h : Hdr) (f : SLF) (s : State) : Out := issue (.mulX h f) h 0x03 16 12 s (aluSL .mul f)

/-- MULH.X (R85). -/
def execMulhX (h : Hdr) (f : SLF) (s : State) : Out := issue (.mulhX h f) h 0x03 17 12 s (aluSL .mulh f)

/-- MULHU.X (R85). -/
def execMulhuX (h : Hdr) (f : SLF) (s : State) : Out := issue (.mulhuX h f) h 0x03 18 12 s (aluSL .mulhu f)

/-- CLZ.X (R85). -/
def execClzX (h : Hdr) (f : SLF) (s : State) : Out := issue (.clzX h f) h 0x03 19 12 s (aluSL .clz f)

/-- CTZ.X (R85). -/
def execCtzX (h : Hdr) (f : SLF) (s : State) : Out := issue (.ctzX h f) h 0x03 20 12 s (aluSL .ctz f)

/-- POPC.X (R85). -/
def execPopcX (h : Hdr) (f : SLF) (s : State) : Out := issue (.popcX h f) h 0x03 21 12 s (aluSL .popc f)

/-- BREV.X (R85). -/
def execBrevX (h : Hdr) (f : SLF) (s : State) : Out := issue (.brevX h f) h 0x03 22 12 s (aluSL .brev f)

/-- BSWAP.X (R85). -/
def execBswapX (h : Hdr) (f : SLF) (s : State) : Out := issue (.bswapX h f) h 0x03 23 12 s (aluSL .bswap f)

/-- The operations of major 0x02 (R86). -/
inductive DivOp where
  | div | divu | rem | remu
  deriving DecidableEq, Repr

/-- The result r of R86 for operands of `w` bits. -/
def DivOp.eval (op : DivOp) (w a b : Nat) : Nat :=
  let sa := toSigned w a
  let sb := toSigned w b
  match op with
  | .div => if b = 0 then 2 ^ w - 1 else ofSigned w (Int.tdiv sa sb)
  | .divu => if b = 0 then 2 ^ w - 1 else a / b
  | .rem => if b = 0 then a else ofSigned w (Int.tmod sa sb)
  | .remu => if b = 0 then a else a % b

/-- The 64-bit result of a division of width `w` (R86). -/
def DivOp.result (op : DivOp) (w : Nat) (a b : Word) : Word :=
  let r := op.eval w (lowBits w a.toNat) (lowBits w b.toNat)
  match op with
  | .div => sext64 w r
  | .rem => sext64 w r
  | .divu => zext64 w r
  | .remu => zext64 w r

/-- A division of major 0x02: the result waits in the landing latch (R86). -/
def divS (op : DivOp) (f : SF) (th : Thread) : M Opening :=
  let a := srcA f th
  let b := srcB f th
  pure { latch := latchX f.d { v := op.result (widthOf f.sz) a.v b.v, p := a.p || b.p } }

/-- DIV (R86). -/
def execDiv (h : Hdr) (f : SF) (s : State) : Out := issueLong (.div h f) h 0x02 0 8 s (divS .div f)

/-- DIVU (R86). -/
def execDivu (h : Hdr) (f : SF) (s : State) : Out := issueLong (.divu h f) h 0x02 1 8 s (divS .divu f)

/-- REM (R86). -/
def execRem (h : Hdr) (f : SF) (s : State) : Out := issueLong (.rem h f) h 0x02 2 8 s (divS .rem f)

/-- REMU (R86). -/
def execRemu (h : Hdr) (f : SF) (s : State) : Out := issueLong (.remu h f) h 0x02 3 8 s (divS .remu f)

/-- A compare: its sources are branch uses (R87, R405). -/
def cmpS (c : Cond) (f : SF) (th : Thread) : M Unit := do
  let a ← cleanUse (srcA f th)
  let b ← cleanUse (srcB f th)
  writeP f.d.toNat (combine f.fl.toNat (th.p f.d.toNat) (c.holds (widthOf f.sz) a.toNat b.toNat))

/-- CMP.EQ (R87). -/
def execCmpEq (h : Hdr) (f : SF) (s : State) : Out := issue (.cmpEq h f) h 0x04 0 8 s (cmpS .eq f)

/-- CMP.NE (R87). -/
def execCmpNe (h : Hdr) (f : SF) (s : State) : Out := issue (.cmpNe h f) h 0x04 1 8 s (cmpS .ne f)

/-- CMP.LT (R87). -/
def execCmpLt (h : Hdr) (f : SF) (s : State) : Out := issue (.cmpLt h f) h 0x04 2 8 s (cmpS .lt f)

/-- CMP.LE (R87). -/
def execCmpLe (h : Hdr) (f : SF) (s : State) : Out := issue (.cmpLe h f) h 0x04 3 8 s (cmpS .le f)

/-- CMP.LTU (R87). -/
def execCmpLtu (h : Hdr) (f : SF) (s : State) : Out := issue (.cmpLtu h f) h 0x04 4 8 s (cmpS .ltu f)

/-- CMP.LEU (R87). -/
def execCmpLeu (h : Hdr) (f : SF) (s : State) : Out := issue (.cmpLeu h f) h 0x04 5 8 s (cmpS .leu f)

/-- A predicate operation on pA' and pB' (R88). -/
def predS (op : Bool → Bool → Bool) (f : SF) (th : Thread) : M Unit :=
  writeP f.d.toNat (op (predOf th f.a (bit 0 f.fl.toNat)) (predOf th f.b (bit 1 f.fl.toNat)))

/-- PAND (R88). -/
def execPand (h : Hdr) (f : SF) (s : State) : Out := issue (.pand h f) h 0x05 0 8 s (predS (fun a b => a && b) f)

/-- POR (R88). -/
def execPor (h : Hdr) (f : SF) (s : State) : Out := issue (.por h f) h 0x05 1 8 s (predS (fun a b => a || b) f)

/-- PXOR (R88). -/
def execPxor (h : Hdr) (f : SF) (s : State) : Out := issue (.pxor h f) h 0x05 2 8 s (predS (fun a b => a != b) f)

/-- PNOT (R88). -/
def execPnot (h : Hdr) (f : SF) (s : State) : Out := issue (.pnot h f) h 0x05 3 8 s (predS (fun a _ => !a) f)

/-- PRD (R89). -/
def execPrd (h : Hdr) (f : SF) (s : State) : Out :=
  issue (.prd h f) h 0x05 4 8 s fun th => writeX f.d (clean th.predWord)

/-- PWR: its sources are branch uses (R89, R405). -/
def execPwr (h : Hdr) (f : SF) (s : State) : Out :=
  issue (.pwr h f) h 0x05 5 8 s fun th => do
    let a ← cleanUse (srcA f th)
    let b ← cleanUse (srcB f th)
    modS fun s => s.updThread fun t => t.setPreds (b.setWidth 16) (a.setWidth 16)

/-- SEL (R90): it carries the poison of the value it chooses (R404). -/
def execSel (h : Hdr) (f : SF) (s : State) : Out :=
  issue (.sel h f) h 0x06 0 8 s fun th => writeX f.d (if th.p (f.fl.toNat % 16) then srcA f th else srcB f th)

/-- The field of R91 from the control value: its low bit and its length, cut at bit 63. -/
def fieldOf (c : Nat) : Nat × Nat :=
  let lsb := c % 64
  let len := bits 11 6 c + 1
  (lsb, if 64 < lsb + len then 64 - lsb else len)

/-- An extracted field (R91). -/
def bfExtract (signed : Bool) (a : Nat) (c : Nat) : Word :=
  let p := fieldOf c
  let f := bits (p.1 + p.2 - 1) p.1 a
  if signed then sext64 p.2 f else zext64 p.2 f

/-- An inserted field (R91). -/
def bfInsert (t a c : Nat) : Word :=
  let p := fieldOf c
  BitVec.ofNat 64 (t - bits (p.1 + p.2 - 1) p.1 t * 2 ^ p.1 + a % 2 ^ p.2 * 2 ^ p.1)

/-- BFX (R91). -/
def execBfx (h : Hdr) (f : SF) (s : State) : Out :=
  issue (.bfx h f) h 0x06 1 8 s fun th =>
    let a := srcA f th
    let c := srcB f th
    writeX f.d { v := bfExtract true a.v.toNat (c.v.toNat % 4096), p := a.p || c.p }

/-- BFXU (R91). -/
def execBfxu (h : Hdr) (f : SF) (s : State) : Out :=
  issue (.bfxu h f) h 0x06 2 8 s fun th =>
    let a := srcA f th
    let c := srcB f th
    writeX f.d { v := bfExtract false a.v.toNat (c.v.toNat % 4096), p := a.p || c.p }

/-- BFI: D is read and written (R91). -/
def execBfi (h : Hdr) (f : SF) (s : State) : Out :=
  issue (.bfi h f) h 0x06 3 8 s fun th =>
    let t := src th f.d
    let a := srcA f th
    let c := srcB f th
    writeX f.d { v := bfInsert t.v.toNat a.v.toNat (c.v.toNat % 4096), p := t.p || a.p || c.p }

/-- LEA (R92). -/
def execLea (h : Hdr) (f : SF) (s : State) : Out :=
  issue (.lea h f) h 0x06 4 8 s fun th =>
    let a := srcA f th
    let b := srcB f th
    writeX f.d { v := a.v + (b.v <<< (f.fl.toNat % 8)), p := a.p || b.p }

end Sys2Proof.Machine
end

