-- ==== Sys2Proof/Machine/MemOps.lean ====
section
/-!
DEFINITION. Reads and writes of the issuing thread: splitting, the checks of every piece, migration to a scratchpad's owner, the range
scoreboard, pinning, and the bytes themselves (R20, R49, R105, R166, R172, R173, R195, R235, R238, R243, R405).
-/

namespace Sys2Proof.Machine

/-- An instruction that is alone in its pair interval: the interval ends before it issues, and with it (R158, R415). A service pipeline is never
paired (R413). -/
def aloneM : M Unit := do
  let s ← getS
  if s.cur.svc then pure ()
  else if s.intervalOpen s.here then stallM .request
  else modS fun s => s.endsInterval s.here

/-- A request to an agent that serves the thread's job: it waits while one of the two has recorded for a snapshot and the other has not
(R390, R394; log entry 61). -/
def alignM (th : Thread) (a : SnapAgent) : M Unit := do
  let s ← getS
  if s.aligned th.ctx (locAgent s.cur) a then pure () else stallM .overlap

/-- A request to another agent: answered in this step, or the thread stalls until the event that answers it
(log entry 10). A paired core sends it in an interval of its own (R415). -/
def requestM : M Unit := do
  aloneM
  let s ← getS
  if s.promptHere then pure () else stallM .request

/-- Departure of a context from a place whose windows are closed (R195): publish at the smallest scope that holds the destination, and the
packet of kind `kind`. -/
def State.depart (s : State) (l : Loc) (th : Thread) (kind dest : Nat) (pc : Word) : State :=
  let core := locCore l
  let s1 := ((s.dropRep core th.task).publishB core (scopeTo core ((s.ctx th.ctx).rank dest).phys)).emptySlot l
  s1.send core th.ctx th.rank dest (.context kind { th with pc := pc, rank := dest })

/-- The current thread migrates to a rank with the PC given (R195); `counts` says that its instruction completes here. -/
def departM {α : Type} (dest : Nat) (pc : Word) (counts : Bool) : M α := do
  let s ← getS
  match s.closeAll s.cur with
  | none => stallM .windowResult
  | some t =>
    match t.thread with
    | none => goneM
    | some th => do
      let t1 := t.noteIssue t.cur
      setS ((if counts then t1.countInstr t1.here else t1).depart t.cur th 1 dest pc)
      goneM

/-- A thread that R172 moves to the owner of a scratchpad that it accesses. -/
def Thread.migrates (th : Thread) : Bool := !th.anchored && !th.svc

/-- The rank whose scratchpad window an address lies in. -/
def windowRank (ea : Word) : Option Nat :=
  if ea.toNat / 2 ^ 60 ≠ 0 then none
  else match regionOf false (ea.toNat % 2 ^ 56) with
    | .window r _ => some r
    | _ => none

/-- The rank to whose core an access takes a mobile thread, if any (R166, R172). -/
def State.leavesFor (s : State) (th : Thread) (ea : Word) : Option Nat :=
  (windowRank ea).filter fun r => let e := (s.ctx th.ctx).rank r; th.migrates && e.state != 0 && e.phys != s.here

/-- MIGRATE_DENIED of R172, at step 9 of R49. -/
def deniedCheck (th : Thread) (ea : Word) : M Unit := do
  let s ← getS
  require ((s.leavesFor th ea).all fun r => ((s.ctx th.ctx).rank r).immig) cMIGRATE_DENIED ea

/-- A mobile thread that accesses another core's scratchpad leaves for that core after step 9, with PC at this instruction; the checks that follow
are made there (R172, R196). A rank that is IN_TRANSIT or SAVED holds the thread when it comes (R201, R202). -/
def migrateCheck (th : Thread) (ea : Word) : M Unit := do
  deniedCheck th ea
  let s ← getS
  match s.leavesFor th ea with
  | none => pure ()
  | some r => departM r th.pc false

/-- The class of the page that an address lies in, where it is translated; the class is looked at for the poison rule only (R405). -/
def State.peekClass (s : State) (th : Thread) (ea : Word) : Option PageClass :=
  if ea.toNat / 2 ^ 60 ≠ 0 then none
  else match regionOf th.svc (ea.toNat % 2 ^ 56) with
    | .paged va =>
      match cached th.ctx va (s.core s.here).tlb with
      | some p => some p.cls
      | none =>
        match cached th.ctx va (s.quay (quayOf s.here)).l2 with
        | some p => some p.cls
        | none => match (s.ctx th.ctx).leaf va with
          | some p => if p.present then some p.cls else none
          | none => none
    | _ => none

/-- A poisoned value stored to a HOST or DEVICE page kills the task, at step 8 (R405). -/
def externalCheck (th : Thread) (ea : Word) (p : Bool) : M Unit := do
  let s ← getS
  if p && (s.peekClass th ea == some .host || s.peekClass th ea == some .device) then killM else pure ()

/-- An action whose trap is answered and not taken. -/
def tryM {α : Type} (m : M α) : M (Except (Nat × Word) α) := fun s =>
  match m s with
  | .ok (a, t) => .ok (.ok a, t)
  | .error (.trap c e) => .ok (.error (c, e), s)
  | .error x => .error x

/-- One access that has passed its checks: its address as formed, its length and where it goes. -/
structure Acc where
  ea : Word
  n : Nat
  place : Place
  deriving DecidableEq, Repr

/-- An access checked (steps 10 to 14 of R49). -/
def checked (th : Thread) (u : Use) (al n : Nat) (ea : Word) : M Acc := do
  let p ← access th u al n ea
  pure { ea := ea, n := n, place := p }

/-- The pieces of a run of bytes: cut at every 64-byte boundary. -/
def piecesOf : Nat → Word → Nat → List (Word × Nat)
  | 0, _, _ => []
  | k + 1, ea, n =>
    if n = 0 then []
    else
      let m := min n (64 - ea.toNat % 64)
      (ea, m) :: piecesOf k (ea + BitVec.ofNat 64 m) (n - m)

/-- The pieces of a run of bytes. -/
def pieces (ea : Word) (n : Nat) : List (Word × Nat) := piecesOf (n / 64 + 2) ea n

/-- Every piece of a run checked, in rising order; the alignment is that of the run's first byte. -/
def checkedRun (th : Thread) (u : Use) (al n : Nat) (ea : Word) : M (List Acc) := do
  match pieces ea n with
  | [] => pure []
  | (e, m) :: t => do
    let a ← checked th u al m e
    let as ← collectM (fun p => checked th u 1 p.2 p.1) t
    pure (a :: as)

/-- Bytes `lo` to `lo + n - 1` meet a range, which may run over the top of the 56 address bits (R243). -/
def Range.meets (r : Range) (lo n : Nat) : Bool :=
  (decide (lo < r.hi) && decide (r.lo < lo + n)) || (decide (lo + 2 ^ 56 < r.hi) && decide (r.lo < lo + 2 ^ 56 + n))

/-- The core's range scoreboard guards a byte of an access (R243). -/
def Core.guards (c : Core) (a : Acc) : Bool := c.board.any fun r => r.meets (a.ea.toNat % 2 ^ 56) a.n

/-- A late output of a window overlaps an access, addresses compared as formed (R374). -/
def LateStore.meets (x : LateStore) (a : Acc) : Bool :=
  let lo := a.ea.toNat % 2 ^ 56
  decide (lo < x.va + x.data.length) && decide (x.va < lo + a.n)

/-- How many windows must close before the outputs that accesses overlap have been performed (R374). -/
def lateWindows (as : List Acc) (ws : List Window) : Nat :=
  match firstIdx (fun (w : Window) => w.late.any fun x => as.any x.meets) ws.reverse with
  | some i => ws.length - i
  | none => 0

/-- An access to guarded bytes stalls at issue (R243). One inside the window of a DRAW that has not yet sampled waits for the accesses of the verb that
it may execute, which come first in program order (R20, R242, R357). One that overlaps an output of R374 waits for it: its window closes and the
instruction issues anew (log entry 14). -/
def boardCheck (as : List Acc) : M Unit := do
  let s ← getS
  if as.any (s.core s.here).guards then stallM .overlap else pure ()
  if !as.isEmpty && s.curSlot.wins.any (fun w => !w.decided) then stallM .windowResult else pure ()
  let n := lateWindows as s.curSlot.wins
  if n = 0 then pure ()
  else match s.closeFirst s.cur n with
    | some t => do
      setS t
      goneM
    | none => stallM .windowResult

/-- Bytes `lo` up to `hi` of a line, as a mask. -/
def byteMask (lo hi : Nat) : BitVec 64 := BitVec.ofNat 64 (2 ^ hi - 2 ^ lo)

/-- The lines that an access pins: home line and address as formed (R235). A line of which the core's queue holds every byte that the access reads
answers from the queue, and is not pinned (R173, R233). -/
def Acc.lines (c : Core) (a : Acc) : List (Nat × Nat) :=
  match a.place with
  | .mem h _ =>
    ((upFrom (h / 64) ((h + a.n - 1) / 64 - h / 64 + 1)).filter fun k =>
      let m := byteMask (max h (64 * k) - 64 * k) (min (h + a.n) (64 * k + 64) - 64 * k)
      c.queuedBytes (64 * k) &&& m != m).map fun k => (64 * k, (a.ea.toNat % 2 ^ 56 + 64 * k - h / 64 * 64) / 64 * 64)
  | _ => []

/-- The lines that a core pins for accesses of a context: each is read at its home whole, by R406 and R410, after the one implicit refresh of R238
where they do not all fit. -/
def pinAll (ctx : Nat) (as : List Acc) : M Unit := modS fun s =>
  let ls := as.flatMap (Acc.lines (s.core s.here))
  ls.foldl (fun t l => if ((t.core t.here).pin l.1).isSome then t else (t.readUnits ctx t.here l.1 64 l.2).pinLine t.here l.1 l.2)
    (s.makePins s.here (ls.map Prod.fst).eraseDups)

/-- Bytes of a line with their poison. -/
def lineBytes (l : Line × BitVec 64) (off n : Nat) : List (Byte × Bool) :=
  (upFrom off n).map fun i => (l.1.extractLsb' (8 * i) 8, l.2.getLsbD i)

/-- Bytes from a home address upward as `view` gives their lines. -/
def viewRun (view : Nat → Line × BitVec 64) (h n : Nat) : List (Byte × Bool) :=
  (upFrom (h / 64) (if n = 0 then 0 else (h + n - 1) / 64 - h / 64 + 1)).flatMap fun k =>
    let lo := max h (64 * k)
    let hi := min (h + n) (64 * k + 64)
    lineBytes (view (64 * k)) (lo - 64 * k) (hi - lo)

/-- Bytes at their home, with their poison. -/
def State.homeBytes (s : State) (h n : Nat) : List (Byte × Bool) :=
  (s.homeRead h n).zip ((upFrom h n).map (poisoned s.poison))

/-- Bytes of a core's own scratchpad: what its quay's merge buffer holds for their lines comes first (R172, R233). -/
def State.ownBytes (s : State) (core h n : Nat) : List (Byte × Bool) :=
  if (s.quay (quayOf core)).merge.isEmpty then s.homeBytes h n else viewRun (s.lineBelow (quayOf core)) h n

/-- A byte of a service slot's stub area (R103, R105). -/
def SvcSlot.stubByte (x : SvcSlot) (off : Nat) : Byte × Bool :=
  ((Tab.find off x.stub).getD (Config.stubByte x.seed off), x.stubp.contains (off / 8))

/-- The bytes of an access, in the phase view (`pin`) or as a stream that answers from no pinned line (R149, R173, R235). -/
def State.accBytes (s : State) (pin : Bool) (a : Acc) : List (Byte × Bool) :=
  let core := s.here
  match a.place with
  | .own h => s.ownBytes core h a.n
  | .device h => s.homeBytes h a.n
  | .stub off => (upFrom off a.n).map fun o => ((s.quay s.cur.unit).svcAt s.cur.slot).stubByte o
  | .remote h _ => viewRun (s.streamLine core) h a.n
  | .mem h _ => viewRun (if pin then s.viewLine core else s.streamLine core) h a.n
  | .lighter .. => []

/-- An access that another core must answer. -/
def Acc.isRemote (a : Acc) : Bool :=
  match a.place with
  | .remote .. => true
  | _ => false

/-- What a read of an access shows of errors at its home; the lines that it pins are read there as they are pinned (R406, R410). -/
def State.noteAcc (s : State) (ctx : Nat) (pin : Bool) (a : Acc) : State :=
  let note := fun (h : Nat) => s.readUnits ctx s.here h a.n (a.ea.toNat % 2 ^ 56)
  match a.place with
  | .own h => note h
  | .remote h _ => note h
  | .mem h _ => if pin then s else note h
  | _ => s

/-- The 64-byte pieces of an access that goes through the phase queue (R229). -/
def Acc.queued (a : Acc) : List Nat :=
  match a.place with
  | .remote h _ => (upFrom (h / 64) ((h + a.n - 1) / 64 - h / 64 + 1)).map (64 * ·)
  | .mem h _ => (upFrom (h / 64) ((h + a.n - 1) / 64 - h / 64 + 1)).map (64 * ·)
  | _ => []

/-- Requests to other cores for what accesses read of their scratchpads: each is made while both cores have recorded for a snapshot of the thread's job
or neither has (R172, R390, R394; log entry 61). -/
def remoteM (th : Thread) (as : List Acc) : M Unit := do
  eachM (fun a => match a.place with
    | .remote h _ => alignM th (.core (spadCore h))
    | _ => pure ()) as
  if as.any Acc.isRemote then requestM else pure ()

/-- Checked accesses read: requests to other cores, the range scoreboard, the pins, then the bytes of each. -/
def readAccs (pin : Bool) (as : List Acc) : M (List (List (Byte × Bool))) := do
  let s ← getS
  eachM (fun th => remoteM th as) s.thread.toList
  boardCheck as
  let ctx := (s.thread.map (·.ctx)).getD 0
  modS fun s => as.foldl (fun t a => t.noteAcc ctx pin a) (s.showLines s.here pin (as.flatMap Acc.queued))
  if pin then pinAll ctx as else pure ()
  let s ← getS
  pure (as.map (s.accBytes pin))

/-- A run of bytes checked and read. -/
def readRun (th : Thread) (u : Use) (pin : Bool) (al n : Nat) (ea : Word) : M (List (Byte × Bool)) := do
  let as ← checkedRun th u al n ea
  let bs ← readAccs pin as
  pure bs.flatten

/-- The bytes of a read without their poison. -/
def bytesOf (l : List (Byte × Bool)) : List Byte := l.map Prod.fst

/-- A read is poisoned when any byte of it is (R404). -/
def anyPois (l : List (Byte × Bool)) : Bool := l.any Prod.snd

/-- The little-endian number that a read gives. -/
def numOf (l : List (Byte × Bool)) : Nat := ofBytes (bytesOf l)

/-- Bytes of an access stored for the current thread, its address and data in the thread's fingerprint (R414). Room has been made. -/
def State.storeAcc (s : State) (ctx : Nat) (a : Acc) (data : List (Byte × Bool)) : State :=
  (s.printStore s.cur (a.ea.toNat % 2 ^ 56) data).storePlace s.cur ctx a.place data

/-- What an element that a store leaves out under a poisoned mask becomes: its bytes stay as they are and are poisoned (R404). -/
def State.poisonAcc (s : State) (ctx : Nat) (a : Acc) : State :=
  let queue := fun (h : Nat) => s.enqueue s.here ctx (h / 64 * 64) 0 0 (byteMask (h % 64) (h % 64 + a.n))
  match a.place with
  | .own _ => s.storePlace s.cur ctx a.place ((s.accBytes false a).map fun b => (b.1, true))
  | .stub _ => s.storePlace s.cur ctx a.place ((s.accBytes false a).map fun b => (b.1, true))
  | .remote h _ => queue h
  | .mem h c => if c = PageClass.host then s else queue h
  | _ => s

/-- Words that an address is formed of, or a record's field that holds one: poison in their bytes kills the task (R405). -/
def cleanBytes (l : List (Byte × Bool)) (off n : Nat) : M Unit := if anyPois ((l.drop off).take n) then killM else pure ()

/-- Room for new queue entries. An instruction that takes the implicit boundary for it is alone in its pair interval (R238, R415, R416). -/
def roomM (need : Nat) : M Unit := do
  let s ← getS
  if 64 < (s.core s.here).pq.length + need then aloneM else pure ()
  modS fun s => s.makeRoom s.here need

/-- The new queue entries that the stores of an instruction need (R230). -/
def State.needed (s : State) (as : List Acc) : Nat :=
  ((as.flatMap Acc.queued).eraseDups.filter fun k => (mergeInto (s.core s.here) k).isNone).length

/-- An access to a DEVICE page. -/
def Acc.isDevice (a : Acc) : Bool :=
  match a.place with
  | .device _ => true
  | _ => false

/-- Checked accesses stored in order, after the range scoreboard and the room of R238. A store that leaves the core at once, or that takes an
implicit boundary, is alone in its pair interval (R415, R416). The elements in `left` are those that a poisoned mask leaves out. -/
def storeElems (ctx : Nat) (ws : List (Acc × List (Byte × Bool))) (left : List Acc) : M Unit := do
  boardCheck (ws.map Prod.fst)
  if ws.any (fun w => w.1.isDevice) then aloneM else pure ()
  let s ← getS
  roomM (s.needed (ws.map Prod.fst ++ left))
  modS fun s => left.foldl (fun t a => t.poisonAcc ctx a) (ws.foldl (fun t w => t.storeAcc ctx w.1 w.2) s)

/-- Checked accesses stored in order, none left out. -/
def storeAccs (ctx : Nat) (ws : List (Acc × List (Byte × Bool))) : M Unit := storeElems ctx ws []

/-- A run's data cut as its pieces are. -/
def cutData : List Acc → List (Byte × Bool) → List (Acc × List (Byte × Bool))
  | [], _ => []
  | a :: t, d => (a, d.take a.n) :: cutData t (d.drop a.n)

end Sys2Proof.Machine
end

