-- ==== Sys2Proof/Machine/Engine.lean ====
section
/-!
DEFINITION. What the engines share: translation and accesses of an engine, its reads and writes, fault records, parked items and page requests
(R232, R240, R241, R264, R313, R315 to R318).
-/

namespace Sys2Proof.Machine

/-- An engine at work for a context: its quay, where it has one, its die, its number as a sender, its snapshot agent and its context, and whether
it reads ROOT pages, as in tree-walk mode (R167, R264). `colour` is the colour of a chunk that issued before its lighter recorded (R396), and
`walked` an address whose walk has been made for a chunk (R313). -/
structure Eng where
  quay : Option Nat
  die : Nat
  who : Nat
  agent : SnapAgent
  ctx : Nat
  root : Bool := false
  colour : Option Bool := none
  walked : Option Nat := none
  deriving DecidableEq, Repr

/-- The lighter of a quay. -/
def lighterEng (q ctx : Nat) : Eng := { quay := some q, die := q / 16, who := 4096 + q, agent := .lighter q, ctx := ctx }

/-- The collective engine of a die. -/
def collEng (d ctx : Nat) : Eng := { quay := none, die := d, who := 8192 + d, agent := .collective d, ctx := ctx }

/-- A core's network interface as it places a message (R219). -/
def placeEng (core ctx : Nat) : Eng := { quay := some (quayOf core), die := dieOf core, who := core, agent := .core core, ctx := ctx }

/-- Why an engine's access does not go through. -/
inductive EFault where
  /-- a fault with its cause -/
  | cause (c : Nat)
  /-- no present leaf -/
  | absent
  /-- the translation waits for a page walk, or the access for a rank that is IN_TRANSIT or SAVED (R201, R327) -/
  | miss
  /-- the page waits for an ATS Translation Completion -/
  | ats (iova : Nat)
  /-- the ATS result does not grant the access (R316) -/
  | denied (iova : Nat) (w : Bool)
  deriving DecidableEq, Repr

/-- FCODE of a fault (R317): a page without a grant counts as one that is not present (R316). -/
def EFault.code : EFault → Nat
  | .cause c => c
  | _ => cPAGE_NOT_PRESENT

/-- An engine's translation (R313): the second-level cache of its quay, else a walk of the die. -/
def State.eTranslate (s : State) (e : Eng) (va : Nat) (w walk : Bool) : Except EFault Pte × State :=
  let mark := fun (t : State) => t.updCtx e.ctx fun c => { c with ptes := markPte va w c.ptes }
  let hit := match e.quay with
    | some q => cached e.ctx va (s.quay q).l2
    | none => none
  match hit with
  | some p => (.ok p, mark s)
  | none =>
    if walk || e.walked.any (fun w => (s.ctx e.ctx).sameGranule w va) then
      match (s.ctx e.ctx).leaf va with
      | some p =>
        if p.present then
          (.ok p, match e.quay with
            | some q => (mark s).updQuay q fun x => { x with l2 := fillL2 { ctx := e.ctx, pte := p } x.l2 }
            | none => mark s)
        else (.error .absent, s)
      | none => (.error .absent, s)
    else (.error .miss, s)

/-- The die's view of a host page for an engine (R315, R316). -/
def State.eHost (s : State) (e : Eng) (iova : Nat) (w : Bool) : Except EFault Unit × State :=
  let k := iova / 4096 * 4096
  match s.atcEntry e.die e.ctx iova with
  | none =>
    (.error (.ats k), s.updDie e.die fun x =>
      { x with pendAts := if x.pendAts.contains (e.ctx, k) then x.pendAts else x.pendAts ++ [(e.ctx, k)] })
  | some a => (if (if w then a.w else a.r) then .ok () else .error (.denied k w), s)

/-- The classes that an engine may read and write (R264): READONLY as a source only, and so ROOT where `root` says so. -/
def copyClass (root w : Bool) (c : PageClass) : Bool :=
  c == .ordinary || c == .host || (c == .readonly && !w) || (c == .root && root && !w)

/-- One access of an engine within a page: the home address, or why not (R164, R166 to R168, R264). Chunks in flight finish while their context
is being saved (R326 step 5). `own` is the core whose scratchpad the
own-scratchpad aperture names, if any (R219); `tags` says that tags are checked (R267). -/
def State.eAccess (s : State) (e : Eng) (own : Option Nat) (w walk tags : Bool) (n : Nat) (ea : Word) : Except EFault Nat × State :=
  if ea.toNat / 2 ^ 60 ≠ 0 then (.error (.cause cADDRESS), s)
  else match regionOf false (ea.toNat % 2 ^ 56) with
    | .own off => match own with
      | some c => (.ok (spadHome c off), s)
      | none => (.error (.cause cADDRESS), s)
    | .window rank off =>
      let r := (s.ctx e.ctx).rank rank
      if r.state = 0 then (.error (.cause cADDRESS), s)
      else if (r.state = 1 ∧ (w ∨ !s.forwarding e.ctx rank)) ∨ (r.state = 2 ∧ (s.ctx e.ctx).state = 2) then (.ok (spadHome r.phys off), s)
      else (.error .miss, s)
    | .quayWin q off => match quayNumber q with
      | some q => (.ok (quayHome q off), s)
      | none => (.error (.cause cADDRESS), s)
    | .paged va =>
      match s.eTranslate e va w walk with
      | (.error x, t) => (.error x, t)
      | (.ok p, t) =>
        if p.cls = PageClass.reserved ∨ (w ∧ (!p.write ∨ p.cls = PageClass.readonly)) ∨ !t.keyOk p.key then
          (.error (.cause cPAGE_PROTECTION), t)
        else
          let pa := p.frame + (va - p.va)
          let r := if p.cls = PageClass.host then t.eHost e pa w else (.ok (), t)
          match r with
          | (.error x, u) => (.error x, u)
          | (.ok (), u) =>
            if !copyClass e.root w p.cls then (.error (.cause cCA_CLASS), u)
            else if tags ∧ p.tagEn ∧ p.cls ≠ PageClass.host ∧ !u.tagsMatch pa n (bits 59 56 ea.toNat) then
              (.error (.cause cTAG_MISMATCH), u)
            else (.ok (leafHome p va), u)
    | _ => (.error (.cause cADDRESS), s)

/-- The accesses of a run of bytes, cut at 64-byte boundaries: homes and lengths, or the fault with its address. -/
def State.eRun (e : Eng) (own : Option Nat) (w walk tags : Bool) : List (Word × Nat) → State →
    Except (EFault × Word) (List (Nat × Nat)) × State
  | [], s => (.ok [], s)
  | (ea, n) :: t, s =>
    match s.eAccess e own w walk tags n ea with
    | (.error x, u) => (.error (x, ea), u)
    | (.ok h, u) => match State.eRun e own w walk tags t u with
      | (.error x, v) => (.error x, v)
      | (.ok hs, v) => (.ok ((h, n) :: hs), v)

/-- A line as an engine reads it (R233, R240): one with a quay through its quay's buffers, else through its die's. -/
def State.eLine (s : State) (e : Eng) (line : Nat) : Line × BitVec 64 :=
  match e.quay with
  | some q => s.lineBelow q line
  | none =>
    ((if homeDie line < 8 then [] else heldOps s.pkgMerge line) ++ heldOps (s.die e.die).merge line).foldl
      (fun l x => x.op.apply l) (s.homeLine line)

/-- The bytes that accesses read. -/
def State.eBytes (s : State) (e : Eng) (hs : List (Nat × Nat)) : List (Byte × Bool) :=
  hs.flatMap fun h => viewRun (s.eLine e) h.1 h.2

/-- A run of bytes checked and read by an engine. -/
def State.eRead (s : State) (e : Eng) (own : Option Nat) (walk : Bool) (n : Nat) (ea : Word) :
    Except (EFault × Word) (List (Byte × Bool)) × State :=
  match State.eRun e own false walk true (pieces ea n) s with
  | (.error x, t) => (.error x, t)
  | (.ok hs, t) =>
    let u := hs.foldl (fun (v : State × Nat) h =>
      (v.1.readUnits e.ctx (e.quay.elim (512 * e.die) quayCore) h.1 h.2 (v.2 % 2 ^ 56), v.2 + h.2)) (t, ea.toNat)
    (.ok (u.1.eBytes e hs), u.1)

/-- Operations of a die's own engine on a line carried to a scope's visibility point (R232, R234, R241). -/
def State.deliverDie (s : State) (d scope line : Nat) (ops : List QEntry) : State :=
  if homeDie line = d then s.homeAll (heldOps (s.die d).merge line ++ ops)
  else if scope ≤ 1 then s.addDie d line ops
  else
    let ops1 := heldOps (s.die d).merge line ++ ops
    let s1 := s.updDie d fun x => { x with merge := dropLine x.merge line }
    if homeDie line < 8 then s1.homeAll ops1
    else if scope = 2 then s1.addPkg line ops1
    else
      let ops2 := heldOps s1.pkgMerge line ++ ops1
      { s1 with pkgMerge := dropLine s1.pkgMerge line }.homeAll ops2

/-- An engine's operation on a line published at a scope (R241). -/
def State.eDeliver (s : State) (e : Eng) (scope line : Nat) (ops : List QEntry) : State :=
  match e.quay with
  | some q => s.deliver q scope line ops
  | none => s.deliverDie e.die scope line ops

/-- Bytes at a home address as queue operations of 64-byte pieces. -/
def lineOps (home : Nat) (data : List (Byte × Bool)) : List (Nat × QOp) :=
  let n := data.length
  let l := patchOf (data.map Prod.fst) (data.map Prod.snd)
  (upFrom (home / 64) (if n = 0 then 0 else (home + n - 1) / 64 - home / 64 + 1)).map fun k =>
    let bs := (upFrom (64 * k) 64).map (patchAt home l)
    let num := fun (w : Nat) (g : Byte × Bool → Nat) => bs.foldr (fun o n => w * n + (match o with
      | some x => g x
      | none => 0)) 0
    (64 * k, .store (BitVec.ofNat 64 (num 2 fun _ => 1)) (BitVec.ofNat 512 (num 256 fun x => x.1.toNat))
      (BitVec.ofNat 64 (num 2 fun x => b2n x.2)))

/-- Bytes written by an engine at a home address and published at a scope; a core's interface writes that core's scratchpad at once (R172, R219).
Poisoned bytes to a HOST page are sent with the poisoned bit and
logged as a contained error (R405). -/
def State.eStore (s : State) (e : Eng) (scope home : Nat) (data : List (Byte × Bool)) : State :=
  let colour := e.colour.getD (s.colour e.ctx e.agent)
  let own := homeKind home == Home.spad && spadCore home == e.who
  let s1 := (lineOps home data).foldl (fun t p =>
    t.eDeliver e (if own then 3 else scope) p.1 [{ piece := p.1, ctx := e.ctx, core := e.who, colour := colour, op := p.2 }]) s
  if homeKind home = Home.host ∧ data.any Prod.snd then
    s1.logErr e.die 12 2 e.ctx (e.die * 512) (BitVec.ofNat 64 (home - 2 ^ 64))
  else s1

/-- Data spread over accesses, in order. -/
def State.eStores (s : State) (e : Eng) (scope : Nat) : List (Nat × Nat) → List (Byte × Bool) → State
  | [], _ => s
  | (h, n) :: t, d => (s.eStore e scope h (d.take n)).eStores e scope t (d.drop n)

/-- The smallest scope that holds a rank of a context as seen from an engine (R195, R241). -/
def State.eScope (s : State) (e : Eng) (rank : Nat) : Nat :=
  let p := ((s.ctx e.ctx).rank rank).phys
  match e.quay with
  | some q => scopeTo (32 * q) p
  | none => if dieOf p = e.die then 1 else 2

/-- A packet of an engine to a rank of its context. -/
def State.eSend (s : State) (e : Eng) (origin rank : Nat) (k : PKind) : State :=
  s.sendAs e.who (e.colour.getD (s.colour e.ctx e.agent)) e.ctx origin rank k

/-- An increment of a berth named by a tag, where the tag asks for one (R214): [10:0] the berth, [11] NOINC. -/
def State.eTag (s : State) (e : Eng) (origin rank tag : Nat) : State :=
  if bit 11 tag then s else s.eSend e origin rank (.inc (tag % 2048) none)

/-! Fault records and parked items -/

/-- There is room for one more fault record (R317). -/
def Context.fqRoom (c : Context) : Bool := decide ((c.fqtail - c.fqhead).toNat < c.desc.fqsize)

/-- A fault record written at the tail: the record, TAIL and the MSI-X message (R317). -/
def State.fqWrite (s : State) (ctx : Nat) (bytes : List Byte) : State :=
  let c := s.ctx ctx
  let s1 := s.hdmWrite (c.desc.fqbase + 32 * (c.fqtail.toNat % c.desc.fqsize)) bytes
  { s1.updCtx ctx (fun x => { x with fqtail := x.fqtail + 1 }) with msix := c.fqvec :: s1.msix }

/-- A record of 32 bytes from its first 16, which all records share, and the rest (R317). -/
def fqBytes (source fcode b2 b4 : Nat) (faddr : Word) (rest : List Byte) : List Byte :=
  toBytes 1 source ++ toBytes 1 fcode ++ toBytes 2 b2 ++ toBytes 4 b4 ++ toBytes 8 faddr.toNat ++ rest

end Sys2Proof.Machine
end

