-- ==== Sys2Proof/Machine/Shake.lean ====
section
/-!
DEFINITION. SHAKE256 (FIPS 202), which forms the digests of seals (R367) and of the firmware's records (R425 to R427). The lane at (x, y)
is element x + 5y of a list of 25.
-/

namespace Sys2Proof.Machine

/-- The lane at a position. -/
def laneAt (a : List Word) (i : Nat) : Word := a.getD i 0

/-- The offsets of rho, lane by lane. -/
def rhoOffsets : List Nat :=
  [0, 1, 62, 28, 27, 36, 44, 6, 55, 20, 3, 10, 43, 25, 39, 41, 45, 15, 21, 8, 18, 2, 61, 56, 14]

/-- The constants of iota. -/
def iotaConstants : List Word :=
  [0x0000000000000001, 0x0000000000008082, 0x800000000000808A, 0x8000000080008000, 0x000000000000808B, 0x0000000080000001,
   0x8000000080008081, 0x8000000000008009, 0x000000000000008A, 0x0000000000000088, 0x0000000080008009, 0x000000008000000A] ++
  [0x000000008000808B, 0x800000000000008B, 0x8000000000008089, 0x8000000000008003, 0x8000000000008002, 0x8000000000000080,
   0x000000000000800A, 0x800000008000000A, 0x8000000080008081, 0x8000000000008080, 0x0000000080000001, 0x8000000080008008]

/-- One round of Keccak-f[1600]. -/
def keccakRound (a : List Word) (rc : Word) : List Word :=
  let c := (upFrom 0 5).map fun x => laneAt a x ^^^ laneAt a (x + 5) ^^^ laneAt a (x + 10) ^^^ laneAt a (x + 15) ^^^ laneAt a (x + 20)
  let d := (upFrom 0 5).map fun x => laneAt c ((x + 4) % 5) ^^^ (laneAt c ((x + 1) % 5)).rotateLeft 1
  let t := (upFrom 0 25).map fun i => (laneAt a i ^^^ laneAt d (i % 5)).rotateLeft (rhoOffsets.getD i 0)
  -- pi: the lane at (y, 2x + 3y) comes from (x, y); so (u, v) comes from (u + 3v, u)
  let b := (upFrom 0 25).map fun i => laneAt t ((i % 5 + 3 * (i / 5)) % 5 + 5 * (i % 5))
  let e := (upFrom 0 25).map fun i =>
    let row := i / 5 * 5
    laneAt b i ^^^ (~~~(laneAt b (row + (i + 1) % 5)) &&& laneAt b (row + (i + 2) % 5))
  match e with
  | x :: t => (x ^^^ rc) :: t
  | [] => []

/-- The permutation. -/
def keccakF (a : List Word) : List Word := iotaConstants.foldl keccakRound a

/-- A block of 136 bytes absorbed. -/
def absorb (a : List Word) (block : List Byte) : List Word :=
  keccakF ((upFrom 0 25).map fun i =>
    if i < 17 then laneAt a i ^^^ BitVec.ofNat 64 (ofBytes ((block.drop (8 * i)).take 8)) else laneAt a i)

/-- The padding of SHAKE256 for `n` bytes left over. -/
def shakePad (n : Nat) : List Byte :=
  if n = 135 then [0x9F] else (0x1F : Byte) :: List.replicate (134 - n) 0 ++ [0x80]

/-- Whole blocks absorbed, `k` of them, and the padded rest. -/
def absorbAll : Nat → List Byte → List Word → List Word
  | 0, m, a => absorb a (m ++ shakePad m.length)
  | k + 1, m, a => absorbAll k (m.drop 136) (absorb a (m.take 136))

/-- The first `n` bytes, at most 136, of SHAKE256 of a message. -/
def shake256 (m : List Byte) (n : Nat) : List Byte :=
  ((absorbAll (m.length / 136) m (List.replicate 25 0)).flatMap fun w => toBytes 8 w.toNat).take n

end Sys2Proof.Machine
end

