-- ==== Sys2Proof/Machine/CaOps.lean ====
section
/-!
DEFINITION. Content-addressed lines at their homes: seals, lookup, counts, reclaim, allocation, tree walks (R367 to R370, R375, R380).
-/

namespace Sys2Proof.Machine

/-- KIND of a seal (R367). -/
def sealKind (sl : Nat) : Nat := sl % 256

/-- The home die of a seal (R369). -/
def sealHome (sl : Nat) : Nat := bits 18 16 sl

/-- DIGEST of a line in a domain (R367). -/
def digestOf (dom kind : Nat) (data : List Byte) : Nat :=
  ofBytes (shake256 (toBytes 2 dom ++ toBytes 1 kind ++ data) 14)

/-- A seal from its digest, salt and kind (R367). -/
def mkSeal (digest salt kind : Nat) : Nat := digest * 2 ^ 16 + salt * 256 + kind

/-- The index entry of a seal in a domain (R367, R369). -/
def State.caFind (s : State) (dom sl : Nat) : Option CaLine :=
  if sl = 0 ∨ 8 < sealKind sl then none else s.ca.find? fun l => l.dom == dom && l.sl == sl && !l.removed

/-- A delivery of a line whose HBM copy is bad is logged, as a read of a poisoned sector is (R371, R406). -/
def State.caRead (s : State) (ctx place : Nat) (l : CaLine) (ea : Word) : State :=
  if l.pois then s.logErr (sealHome l.sl) 0 2 ctx place ea else s

/-- The state with one index entry changed. -/
def State.caUpd (s : State) (dom sl : Nat) (f : CaLine → CaLine) : State :=
  { s with ca := s.ca.map fun l => if l.dom == dom && l.sl == sl && !l.removed then f l else l }

/-- The entries of a node line that are not null, with their indices (R368). -/
def nodeEntries (data : List Byte) : List (Nat × Nat) :=
  ((upFrom 0 32).map fun i => (i, ofBytes ((data.drop (16 * i)).take 16))).filter fun p => p.2 != 0

/-- An advisory event of a seal's home engine (R370, R379). -/
def State.caAdvise (s : State) (sl : Nat) : State := s.advise (sealHome sl) 0 (512 * sealHome sl) (BitVec.ofNat 64 sl)

/-- An increment of a count at its home (R370). -/
def State.caInc (s : State) (dom sl : Nat) : State :=
  match s.caFind dom sl with
  | none => s
  | some l =>
    if l.pinned then s
    else if 0xFFFFFFFF ≤ l.count then (s.caUpd dom sl fun l => { l with pinned := true }).caAdvise sl
    else s.caUpd dom sl fun l => { l with count := l.count + 1 }

/-- A packet between CA engines: a decrement of a seal sent from one die to its home (R370, R378). `ctx` 4096 stands for a cascade, which is
of no context. -/
def State.sendDec (s : State) (from_ ctx dom sl : Nat) : State :=
  s.put { src := 12288 + from_, origin := 0, ctx := ctx, gen := (s.ctx ctx).gen, colour := s.dieColour ctx from_, rank := 2 ^ 24 + sealHome sl,
          marker := none, kind := .caDec dom sl }

/-- A decrement of a count at its home; at 0 the entry leaves the index, the line is reclaimed, and a node's children are sent their
decrements (R370). An unknown seal is ignored and logged (R379). -/
def State.caDec (s : State) (dom sl : Nat) : State :=
  match s.caFind dom sl with
  | none => s.caAdvise sl
  | some l =>
    if l.pinned then s
    else if 1 < l.count then s.caUpd dom sl fun l => { l with count := l.count - 1 }
    else
      let s1 := { s with ca := s.ca.filter fun x => !(x.dom == dom && x.sl == sl && !x.removed) }
      if sealKind sl = 0 then s1
      else (nodeEntries l.data).foldl (fun t e => t.sendDec (sealHome sl) 4096 dom e.2) s1

/-- The count that RETAIN and DROP answer (R376): a pinned line reads 0xFFFF_FFFF, a seal that is gone 0. -/
def State.caCount (s : State) (dom sl : Nat) : Nat :=
  match s.caFind dom sl with
  | none => 0
  | some l => if l.pinned then 0xFFFFFFFF else l.count

/-- Lines that a die's pool has free (R369). -/
def State.caFree (s : State) (die : Nat) : Nat :=
  (s.die die).caPool - (s.ca.filter fun l => sealHome l.sl == die).length

/-- What SEAL's probe answers (R375). -/
inductive SealResult where
  | noLine (i : Nat)
  | exhausted
  | full (d : Nat)
  | done (d sl : Nat)
  deriving DecidableEq, Repr

/-- SEAL's probe over at most `n` salts from `salt` on, and its effect (R375). -/
def State.caProbe (s : State) (dom kind digest : Nat) (data : List Byte) : Nat → Nat → SealResult × State
  | 0, _ => (.exhausted, s)
  | n + 1, salt =>
    let sl := mkSeal digest salt kind
    match s.caFind dom sl with
    | none =>
      let kids := if kind = 0 then [] else nodeEntries data
      match kids.find? fun e => sealKind e.2 != kind - 1 || (s.caFind dom e.2).isNone with
      | some e => (.noLine e.1, s)
      | none =>
        if s.caFree (sealHome sl) = 0 then (.full (2 + salt * 256), s)
        else
          let s1 := { s with ca := s.ca ++ [{ dom := dom, sl := sl, data := data, pois := false, count := 1, pinned := false, removed := false }] }
          (.done (salt * 256) sl, kids.foldl (fun t e => t.caInc dom e.2) s1)
    | some l =>
      if l.data = data then (.done (1 + salt * 256) sl, s.caInc dom sl)
      else s.caProbe dom kind digest data n (salt + 1)

/-- SEAL at the home die (R375). -/
def State.caSeal (s : State) (dom kind : Nat) (data : List Byte) : SealResult × State :=
  let d := digestOf dom kind data
  let s0 := if d = 0 then 1 else 0
  s.caProbe dom kind d data (256 - s0) s0

/-- The seals of the leaf lines under a seal in tree order (R368); the levels bound the walk. -/
def State.leavesOf (s : State) (dom : Nat) : Nat → Nat → List Nat
  | 0, sl => [sl]
  | n + 1, sl =>
    if sealKind sl = 0 then [sl]
    else match s.caFind dom sl with
      | none => [sl]
      | some l => (nodeEntries l.data).flatMap fun e => s.leavesOf dom n e.2

/-- A root slot's seal as its point of order holds it (R377, R378). -/
def State.rootSeal (s : State) (home : Nat) : Nat := ofBytes (s.homeRead home 16)

/-- A decrement that a die's engine has sent to the home of one of some seals is still on its way: what the engine does to that home's counts next comes
after it (R216, R378). -/
def State.decsAhead (s : State) (die : Nat) (sls : List Nat) : Bool :=
  s.net.any fun p => p.src == 12288 + die && sls.any fun x => p.rank == 2 ^ 24 + sealHome x

end Sys2Proof.Machine
end

