-- ==== Sys2Proof/Machine/Commands.lean ====
section
/-!
DEFINITION. The front end's completions: the completion record, the completion-queue entry, and the error completions of launches
(R298, R299, R304, R310, R311, R312).
-/

namespace Sys2Proof.Machine

/-- HDM offset of the completion record of a queue's slot (R304). -/
def completionAt (q slot : Nat) : Nat := 0x04000000 + 32 * (16 * q + slot)

/-- HDM offset of a queue's command slot (R304). -/
def commandAt (q slot : Nat) : Nat := 128 * (16 * q + slot)

/-- What a completion record holds (R298). -/
structure Completion where
  status : Nat
  code : Nat := 0
  errcount : Nat := 0
  dispatched : Nat := 0
  exited : Nat := 0
  detail : Word := 0

/-- The 32 bytes of a completion record (R298). -/
def Completion.bytes (x : Completion) (ltag : Nat) : List Byte :=
  toBytes 1 x.status ++ toBytes 1 x.code ++ toBytes 2 ltag ++ toBytes 4 x.errcount ++ toBytes 8 x.dispatched ++ toBytes 8 x.exited
    ++ toBytes 8 x.detail.toNat

/-- A command completes: its record is written, and its completion-queue entry is held where the queue has one (R310, R311). -/
def State.complete (s : State) (c : Cmd) (x : Completion) : State :=
  let s1 := s.hdmWrite (completionAt c.q c.slot) (x.bytes c.ltag)
  if (s.queue c.q).lgc = 0 then s1
  else s1.updQueue c.q fun q =>
    { q with held := q.held ++
        [{ slot := c.slot, status := x.status, ltag := c.ltag, code := x.code, taken := c.taken, at_ := s.time }] }

/-- A RESOLVE command that waited for its item completes OK (R383). -/
def State.resolved (s : State) (c : Option Cmd) : State :=
  match c with
  | some c => s.complete c { status := 0 }
  | none => s

/-- An item parked with its record (R317). Where the queue is full the record waits, and so does a RESOLVE that it answers (R383). -/
def State.park (s : State) (ctx : Nat) (item : ParkedItem) (bytes : List Byte) (cmd : Option Cmd) : State :=
  if (s.ctx ctx).fqRoom then
    let n := (s.ctx ctx).fqtail.toNat
    ((s.fqWrite ctx bytes).updCtx ctx fun c => { c with parked := c.parked ++ [{ n := some n, item := item, bytes := bytes, pri := none }] }).resolved cmd
  else s.updCtx ctx fun c => { c with parked := c.parked ++ [{ n := none, item := item, bytes := bytes, pri := none, cmd := cmd }] }

/-- The first parked item whose record waits for room. -/
def waitingRecord (l : List Parked) : Option Nat := firstIdx (fun (p : Parked) => p.n.isNone && p.pri.isNone && !p.again) l

/-- Waiting records written as long as there is room, with the answers of the RESOLVEs that wait for them (R317, R383). -/
def State.fqDrain : Nat → State → Nat → State
  | 0, s, _ => s
  | k + 1, s, ctx =>
    let c := s.ctx ctx
    match waitingRecord c.parked with
    | none => s
    | some i =>
      if c.fqRoom then
        match c.parked[i]? with
        | none => s
        | some p =>
          let n := c.fqtail.toNat
          let s1 := (s.fqWrite ctx p.bytes).updCtx ctx fun x => { x with parked := setNth { p with n := some n, cmd := none } i x.parked }
          State.fqDrain k (s1.resolved p.cmd) ctx
      else s

/-- A PRI Page Request sent for an item, which parks without a record; an item whose page another has asked for joins that request (R316, R382). -/
def State.askPri (s : State) (e : Eng) (item : ParkedItem) (iova : Nat) (w : Bool) (bytes : List Byte) (cmd : Option Cmd) : State :=
  let s1 := s.updCtx e.ctx fun c =>
    { c with parked := c.parked ++ [{ n := none, item := item, bytes := bytes, pri := some (e.die, iova), cmd := cmd }] }
  if s1.pri.any fun p => p.die == e.die && p.pasid == e.ctx && p.iova == iova then s1
  else { s1 with pri := s1.pri ++ [{ die := e.die, pasid := e.ctx, iova := iova, write := w }] }

/-- Entries dropped from a die's translation cache, so that a page is asked for anew (R316). -/
def State.forgetAts (s : State) (die pasid iova : Nat) : State :=
  s.updDie die fun x => { x with atc := x.atc.filter fun a => !a.holds pasid (iova / 4096 * 4096) }

/-! Accesses by which an engine serves a request that waits at its place (R316, R318): a kick, or a COLL that has still to be accepted -/

/-- The number of a kick's accesses. -/
def kickReader (serial : Nat) : Nat := 2 * serial

/-- The number of the accesses for a thread at a place. -/
def threadReader (l : Loc) : Nat := 2 * (l.unit * 32 + l.slot + if l.svc then 16 else 0) + 1

/-- Such an access is over: what has parked for it is gone, and a RESOLVE that it has answered completes (R383). -/
def State.readDone (s : State) (e : Eng) (who : Nat) : State :=
  let mine := fun (p : Parked) => p.item == .read e.die who
  let gone := (s.ctx e.ctx).parked.filter mine
  if gone.isEmpty && !(s.die e.die).refused.contains (e.ctx, who) then s
  else
    let s1 := (s.updCtx e.ctx fun c => { c with parked := c.parked.filter fun p => !mine p }).updDie e.die fun d =>
      { d with refused := d.refused.filter (· != (e.ctx, who)) }
    gone.foldl (fun t p => t.resolved p.cmd) s1

/-- Such an access to a page that the host does not grant: it waits, with a page request or, once that has been answered in vain, with a record; none
where RESOLVE FAIL has ended it (R316, R318). -/
def State.readDenied (s : State) (e : Eng) (who iova : Nat) (w : Bool) (bytes : List Byte) : Option State :=
  let mine := fun (p : Parked) => p.item == .read e.die who
  if (s.die e.die).refused.contains (e.ctx, who) then none
  else match (s.ctx e.ctx).parked.find? mine with
    | none => some (s.askPri e (.read e.die who) iova w bytes none)
    | some p =>
      if p.again then
        let s1 := s.updCtx e.ctx fun c => { c with parked := c.parked.filter fun p => !mine p }
        some (if p.pri = some (e.die, iova) then s1.park e.ctx (.read e.die who) bytes p.cmd
          else s1.askPri e (.read e.die who) iova w bytes p.cmd)
      else some s

/-- A launch's account of a packet of a task that was dropped (R219, R226, R299): an error completion with cause 0 at the rank given. -/
def State.dropError (s : State) (launch rank : Nat) : State := s.launchError launch 0x04 (detailOf rank 0)

/-- A placement is over: its launch waits for one fewer (R298). -/
def State.placeOver (s : State) (launch : Nat) : State :=
  s.updLaunch launch fun x => { x with pendingPlace := x.pendingPlace - 1 }

/-- The front end of a die has handled its event of this cycle (R283). -/
def State.feTakes (s : State) (die : Nat) : State := s.updDie die fun d => { d with feAt := some s.cycle }

/-- A stage of a pipeline that no channel leaves (R292, R300). -/
def LaunchRec.isSink (r : LaunchRec) (stage : Nat) : Bool := r.kind == 0 || r.chanTab.all fun c => c.from_ != stage

/-- The watchdog of a task's launch restarts when the task is a sink (R300). -/
def State.sinkRetires (s : State) (th : Thread) : State :=
  s.updLaunch th.launch fun x =>
    if x.live.any fun k => k.taskid == th.taskid && x.rcd.isSink k.stage then
      { x with wdogFrom := x.wdogFrom.map fun _ => s.time, silent := false }
    else x

/-- The watchdog restart of the current thread's instruction (R300). -/
def sinkM : M Unit := modS fun s =>
  match s.thread with
  | some th => s.sinkRetires th
  | none => s

end Sys2Proof.Machine
end

