-- ==== Sys2Proof/Machine/Lighter.lean ====
section
/-!
DEFINITION. The lighter: registers, templates, kicks, scheduling, chunks, completions, aborts (R174, R243, R257 to R269, R271, R380).
-/

namespace Sys2Proof.Machine

/-! Templates (R261, R262) -/

/-- A field of `n` bytes at an offset. -/
def fieldAt (b : List Byte) (off n : Nat) : Nat := ofBytes ((b.drop off).take n)

/-- The fields of a template's 64 bytes (R261). -/
def templateOf (b : List Byte) : Template :=
  { src := BitVec.ofNat 64 (fieldAt b 0 8), dst := BitVec.ofNat 64 (fieldAt b 8 8)
    sstride := BitVec.ofNat 64 (fieldAt b 16 8), dstride := BitVec.ofNat 64 (fieldAt b 24 8)
    rowbytes := fieldAt b 32 4, rows := fieldAt b 36 4, drank := fieldAt b 40 4, ptag := fieldAt b 44 2, ctag := fieldAt b 46 2
    list := BitVec.ofNat 64 (fieldAt b 48 8), mode := fieldAt b 56 1 }

/-- MODE[1:0]: 0 linear, 1 2-D, 2 gather, 3 tree walk. -/
def Template.form (t : Template) : Nat := bits 1 0 t.mode

/-- The priority class (R261). -/
def Template.cls (t : Template) : Nat := bits 3 2 t.mode

/-- CREC (R261). -/
def Template.crec (t : Template) : Bool := bit 4 t.mode

/-- Bytes of the copy (R262). -/
def Template.n (t : Template) : Nat := t.rowbytes * t.rows

/-- Chunks of the copy (R263). -/
def Template.chunks (t : Template) : Nat := (t.n + 2047) / 2048

/-- The limits and reserved fields of R261 and R262; `res` is bytes 57 to 63. -/
def Template.legal (t : Template) (res : Nat) : Bool :=
  res == 0 && t.rowbytes != 0 && t.rows != 0 && decide (t.drank < 2 ^ 24) && decide (t.ptag < 4096) && decide (t.ctag < 4096)
    && decide (t.mode < 32) && decide (t.n ≤ 2 ^ 36)
    && (if t.form = 0 then t.rows == 1 && t.sstride == 0 && t.dstride == 0 else if t.form = 3 then t.rows == 1 else true)
    && (if t.form = 0 ∨ t.form = 1 then t.list == 0 else true)
    && (if t.form = 2 then t.list.toNat % 8 == 0 && t.src == 0 && t.sstride == 0 else true)

/-- The destination address of stream byte `i` (R262). -/
def Template.dstAt (t : Template) (i : Nat) : Word :=
  if t.form = 0 ∨ t.form = 3 then t.dst + BitVec.ofNat 64 i
  else t.dst + BitVec.ofNat 64 (i / t.rowbytes) * t.dstride + BitVec.ofNat 64 (i % t.rowbytes)

/-- Sectors from stream byte `i` to `hi`: first byte and length of each (R263). -/
def Template.sectorsFrom (t : Template) (hi : Nat) : Nat → Nat → List (Nat × Nat)
  | 0, _ => []
  | n + 1, i =>
    if hi ≤ i then []
    else
      let k := min (hi - i) (min (t.rowbytes - i % t.rowbytes) (256 - (t.dstAt i).toNat % 256))
      (i, k) :: t.sectorsFrom hi n (i + k)

/-- The sectors of chunk `j` (R263). -/
def Template.sectors (t : Template) (j : Nat) : List (Nat × Nat) := t.sectorsFrom (min (2048 * (j + 1)) t.n) 2048 (2048 * j)

/-- The bounding range of the destination, from its lowest byte up to the one past its highest (R243, R262). -/
def Template.range (t : Template) : Nat × Nat :=
  if t.form = 0 ∨ t.form = 3 then
    let lo := t.dst.toNat % 2 ^ 56
    (lo, lo + t.n)
  else
    let a : Int := t.dst.toNat
    let b : Int := a + ((t.rows : Int) - 1) * toSigned 64 t.dstride.toNat
    let lo := min a b
    let len := (max a b - lo).toNat + t.rowbytes
    let lo56 := (lo % (2 ^ 56 : Int)).toNat
    (lo56, lo56 + min len (2 ^ 56))

/-! Registers (R257 to R260) -/

/-- A copy's chunk that is parked. -/
def Copy.parkedCount (c : Copy) : Nat := c.flight.countP (·.parked)

/-- The channel status word for its owner (R259). -/
def Chan.status (c : Chan) : Word :=
  let q := min 16 (c.copies.length - 1 + c.pending.length)
  BitVec.ofNat 64 (match c.copies with
    | [] => 2 ^ 9 + b2n c.err * 2 ^ 8 + min 16 c.pending.length
    | k :: _ => k.chunksLanded % 2 ^ 32 * 2 ^ 32 + k.kick.value.toNat % 2 ^ 16 * 2 ^ 16 + 2 ^ 9 + b2n c.err * 2 ^ 8
        + b2n (k.parkedCount != 0) * 2 ^ 7 + 2 ^ 6 + q)

/-- The ring register (R260). -/
def Chan.ring (c : Chan) : Word := BitVec.ofNat 64 (c.ringBase + c.lgr)

/-- A load of a lighter register by a context: the word, and the state with ERR cleared where the status was read (R257 to R259). -/
def State.readLighter (s : State) (ctx q off : Nat) : Word × State :=
  let n := off % 0x200 / 8
  let c := (s.quay q).chan n
  if c.owner = some ctx then
    if off < 0x200 then (c.status, s.updQuay q fun x => x.updChan n fun c => { c with err := false }) else (c.ring, s)
  else (0, s)

/-- A write of a ring register (R257, R258, R260). -/
def State.writeRing (s : State) (ctx core q n : Nat) (v : Word) : State :=
  let c := (s.quay q).chan n
  if c.owner ≠ some ctx then s.advise (q / 16) ctx (quayCore q) (BitVec.ofNat 64 core)
  else if !c.copies.isEmpty || !c.pending.isEmpty || decide (13 ≤ v.toNat % 32) then
    s.updQuay q fun x => x.updChan n fun c => { c with err := true }
  else s.updQuay q fun x => x.updChan n fun c =>
    { c with ringBase := v.toNat % 2 ^ 56 / 32 * 32, lgr := v.toNat % 32, wp := 0, phase := true }

/-! Ends of copies (R243, R267, R268) -/

/-- A copy's range entry retires: the lines that its range covers are unpinned, and those who wait go on (R243). -/
def State.retireRange (s : State) (core quay serial : Nat) : State :=
  let c := s.core core
  let mine := c.board.filter fun r => r.quay == quay && r.serial == serial
  let s1 := s.updCore core fun c =>
    { c with
      board := c.board.filter fun r => !(r.quay == quay && r.serial == serial)
      pins := c.pins.filter fun p => !(mine.any fun r => r.meets p.va 64) }
  s1.wakeOverlap core

/-- The rank that a copy's increments go to (R261, R262). -/
def Copy.rank (c : Copy) : Nat := c.t.drank

/-- STATUS, FCODE and FADDR of a copy that has ended (R268, R380). -/
def Copy.outcome (c : Copy) : Nat × Nat × Word :=
  match c.fail with
  | none => (0, 0, 0)
  | some (st, code, addr) =>
    if st = 1 ∧ code = cCA_NO_LINE ∧ c.root.isSome then (st, code, c.t.dst + BitVec.ofNat 64 c.bytes) else (st, code, addr)

/-- The completion record of a copy (R268). -/
def Copy.record (c : Copy) (chan : Nat) (phase : Bool) : List Byte :=
  let o := c.outcome
  toBytes 1 o.1 ++ toBytes 1 (b2n phase) ++ toBytes 1 o.2.1 ++ toBytes 1 chan ++ toBytes 2 (c.kick.value.toNat % 2 ^ 16) ++ toBytes 2 0
    ++ toBytes 8 c.bytes ++ toBytes 8 o.2.2.toNat ++ toBytes 8 0

/-- Every chunk of a copy has issued, and none is in flight or parked. -/
def Copy.finished (c : Copy) : Bool := (c.fail.isSome || decide (c.t.chunks ≤ c.next)) && c.flight.isEmpty

/-- The read of a tree's root for a kick that does not go through (R315, R316, R380): the state in which it waits for its host page, or how it ends. -/
def State.kickFault (s : State) (q : Nat) (k : Kick) (f : EFault) (a : Word) : Except EFault Unit × State :=
  let e := lighterEng q k.ctx
  let record := toBytes 1 1 ++ toBytes 1 f.code ++ rep 2 0 ++ toBytes 2 (k.value.toNat % 2 ^ 16) ++ rep 2 0 ++ toBytes 8 a.toNat ++ rep 8 0 ++ toBytes 8 q
  match f with
  | .ats _ => (.ok (), s)
  | .denied iova w => match s.readDenied e (kickReader k.serial) iova w record with
    | some t => (.ok (), t)
    | none => (.error f, s.readDone e (kickReader k.serial))
  | _ => (.error f, s.readDone e (kickReader k.serial))

/-- A kick's template read or a copy's ring write that does not go through does not park: it fails at once, but for an answer of the host's address
translation or a rank in motion that it waits for (R201, R262, R267, R315). -/
def EFault.waits : EFault → Bool
  | .ats _ => true
  | .miss => true
  | _ => false

/-- A completion record written at the ring position, which advances (R267): the state after it, or none and the state in which the write waits for
the ATS result of its host page (R315). -/
def State.ringWrite (s : State) (q n : Nat) (c : Copy) : Option State × State :=
  let ch := (s.quay q).chan n
  if (c.t.crec || c.bare) && ch.lgr != 0 then
    let e := lighterEng q c.kick.ctx
    let wp' := (ch.wp + 1) % 2 ^ ch.lgr
    let step := fun (t : State) => t.updQuay q fun x => x.updChan n fun y =>
      { y with wp := wp', phase := if wp' = 0 then !y.phase else y.phase }
    match State.eRun e none true true false (pieces (BitVec.ofNat 64 (ch.ringBase + 32 * ch.wp)) 32) s with
    | (.ok hs, t) =>
      (some (step (t.eStores e (t.eScope e c.rank) hs ((c.record n ch.phase).map fun b => (b, false)))), t)
    | (.error (f, a), t) => if f.waits then (none, t) else (some (step (t.advise (q / 16) c.kick.ctx (quayCore q) a)), t)
  else (some s, s)

/-- The end of a copy (R267, R380 step 4): the root is dropped, the record written, the completion increment sent, the range retired. The last
publish reaches the kicking core as well, which reads the destination once its range has retired (R243, R252). -/
def State.endCopy (s : State) (q n : Nat) (c : Copy) : Option State × State :=
  let dom := (s.ctx c.kick.ctx).desc.cadom
  match s.ringWrite q n c with
  | (none, t) => (none, t)
  | (some t, _) =>
    let e := lighterEng q c.kick.ctx
    let t1 := match c.root with
      | some r => t.caDec dom r
      | none => t
    let t2 := t1.pushFrom q e.who (scopeTo (32 * q) c.kick.core)
    let t3 := if c.bare then t2 else t2.eTag e c.kick.rank c.rank c.t.ctag
    (some (t3.retireRange c.kick.core q c.kick.serial), t)

/-! Kicks (R243, R258, R262, R265) -/

/-- The template that a kick names, or how the copy ends without one (R262); none where the template's page waits for the host. -/
def State.kickTemplate (s : State) (q : Nat) (k : Kick) : Option (Except (Nat × Nat × Word) (Template × Nat)) × State :=
  let d := (s.ctx k.ctx).desc
  if 2 ^ 16 ≤ k.value.toNat ∨ d.ttcount ≤ k.value.toNat then (some (.error (3, 0, 0)), s)
  else
    let ta := BitVec.ofNat 64 (d.ttbase + 64 * k.value.toNat)
    match s.eRead (lighterEng q k.ctx) none true 64 ta with
    | (.ok bs, t) => (some (.ok (templateOf (bytesOf bs), fieldAt (bytesOf bs) 57 7)), t)
    | (.error (f, _), t) => if f.waits then (none, t) else (some (.error (1, f.code, ta)), t)

/-- The start of a tree-walk copy (R380 step 1): the root is read and retained, and its leaves found; none where the page of LIST waits for the
host. -/
def State.startTree (s : State) (q : Nat) (c : Copy) : Option Copy × State :=
  let dom := (s.ctx c.kick.ctx).desc.cadom
  match s.eRead { lighterEng q c.kick.ctx with root := true } none true 16 c.t.list with
  | (.error (f, a), t) => (match t.kickFault q c.kick f a with
    | (.ok (), u) => (none, u)
    | (.error _, u) => (some { c with fail := some (1, f.code, a) }, u))
  | (.ok bs, v) =>
    let t := v.readDone (lighterEng q c.kick.ctx) (kickReader c.kick.serial)
    match t.caFind dom (numOf bs) with
    | none => (some { c with fail := some (1, cCA_NO_LINE, c.t.list) }, t)
    | some _ => (some { c with root := some (numOf bs), leaves := t.leavesOf dom 9 (numOf bs) }, t.caInc dom (numOf bs))

/-- A copy enters its channel (R265), and its range the kicking core's scoreboard (R243). -/
def State.enterCopy (s : State) (q n : Nat) (c : Copy) (ranged : Bool) : State :=
  let s1 := s.updQuay q fun x => x.updChan n fun y => { y with copies := y.copies ++ [c] }
  if ranged then
    s1.updCore c.kick.core fun k =>
      { k with board := k.board ++ [{ quay := q, serial := c.kick.serial, lo := c.t.range.1, hi := c.t.range.2 }] }
  else s1

/-- How a copy starts: at once ABORTED where an abort has reached its kick first (R271). -/
def Kick.fail (k : Kick) : Option (Nat × Nat × Word) := if k.aborted then some (2, 0, 0) else none

/-- A kick accepted by its channel (R262, R265, R380); none where a page that it needs waits for an ATS result. -/
def State.acceptKick (s : State) (q n : Nat) (k : Kick) : Option State × State :=
  match s.kickTemplate q k with
  | (none, t) => (none, t)
  | (some (.error f), t) =>
    (some ((t.enterCopy q n { kick := k, fail := some f, bare := true } false).advise (q / 16) k.ctx (quayCore q) k.value), t)
  | (some (.ok (tp, res)), t) =>
    let to_ := if tp.drank = 0xFFFFFF then k.rank else tp.drank
    let tp1 := { tp with drank := to_ }
    if tp.legal res && (tp.form == 3) == k.copyout then
      if tp.form = 3 ∧ !k.aborted then
        match t.startTree q { kick := k, t := tp1 } with
        | (none, u) => (none, u)
        | (some c, u) => (some (u.enterCopy q n c true), u)
      else (some (t.enterCopy q n { kick := k, t := tp1, fail := k.fail } true), t)
    else
      let absent := decide (2 ^ 24 ≤ to_) || ((t.ctx k.ctx).rank to_).state == 0
      let tp2 := { tp1 with drank := if absent then k.rank else to_, ctag := tp.ctag % 4096 }
      (some (t.enterCopy q n { kick := k, t := tp2, fail := some (3, 0, 0) } false), t)

/-- A kick that waits is accepted where its channel has room, and `more` goes on with the channel (R265). -/
def State.acceptNext (s : State) (q n : Nat) (more : State → State) : State :=
  let ch := (s.quay q).chan n
  match ch.pending with
  | [] => s
  | k :: ks =>
    if 16 < ch.copies.length then s
    else match s.acceptKick q n k with
      | (none, t) => t
      | (some t, _) => more (t.updQuay q fun x => x.updChan n fun y => { y with pending := ks })

/-- Copies that have ended are completed in kick order, and kicks that wait are accepted as copies leave (R265). -/
def State.settleChan : Nat → State → Nat → Nat → State
  | 0, s, _, _ => s
  | m + 1, s, q, n =>
    match ((s.quay q).chan n).copies with
    | c :: rest =>
      if c.finished then
        match s.endCopy q n c with
        | (none, t) => t
        | (some t, _) => State.settleChan m (t.updQuay q fun x => x.updChan n fun y => { y with copies := rest }) q n
      else s.acceptNext q n fun t => State.settleChan m t q n
    | [] => s.acceptNext q n fun t => State.settleChan m t q n

/-- What a channel owes done; the bound exceeds the copies and kicks that it can hold. -/
def State.settleLighter (s : State) (q n : Nat) : State :=
  let ch := (s.quay q).chan n
  s.settleChan (2 * (ch.copies.length + ch.pending.length) + 2) q n

/-! Scheduling (R266) -/

/-- The copy of a channel that issues chunks, by position: the first that has one left (R265). -/
def Chan.issuing (c : Chan) : Option (Nat × Copy) :=
  (firstIdx (fun (k : Copy) => k.fail.isNone && decide (k.next < k.t.chunks)) c.copies).bind fun i => (c.copies[i]?).map fun k => (i, k)

/-- Chunks of a lighter in flight. -/
def Quay.inFlight (q : Quay) : Nat := (q.chans.map fun p => (p.2.copies.map fun k => k.flight.countP fun x => !x.parked).sum).sum

/-- Channel `n` has a ready chunk of class `cls` (R266). -/
def Quay.readyChan (q : Quay) (cls n : Nat) : Bool :=
  match (q.chan n).issuing with
  | some (_, k) => k.t.cls == cls && decide (k.parkedCount < 4)
  | none => false

/-- The channel of a class that is next to send, after the class's last turn (R266). -/
def Quay.pickChan (q : Quay) (cls : Nat) : Option Nat :=
  if 64 ≤ q.inFlight then none
  else ((upFrom 1 64).map fun k => (q.drrTurn.getD cls 63 + k) % 64).find? (q.readyChan cls)

/-- Bytes of the next chunk of a channel. -/
def Quay.nextSize (q : Quay) (n : Nat) : Nat :=
  match (q.chan n).issuing with
  | some (_, k) => min 2048 (k.t.n - 2048 * k.next)
  | none => 0

/-- The scheduler moved on to the next class. -/
def Quay.nextClass (q : Quay) : Quay := { q with drrClass := (q.drrClass + 1) % 4, drrIn := false }

/-- The next chunk issues from a channel. -/
def Quay.issueChunk (q : Quay) (n : Nat) : Quay :=
  q.updChan n fun c =>
    match c.issuing with
    | some (i, k) => { c with copies := setNth { k with next := k.next + 1, flight := k.flight ++ [{ j := k.next }] } i c.copies }
    | none => c

/-- A class of the lighter has a ready chunk (R266). -/
def Quay.anyReady (q : Quay) : Bool := (upFrom 0 4).any fun c => (q.pickChan c).isSome

/-- One chunk sent by deficit round robin (R266). A class without a ready chunk is passed over; its deficit returns to 0 only as its own turn ends
so. -/
def Quay.sendNext : Nat → Quay → Quay
  | 0, q => q
  | m + 1, q =>
    let c := q.drrClass
    match q.pickChan c with
    | none => Quay.sendNext m { q with deficit := if q.drrIn then setNth 0 c q.deficit else q.deficit }.nextClass
    | some n =>
      let d := q.deficit.getD c 0 + (if q.drrIn then 0 else q.quanta.getD c 0)
      let size := q.nextSize n
      if size ≤ d then
        let q1 := { q with deficit := setNth (d - size) c q.deficit, drrIn := true, drrTurn := setNth n c q.drrTurn }.issueChunk n
        if (q1.pickChan c).isSome then q1 else { q1 with deficit := setNth 0 c q1.deficit }.nextClass
      else Quay.sendNext m { q with deficit := setNth d c q.deficit }.nextClass

/-- The scheduler's next send (R266); where no chunk is ready, a class whose turn it was has ended it. Nine classes passed are two rounds, of which
the second sends. -/
def Quay.sendOne (q : Quay) : Quay :=
  if q.anyReady then q.sendNext 9
  else if q.drrIn then { q with deficit := setNth 0 q.drrClass q.deficit }.nextClass
  else q

/-! Chunks (R263, R264, R269) -/

/-- The bytes of a tree's leaf stream from `i` on (R368, R380); none past its end. -/
def State.leafBytes (s : State) (dom : Nat) (leaves : List Nat) (i n : Nat) : Option (List (Byte × Bool)) :=
  (upFrom i n).mapM fun k =>
    match leaves[k / 512]? with
    | none => none
    | some sl => match s.caFind dom sl with
      | none => none
      | some l => some (l.data.getD (k % 512) 0, l.pois)

/-- The source bytes of a sector (R262, R264). -/
def State.sectorSource (s : State) (e : Eng) (c : Copy) (walk : Bool) (i n : Nat) : Except (EFault × Word) (List (Byte × Bool)) × State :=
  let r := i / c.t.rowbytes
  let o := BitVec.ofNat 64 (i % c.t.rowbytes)
  if c.t.form = 3 then
    match s.leafBytes (s.ctx c.kick.ctx).desc.cadom c.leaves i n with
    | some bs => (.ok bs, s)
    | none => (.error (.cause cCA_NO_LINE, c.t.dst), s)
  else if c.t.form = 2 then
    match s.eRead e none walk 8 (c.t.list + BitVec.ofNat 64 (8 * r)) with
    | (.error x, t) => (.error x, t)
    | (.ok bs, t) => t.eRead e none walk n (BitVec.ofNat 64 (numOf bs) + o)
  else if c.t.form = 1 then s.eRead e none walk n (c.t.src + BitVec.ofNat 64 r * c.t.sstride + o)
  else s.eRead e none walk n (c.t.src + BitVec.ofNat 64 i)

/-- One sector fetched and written whole, published at the scope that holds DRANK (R263). -/
def State.sector (s : State) (e : Eng) (c : Copy) (walk : Bool) (i n : Nat) : Except (EFault × Word) Unit × State :=
  match s.sectorSource e c walk i n with
  | (.error x, t) => (.error x, t)
  | (.ok bs, t) =>
    match State.eRun e none true walk true (pieces (c.t.dstAt i) n) t with
    | (.error x, u) => (.error x, u)
    | (.ok hs, u) => (.ok (), u.eStores e (u.eScope e c.rank) hs bs)

/-- What a run over a chunk's missing sectors finds: the sectors that landed, their bytes, and the first fault of each kind: one that ends the copy,
one that parks the chunk, and one whose answer is still to come. -/
structure ChunkRun where
  landed : List Nat := []
  bytes : Nat := 0
  hard : Option (Nat × Word) := none
  soft : Option (EFault × Word) := none
  wait : Option (EFault × Word) := none

/-- The missing sectors of a chunk fetched and written, in order (R263, R269). -/
def State.runSectors (e : Eng) (c : Copy) (walk : Bool) : List (Nat × Nat) → ChunkRun → State → ChunkRun × State
  | [], r, s => (r, s)
  | (i, n) :: t, r, s =>
    match s.sector e c walk i n with
    | (.ok (), u) => State.runSectors e c walk t { r with landed := r.landed ++ [i], bytes := r.bytes + n } u
    | (.error (.cause k, a), u) =>
      State.runSectors e c walk t { r with hard := r.hard.or (some (k, a)) } u
    | (.error x, u) =>
      State.runSectors e c walk t (if x.1.waits then { r with wait := r.wait.or (some x) } else { r with soft := r.soft.or (some x) }) u

/-- A copy of a channel changed, found by its serial number. -/
def State.updCopy (s : State) (q n serial : Nat) (f : Copy → Copy) : State :=
  s.updQuay q fun x => x.updChan n fun y => { y with copies := y.copies.map fun c => if c.kick.serial == serial then f c else c }

/-- Chunk `j` of a copy was in flight when its lighter recorded: it is of the old colour, and the record follows what becomes of it (R390, R396). -/
def Snapshot.holdsChunk (r : Snapshot) (q n serial j : Nat) : Bool :=
  r.chans.any fun x => x.1 == q && x.2.1 == n && x.2.2.copies.any fun c => c.kick.serial == serial && c.flight.any fun k => k.j == j && !k.parked

/-- The colour of a chunk that issued before its lighter recorded, where that is not the lighter's now (R388, R396). -/
def State.oldChunk (s : State) (ctx q n serial j : Nat) : Option Bool :=
  let c := s.ctx ctx
  if c.member then
    match (s.job c.job).recording with
    | some r => if r.holdsChunk q n serial j then some (r.n % 2 == 0) else none
    | none => none
  else none

/-- A copy changed, and with it the lighter's record where a chunk of the old colour changes it (R396). -/
def State.updCopyOf (s : State) (old : Bool) (ctx q n serial : Nat) (f : Copy → Copy) : State :=
  let s1 := s.updCopy q n serial f
  if old then
    s1.updJob (s.ctx ctx).job fun j => j.updRec fun r => { r with chans := r.chans.map fun x =>
      if x.1 = q ∧ x.2.1 = n then
        (q, n, { x.2.2 with copies := x.2.2.copies.map fun c => if c.kick.serial = serial then f c else c })
      else x }
  else s1

/-- A copy stops: no further chunk issues, and its parked chunks are dropped with their records' items (R269, R271). A RESOLVE that waits for one of
them completes (R310, R383). -/
def State.stopCopy (s : State) (old : Bool) (q n : Nat) (c : Copy) (why : Nat × Nat × Word) : State :=
  let s1 := s.updCopyOf old c.kick.ctx q n c.kick.serial fun k =>
    { k with fail := k.fail.or (some why), flight := k.flight.filter fun x => !x.parked }
  let mine := fun (p : Parked) => match p.item with
    | .chunk q' n' sr _ => q' == q && n' == n && sr == c.kick.serial
    | _ => false
  let gone := (s1.ctx c.kick.ctx).parked.filter mine
  gone.foldl (fun t p => t.resolved p.cmd) (s1.updCtx c.kick.ctx fun x => { x with parked := x.parked.filter fun p => !mine p })

/-- The fault record of a chunk (R269). -/
def chunkRecord (q n : Nat) (c : Copy) (j code : Nat) (a : Word) : List Byte :=
  toBytes 1 1 ++ toBytes 1 code ++ toBytes 1 n ++ toBytes 1 0 ++ toBytes 2 (c.kick.value.toNat % 2 ^ 16) ++ toBytes 2 0
    ++ toBytes 8 a.toNat ++ toBytes 8 j ++ toBytes 8 q

/-- A chunk in flight tried: its missing sectors land, and it lands, waits, parks or fails its copy (R263, R269, R313, R316, R382, R383). -/
def State.tryChunk (s : State) (q n : Nat) (c : Copy) (x : Chunk) : State :=
  let secs := c.t.sectors x.j
  let colour := s.oldChunk c.kick.ctx q n c.kick.serial x.j
  let e := { lighterEng q c.kick.ctx with colour := colour, walked := x.walked }
  let r := State.runSectors e c s.prompt (secs.filter fun p => !x.landed.contains p.1) {} s
  let s1 := r.2
  let x1 := { x with landed := x.landed ++ r.1.landed, tried := true, wait := none }
  let keep := fun (t : State) (y : Chunk) => t.updCopyOf colour.isSome c.kick.ctx q n c.kick.serial fun k =>
    { k with bytes := k.bytes + r.1.bytes, flight := k.flight.map fun z => if z.j == x.j then y else z }
  let leave := fun (t : State) (landed : Nat) => t.updCopyOf colour.isSome c.kick.ctx q n c.kick.serial fun k =>
    { k with bytes := k.bytes + r.1.bytes, flight := k.flight.filter fun z => z.j != x.j, chunksLanded := k.chunksLanded + landed }
  match r.1.hard, r.1.wait.or r.1.soft with
  | none, none => (((leave s1 1).eTag e c.kick.rank c.rank c.t.ptag).resolved x.resolve).settleLighter q n
  | some (code, a), _ => ((((leave s1 0).resolved x.resolve).stopCopy colour.isSome q n c (1, code, a))).settleLighter q n
  | none, some (.miss, a) => keep s1 (if (windowRank a).isSome then x1 else { x1 with ready := false, wait := some (a.toNat % 2 ^ 56) })
  | none, some (.ats _, _) => keep s1 { x1 with ready := false }
  | none, some (f, a) =>
    if c.fail.isSome then ((leave s1 0).resolved x.resolve).settleLighter q n
    else
      let rec32 := chunkRecord q n c x.j f.code a
      let item := ParkedItem.chunk q n c.kick.serial x.j
      let ask := match f with
        | .denied iova w => if x.asked.contains iova then none else some (iova, w)
        | _ => none
      match ask with
      | some (iova, w) =>
        (keep s1 { x1 with ready := false, parked := true, asked := x1.asked ++ [iova], resolve := none }).askPri e item iova w rec32 x.resolve
      | none => (keep s1 { x1 with ready := false, parked := true, resolve := none }).park c.kick.ctx item rec32 x.resolve

/-- The first copy of a channel with chunk `j` in flight and waiting for nothing. -/
def Chan.landing (c : Chan) (j : Nat) : Option (Copy × Chunk) :=
  c.copies.findSome? fun k => (k.flight.find? fun x => x.j == j && x.ready && !x.parked).map fun x => (k, x)

/-- A chunk translated in its turn: one that would not go through waits or parks now, another is left in flight (R313, R385). -/
def State.turnChunk (s : State) (q n serial j : Nat) : State :=
  match ((s.quay q).chan n).copies.find? fun c => c.kick.serial == serial with
  | none => s
  | some c => match c.flight.find? fun x => x.j == j && !x.tried with
    | none => s
    | some x =>
      let r := State.runSectors { lighterEng q c.kick.ctx with walked := x.walked } c s.prompt (c.t.sectors j) {} s
      if (r.1.wait.or r.1.soft).isSome then s.tryChunk q n c x
      else s.updCopy q n serial fun k => { k with flight := k.flight.map fun z => if z.j == j then { z with tried := true } else z }

/-- A chunk lands, if it is in flight and waits for nothing (R263); where none does, a copy of the channel that has ended completes. The chunks of a copy that issued before it have had their turn to be translated,
so that those that park do so in order (R269, R385). -/
def State.landChunk (s : State) (q n j : Nat) : State :=
  match ((s.quay q).chan n).landing j with
  | some (c, _) =>
    let s1 := (c.flight.filter fun x => decide (x.j < j) && !x.tried).foldl (fun t x => t.turnChunk q n c.kick.serial x.j) s
    (match ((s1.quay q).chan n).landing j with
      | some (c, x) => s1.tryChunk q n c x
      | none => s1)
  | none => s.settleLighter q n

/-- The chunks in flight of a die's lighters that wait and are not parked, by quay, channel, serial number and index: those that wait for a walk of
the leaf granule that holds an address, or, with none, those that wait for the host (R313, R315). -/
def State.waitingChunks (s : State) (die ctx : Nat) (walk : Option Nat) : List (Nat × Nat × Nat × Nat) :=
  (s.quays.filter fun p => p.1 / 16 == die).flatMap fun p => p.2.chans.flatMap fun h => h.2.copies.flatMap fun c =>
    if c.kick.ctx = ctx then
      (c.flight.filter fun x => !x.ready && !x.parked && match walk, x.wait with
        | some va, some w => (s.ctx ctx).sameGranule va w
        | none, none => true
        | _, _ => false).map fun x => (p.1, h.1, c.kick.serial, x.j)
    else []

/-- A chunk by its copy's serial number, tried after a change. -/
def State.retryChunk (s : State) (w : Nat × Nat × Nat × Nat) (f : Chunk → Chunk) : State :=
  match ((s.quay w.1).chan w.2.1).copies.find? fun c => c.kick.serial == w.2.2.1 with
  | none => s
  | some c => match c.flight.find? fun x => x.j == w.2.2.2 with
    | none => s
    | some x => s.tryChunk w.1 w.2.1 c (f x)

/-! Kicks from threads, and aborts (R174, R270, R271) -/

/-- A kick as it reaches a channel's lighter: ignored for a channel of another context, queued where 16 wait (R258, R265). -/
def State.kickChan (s : State) (q n : Nat) (k : Kick) : State :=
  let ch := (s.quay q).chan n
  if ch.owner ≠ some k.ctx then s.advise (q / 16) k.ctx (quayCore q) (BitVec.ofNat 64 k.core)
  else
    let wait := fun (t : State) => t.updQuay q fun x => x.updChan n fun y => { y with pending := y.pending ++ [k] }
    if 16 < ch.copies.length ∨ !ch.pending.isEmpty then wait s
    else match s.acceptKick q n k with
      | (none, t) => wait t
      | (some t, _) => t.settleLighter q n

/-- Kicks of a core that their channels have not accepted: each will take an entry of its scoreboard (R243, R265). -/
def State.kicksPending (s : State) (core : Nat) : Nat :=
  (s.quays.map fun q => (q.2.chans.map fun c => c.2.pending.countP fun k => k.core == core).sum).sum

/-- An abort of a core to a channel is still on its way: a later kick of the core does not pass it (R216, R271). -/
def State.abortAhead (s : State) (core q n : Nat) : Bool :=
  s.net.any fun p => p.src == core && match p.kind with
    | .abort q' n' => q' == q && n' == n
    | _ => false

/-- The scope at which a kick publishes: DIE, and PKG where the lighter stands on another die (R174, R240, R374; DEDUCED, log entry 60). -/
def kickScope (core q : Nat) : Nat := max 1 (scopeTo core (32 * q))

/-- A kick or a ring-register write of the current thread at a lighter register (R174, R243, R257). Where the channel does not accept the kick
at once, the thread issues nothing more until it does. -/
def kickM (th : Thread) (q off : Nat) (v : Word) (copyout : Bool) : M Unit := do
  alignM th (.lighter q)
  aloneM
  let s ← getS
  let core := s.here
  let n := off % 0x200 / 8
  if decide (8 ≤ (s.core core).board.length + s.kicksPending core) || s.abortAhead core q n then stallM .overlap else pure ()
  modS fun s => s.publishB core (kickScope core q)
  if off < 0x200 then
    modS fun s =>
      let k : Kick := { value := v, core := core, rank := th.rank, ctx := th.ctx, gen := (s.ctx th.ctx).gen, task := th.task,
                        copyout := copyout, serial := s.serial }
      { s with serial := s.serial + 1 }.kickChan q n k
  else modS fun s => s.writeRing th.ctx core q n v

/-- An abort of a channel's copies (R271): every copy ends ABORTED, and so will the kicks that wait, in kick order. -/
def State.abortChan (s : State) (q n : Nat) (ctx : Nat) : State :=
  let ch := (s.quay q).chan n
  if ch.owner ≠ some ctx then s.advise (q / 16) ctx (quayCore q) 0
  else
    let s1 := s.updQuay q fun x => x.updChan n fun y => { y with pending := y.pending.map fun k => { k with aborted := true } }
    (ch.copies.foldl (fun t c => t.stopCopy false q n c (2, 0, 0)) s1).settleLighter q n

/-- The address of a channel of a quay's lighter (R257, R270). -/
def chanEa (q c : Nat) : Word := BitVec.ofNat 64 (0x00FC000000000000 + q * 2 ^ 16 + 8 * c)

/-- The quay that BTX, BTABORT and COPYOUT name, checked: the own quay for code 10, else a quay register (R270). -/
def quayOperand (th : Thread) (a : BitVec 4) (c : Nat) : M Nat := do
  let s ← getS
  if a = 10 then pure (quayOf s.here)
  else do
    let v ← cleanUse (src th a)
    let q := v.toNat % 2 ^ 19
    require (v.toNat < 2 ^ 19 && (quayNumber q).isSome) cADDRESS (chanEa q c)
    pure q

end Sys2Proof.Machine
end

