-- ==== Sys2Proof/Machine/VecOps.lean ====
section
/-!
DEFINITION. Reading and writing V registers: elements by TY and FMT, masks, the B operand, and what a vector instruction writes
(R25, R114 to R122, R403, R404).
-/

namespace Sys2Proof.Machine

/-- A raw element and its poison. -/
structure PNat where
  v : Nat
  p : Bool
  deriving DecidableEq, Repr

/-- A V register as it was read, with its lane poison. -/
structure VSrc where
  v : VReg
  p : BitVec 64
  deriving DecidableEq, Repr

/-- A field of a V register; it is poisoned when a lane that it touches is (R403). -/
def VSrc.field (s : VSrc) (lo w : Nat) : PNat :=
  { v := (s.v.extractLsb' lo w).toNat
    p := (upFrom (lo / 32) ((lo + w - 1) / 32 - lo / 32 + 1)).any fun l => s.p.getLsbD l }

/-- Element `i` by TY (R115). -/
def VSrc.elem (s : VSrc) (ty i : Nat) : PNat := if ty = 3 then s.field (64 * i) 64 else s.field (32 * i) (tyWidth ty)

/-- Element `i` by FMT: lane-held for the codes 0 to 3, else packed (R116). -/
def VSrc.packed (s : VSrc) (fmt i : Nat) : PNat :=
  if fmt = 0 then s.field (64 * i) 64
  else if fmt ≤ 3 then s.field (32 * i) (fmtWidth fmt)
  else s.field (fmtWidth fmt * i) (fmtWidth fmt)

/-- Element `i` of `k` whole lanes (R136). -/
def VSrc.lanes (s : VSrc) (k i : Nat) : PNat := s.field (32 * k * i) (32 * k)

/-- The number of elements by TY (R115). -/
def tyCount (ty : Nat) : Nat := if ty = 3 then 32 else 64

/-- One field that an instruction writes. -/
structure Put where
  lo : Nat
  w : Nat
  v : Nat
  p : Bool
  deriving DecidableEq, Repr

/-- Element `i` written by TY, with the lane's other bits as R115 gives. -/
def putTy (ty i v : Nat) (p : Bool) : Put :=
  if ty = 3 then { lo := 64 * i, w := 64, v := v, p := p }
  else { lo := 32 * i, w := 32, p := p,
         v := if ty = 5 ∨ ty = 6 then ofSigned 32 (toSigned (tyWidth ty) v) else v % 2 ^ tyWidth ty }

/-- Element `i` written by FMT (R116, R130). -/
def putFmt (fmt i v : Nat) (p : Bool) : Put :=
  if fmt = 0 then { lo := 64 * i, w := 64, v := v, p := p }
  else if fmt ≤ 3 then { lo := 32 * i, w := 32, v := v, p := p }
  else { lo := fmtWidth fmt * i, w := fmtWidth fmt, v := v, p := p }

/-- The lanes below `n`. -/
def lanesBelow (n : Nat) : BitVec 64 := BitVec.ofNat 64 (2 ^ n - 1)

/-- The lanes that elements 0 to `n - 1` by TY lie in. -/
def elemLanes (ty n : Nat) : BitVec 64 := lanesBelow (if ty = 3 then 2 * n else n)

/-- The lanes that elements 0 to `n - 1` by FMT lie in. -/
def fmtLanes (fmt n : Nat) : BitVec 64 :=
  lanesBelow (if fmt = 0 then 2 * n else if fmt ≤ 3 then n else (fmtWidth fmt * n + 31) / 32)

/-- The bits that fields cover. -/
def putMask (ps : List Put) : VReg := BitVec.ofNat 2048 (ps.foldl (fun n p => n + (2 ^ p.w - 1) * 2 ^ p.lo) 0)

/-- The bits that fields bring. -/
def putBits (ps : List Put) : VReg := BitVec.ofNat 2048 (ps.foldl (fun n p => n + p.v % 2 ^ p.w * 2 ^ p.lo) 0)

/-- The lanes that poisoned fields touch. -/
def putPois (ps : List Put) : BitVec 64 :=
  ps.foldl (fun (b : BitVec 64) p =>
    if p.p then (upFrom (p.lo / 32) ((p.lo + p.w - 1) / 32 - p.lo / 32 + 1)).foldl (fun b l => b ||| (1#64 <<< l)) b else b) 0

/-- The lanes that a mask of bits covers completely. -/
def fullLanes (m : VReg) : BitVec 64 :=
  BitVec.ofNat 64 ((upFrom 0 64).foldr (fun l n => 2 * n + b2n (m.extractLsb' (32 * l) 32 == 0xFFFFFFFF#32)) 0)

/-- The latch write that stands for fields and for lanes poisoned whatever they hold (R16, R122). A lane written in part stays poisoned
if it was (R404). -/
def latchV (r : Nat) (extra : BitVec 64) (ps : List Put) : LatchWrite :=
  let m := putMask ps
  let pois := putPois ps ||| extra
  .v r m (putBits ps) (fullLanes m ||| pois) pois

/-- The V register named, relative to the thread's quota (R26); VREG_QUOTA beyond it. -/
def readV (th : Thread) (n : BitVec 5) : M VSrc := do
  let r ← vphys th n.toNat
  let s ← getS
  let c := s.core s.here
  pure { v := c.v r, p := c.vp r }

/-- Fields written to a V register of the thread at once. -/
def writeV (th : Thread) (n : BitVec 5) (extra : BitVec 64) (ps : List Put) : M Unit :=
  modS fun s => s.land s.cur (latchV (th.vbase + n.toNat) extra ps)

/-- A mask as read at issue (R117). -/
structure VMask where
  bits : Option Word
  poison : Bool
  deriving DecidableEq, Repr

/-- The mask of a vector instruction: X[MSK], or every element for code 10 (R117). -/
def maskOf (th : Thread) (msk : BitVec 4) : VMask :=
  if msk.toNat ≤ 9 then { bits := some (th.xreg msk.toNat).v, poison := (th.xreg msk.toNat).p } else { bits := none, poison := false }

/-- One mask bit. -/
def VMask.bitOn (m : VMask) (i : Nat) : Bool :=
  match m.bits with
  | none => true
  | some w => w.getLsbD i

/-- Element `i` by TY is enabled (R117). -/
def VMask.on (m : VMask) (ty i : Nat) : Bool := m.bitOn (if ty = 3 then 2 * i else i)

/-- The enabled elements by TY. -/
def VMask.elems (m : VMask) (ty : Nat) : List Nat := (upFrom 0 (tyCount ty)).filter (m.on ty)

/-- The lanes of the destination's elements where the mask register is poisoned: every element (R404). -/
def VMask.lanesIfPoisoned (m : VMask) (n : Nat) : BitVec 64 := if m.poison then lanesBelow (if n = 32 then 64 else n) else 0

/-- The X register that VD[3:0] names (R120). -/
def xOf (vd : BitVec 5) : BitVec 4 := vd.setWidth 4

/-- The B operand of R119 as elements of `w` bits: VB element by element, a register's low bits, or IMM8. -/
def bOperand (th : Thread) (f : VF) (ty w : Nat) : M (Nat → PNat) :=
  if f.xs = 10 then do
    let b ← readV th f.vb
    pure fun i => b.elem ty i
  else
    let x := if f.xs = 11 then clean (sext64 8 f.imm.toNat) else src th f.xs
    pure fun _ => { v := x.v.toNat % 2 ^ w, p := x.p }

/-- ACCSTAT of the current core with bits set (R63). -/
def noteAcc (b : BitVec 32) : M Unit := modS fun s => s.updCore s.here fun c => { c with accstat := c.accstat ||| b, accNew := c.accNew ||| b }

/-- ACCSTAT.TERNBAD set (R65). -/
def noteTern (b : Bool) : M Unit := if b then noteAcc 2#32 else pure ()

/-- ACCSTAT.OVF set (R76). -/
def noteOvf (b : Bool) : M Unit := if b then noteAcc 1#32 else pure ()

/-- RNGKEY advanced after an instruction with SR (R70). -/
def advanceRng (rm : Nat) : M Unit :=
  if 8 ≤ rm then modS fun s => s.updThread fun t => { t with rngkey := t.rngkey + rngStep } else pure ()

end Sys2Proof.Machine
end

