-- ==== Sys2Proof/Machine/LoadStore.lean ====
section
/-!
DEFINITION. Scalar loads and stores, majors 0x50 and 0x51, and the kicks of major 0x68 (R169 to R174, R270).
-/

namespace Sys2Proof.Machine

/-- The word that a load of a lighter register reads, cut to the access (R174, R257). A narrow load of a channel's status clears ERR whether or not it
returns bit 8 (DESIGN CHOICE, log entry 65). -/
def lighterLoad (th : Thread) (q off n : Nat) : M Nat := do
  let s ← getS
  let r := s.readLighter th.ctx q off
  setS r.2
  pure (r.1.toNat / 2 ^ (8 * (off % 8)) % 2 ^ (8 * n))

/-- LD and LDS (R170): the value of `n` bytes at the effective address, with its poison. -/
def loadValue (f : SF) (th : Thread) : M PNat := do
  let n := widthOf f.sz / 8
  let ea ← cleanUse (eaOf th f.a f.b f.fl f.imm)
  migrateCheck th ea
  let a ← checked th .load n n ea
  match a.place with
  | .lighter q off => do
    alignM th (.lighter q)
    aloneM
    boardCheck [a]
    let v ← lighterLoad th q off n
    pure { v := v, p := false }
  | _ => do
    let bs ← readAccs true [a]
    pure { v := numOf bs.flatten, p := anyPois bs.flatten }

/-- LD (R170). -/
def execLd (h : Hdr) (f : SF) (s : State) : Out :=
  issueLong (.ld h f) h 0x50 0 8 s fun th => do
    let v ← loadValue f th
    pure { latch := latchX f.d { v := zext64 (widthOf f.sz) v.v, p := v.p } }

/-- LDS (R170). -/
def execLds (h : Hdr) (f : SF) (s : State) : Out :=
  issueLong (.lds h f) h 0x50 1 8 s fun th => do
    let v ← loadValue f th
    pure { latch := latchX f.d { v := sext64 (widthOf f.sz) v.v, p := v.p } }

/-- A store to memory that the core does not home restarts the watchdog of a sink (R300). -/
def sinkStore (p : Place) : M Unit :=
  match p with
  | .own _ => pure ()
  | .stub _ => pure ()
  | _ => sinkM

/-- The checks of a tag-setting store (R171): the place of its 8 bytes on a tag-enabled page. -/
def tagAccess (th : Thread) (f : SF) (ea : Word) : M Acc := do
  require (ea.toNat / 2 ^ 60 == 0) cADDRESS ea
  let s ← getS
  let rg := regionOf th.svc (ea.toNat % 2 ^ 56)
  require (match rg with
    | .bad => false
    | .window r _ => ((s.ctx th.ctx).rank r).state != 0
    | .quayWin q _ => (quayNumber q).isSome
    | .lighter q off => (quayNumber q).isSome && decide (off < 0x400)
    | _ => true) cADDRESS ea
  require (f.sz == 0 && ea.toNat % 32 == 0) cALIGN ea
  match rg with
  | .paged va => do
    let p ← pagedAccess th va ea 8 .store true
    pure { ea := ea, n := 8, place := p }
  | _ => trapM cPAGE_PROTECTION ea

/-- The tag of a sector written (R168, R171). -/
def State.setTag (s : State) (home tag : Nat) : State :=
  let k := physOf home / 32
  { s with tags := if tag = 0 then Tab.del k s.tags else Tab.set k tag s.tags }

/-- ST (R171, R172, R174). -/
def execSt (h : Hdr) (f : SF) (s : State) : Out :=
  issue (.st h f) h 0x51 0 8 s fun th => do
    let n := widthOf f.sz / 8
    let d := src th f.d
    let ea ← cleanUse (eaOf th f.a f.b f.fl f.imm)
    externalCheck th ea d.p
    migrateCheck th ea
    let tag := bit 2 f.fl.toNat
    let a ← if tag then tagAccess th f ea else checked th .store n n ea
    let data := (toBytes n d.v.toNat).map fun b => (b, d.p)
    match a.place with
    | .lighter q off => do
      require (f.sz == 0) cALIGN ea
      boardCheck [a]
      kickM th q off d.v false
    | p => do
      boardCheck [a]
      if tag then do
        aloneM
        modS fun s => s.setTag ((p.home?).getD 0) (bits 59 56 ea.toNat) else pure ()
      storeAccs th.ctx [(a, data)]
      sinkStore p

/-- BTX (R270): the store of R174 at a channel's address. -/
def execBtx (h : Hdr) (f : EF) (s : State) : Out :=
  issue (.btx h f) h 0x68 0 12 s fun th => do
    let c := f.tail.toNat % 64
    let q ← quayOperand th f.a c
    let a ← checked th .store 8 8 (chanEa q c)
    boardCheck [a]
    kickM th q (8 * c) (srcBE f th).v false

/-- BTABORT (R270, R271). -/
def execBtabort (h : Hdr) (f : EF) (s : State) : Out :=
  issue (.btabort h f) h 0x68 1 12 s fun th => do
    let c := f.tail.toNat % 64
    let q ← quayOperand th f.a c
    modS fun s => s.publishB s.here (kickScope s.here q)
    modS fun s =>
      s.put { src := s.here, origin := th.rank, ctx := th.ctx, gen := (s.ctx th.ctx).gen, colour := s.colour th.ctx (.core s.here),
              rank := 2 ^ 25 + q, marker := none, kind := .abort q c, cycle := s.cycle }

end Sys2Proof.Machine
end

