-- ==== Sys2Proof/Machine/Atomic.lean ====
section
/-!
DEFINITION. Atomics, major 0x56 (R181 to R186).
-/

namespace Sys2Proof.Machine

/-- The atomic operations of R182. -/
inductive AtomOp where
  | add | and | or | xor | min | max | minu | maxu | swp | cas
  deriving DecidableEq, Repr

/-- FN of an atomic (R182). -/
def AtomOp.fn : AtomOp → Nat
  | .add => 0
  | .and => 1
  | .or => 2
  | .xor => 3
  | .min => 4
  | .max => 5
  | .minu => 6
  | .maxu => 7
  | .swp => 8
  | .cas => 9

/-- The atomics that a HOST page admits (R167, R185). -/
def AtomOp.hostOk (k : AtomOp) : Bool := k == .add || k == .swp || k == .cas

/-- The new value at the address (R182): `o` the old one, `b` the operand, `d` the expected one. -/
def AtomOp.eval (k : AtomOp) (w o b d : Nat) : Nat :=
  match k with
  | .add => (o + b) % 2 ^ w
  | .and => o &&& b
  | .or => o ||| b
  | .xor => o ^^^ b
  | .min => if toSigned w o ≤ toSigned w b then o else b
  | .max => if toSigned w o ≤ toSigned w b then b else o
  | .minu => if o ≤ b then o else b
  | .maxu => if o ≤ b then b else o
  | .swp => b
  | .cas => if o = d then b else o

/-- The bytes of an access overlap an entry of the core's phase queue (R184). -/
def Core.queueMeets (c : Core) (home n : Nat) : Bool :=
  c.pq.any fun e => (upFrom 0 n).any fun i => decide ((home + i) / 64 * 64 = e.piece) && e.op.mask.getLsbD ((home + i) % 64)

/-- The contention predictor's account of an atomic of a core on a line (R186): an entry of the core's quay holds the line, its count and the core
that has it with ownership. Ownership is recalled from a core of any quay; the count as it stood chooses where the atomic executes. How long a core keeps
ownership of a line R186 does not say: it ends here when the line's entry leaves the predictor of the owner's quay (DESIGN CHOICE, log entry 65). -/
def State.predict (s : State) (core line : Nat) : State :=
  let e := ((s.quay (quayOf core)).predictor.find? fun p => p.1 == line).getD (line, 1, none)
  let contested := s.quays.any fun q => q.2.predictor.any fun p => p.1 == line && p.2.2.any (· != core)
  let n := if contested then min 3 (e.2.1 + 1) else e.2.1 - 1
  let s1 := { s with quays := Tab.mapVals (fun _ (q : Quay) =>
    { q with predictor := q.predictor.map fun (p : Nat × Nat × Option Nat) => if p.1 = line then (p.1, p.2.1, none) else p }) s.quays }
  s1.updQuay (quayOf core) fun q =>
    { q with predictor := ((line, n, if e.2.1 ≤ 1 then some core else none) :: q.predictor.filter fun p => p.1 != line).take 256 }

/-- An own pinned line after an atomic of its core (R183). -/
def mergePin (home : Nat) (data : List (Byte × Bool)) (p : Pin) : Pin :=
  (lineOps home data).foldl (fun p x => if p.home = x.1 then
      let r := x.2.apply (p.data, p.pois)
      { p with data := r.1, pois := r.2 }
    else p) p

/-- The old value at a home address and its poison, read where the location's point of order is (R183). -/
def State.atomOld (s : State) (home n : Nat) : PNat :=
  let b := s.homeBytes home n
  { v := numOf b, p := anyPois b }

/-- Bytes that another agent writes to the scratchpad of a paired core come in again if its interval runs again (R413, R417). -/
def State.comesIn (s : State) (core ctx home : Nat) (data : List (Byte × Bool)) : State :=
  let k := spadCore home
  if homeKind home = Home.spad ∧ core ≠ k ∧ s.isPaired k then
    (lineOps home data).foldl (fun t p => t.updCore k fun c => { c with pair := { c.pair with
      inbound := c.pair.inbound ++ [s.writePacket { piece := p.1, ctx := ctx, core := core, colour := s.colour ctx (.core core), op := p.2 }
        ((s.ctx ctx).rankAt k)] } }) s
  else s

/-- An atomic performed at its point of order (R182, R183, R186): what was published earlier is there, the value that `f` makes of the old one is
written, the monitors fire, and the core's own pinned line follows. -/
def State.atomWrite (s : State) (ctx home n : Nat) (f : PNat → PNat) : State :=
  let core := s.here
  let new := fun (l : List (Byte × Bool)) => let y := f { v := numOf l, p := anyPois l }; (toBytes n y.v).map fun b => (b, y.p)
  let data := new (s.homeBytes home n)
  let s0 := if homeKind home = Home.spad then (s.logUnits (spadCore home) (unitsOf home n)).comesIn core ctx home data else s
  let s1 := s0.homePut ctx (s.colour ctx (.core core)) home (data.map some)
    fun (x : PageImage) => (new (x.read (physOf home) n)).map some
  let s2 := (s1.injectMem core home).updCore core fun c => { c with pins := c.pins.map (mergePin home data) }
  if homeKind home = Home.spad ∨ homeKind home = Home.host then s2 else s2.predict core (home / 64 * 64)

/-- A host that completes an AtomicOp with Unsupported Request: an error record, and nothing is written (R185, R408). It stands in the log of the
issuing core's die with the IOVA in ERRADDR (DESIGN CHOICE, log entry 64). -/
def State.hostRefuses (s : State) (ctx home : Nat) : State :=
  s.logErr (dieOf s.here) 13 1 ctx s.here (BitVec.ofNat 64 (home - 2 ^ 64))

/-- The boundaries before an atomic (R184): the implicit one where its bytes overlap a queued entry, then that of .REL. -/
def State.atomBefore (s : State) (home n ord scope : Nat) : State :=
  let core := s.here
  let s1 := if (s.core core).queueMeets home n then (s.publishNow core (scopeToHome core home)).countImplicit core else s
  if bit 1 ord then s1.publishB core scope else s1

/-- An atomic performed on a checked access with its boundaries, and the old value (R181 to R185); `f` makes the new value of the old one. A stub
area, which no other agent reaches, takes it in place (R105). -/
def atomAt (th : Thread) (a : Acc) (n ord scope : Nat) (f : PNat → PNat) : M PNat := do
  let home := (a.place.home?).getD 0
  match a.place with
  | .stub _ => modS fun s => s.atomBefore 0 0 ord scope
  | _ => modS fun s => (s.atomBefore home n ord scope).settleLine s.here (home / 64 * 64)
  match a.place with
  | .stub _ => pure ()
  | _ => modS fun s => s.readUnits th.ctx s.here home n (a.ea.toNat % 2 ^ 56)
  let s ← getS
  let ok := homeKind home != Home.host || Config.hostAtomicOk (home - 2 ^ 64)
  let o : PNat := match a.place with
    | .stub _ => let bs := s.accBytes false a; { v := numOf bs, p := anyPois bs }
    | _ => if ok then s.atomOld home n else { v := 0, p := false }
  match a.place with
  | .stub _ => storeAccs th.ctx [(a, (toBytes n (f o).v).map fun c => (c, (f o).p))]
  | _ => modS fun s =>
    if ok then (s.printStore s.cur (a.ea.toNat % 2 ^ 56) ((toBytes n (f o).v).map fun c => (c, (f o).p))).atomWrite th.ctx home n f
    else s.hostRefuses th.ctx home
  modS fun s => if bit 0 ord then s.refreshB s.here else s
  sinkM
  pure o

/-- An atomic (R181 to R185). -/
def atomS (k : AtomOp) (f : SF) (th : Thread) : M Opening := do
  let w := widthOf f.sz
  let n := w / 8
  let ord := f.fl.toNat % 4
  let b := srcB f th
  let d := src th f.d
  let ea ← cleanUse (srcA f th)
  migrateCheck th ea
  let a ← checked th (.atomic k.hostOk) n n ea
  boardCheck [a]
  match a.place with
  | .stub _ => pure ()
  | .own _ => if bit 1 ord then aloneM else pure ()
  | _ => requestM
  let o ← atomAt th a n ord (bits 3 2 f.fl.toNat) fun x =>
    { v := k.eval w x.v (b.v.toNat % 2 ^ w) (d.v.toNat % 2 ^ w), p := match k with
      | .swp => b.p
      | .cas => x.p || b.p || d.p
      | _ => x.p || b.p : PNat }
  pure { latch := latchX f.d { v := zext64 w o.v, p := o.p } }

/-- AADD. -/
def execAadd (h : Hdr) (f : SF) (s : State) : Out := issueLong (.aadd h f) h 0x56 0 8 s (atomS .add f)

/-- AAND. -/
def execAand (h : Hdr) (f : SF) (s : State) : Out := issueLong (.aand h f) h 0x56 1 8 s (atomS .and f)

/-- AOR. -/
def execAor (h : Hdr) (f : SF) (s : State) : Out := issueLong (.aor h f) h 0x56 2 8 s (atomS .or f)

/-- AXOR. -/
def execAxor (h : Hdr) (f : SF) (s : State) : Out := issueLong (.axor h f) h 0x56 3 8 s (atomS .xor f)

/-- AMIN. -/
def execAmin (h : Hdr) (f : SF) (s : State) : Out := issueLong (.amin h f) h 0x56 4 8 s (atomS .min f)

/-- AMAX. -/
def execAmax (h : Hdr) (f : SF) (s : State) : Out := issueLong (.amax h f) h 0x56 5 8 s (atomS .max f)

/-- AMINU. -/
def execAminu (h : Hdr) (f : SF) (s : State) : Out := issueLong (.aminu h f) h 0x56 6 8 s (atomS .minu f)

/-- AMAXU. -/
def execAmaxu (h : Hdr) (f : SF) (s : State) : Out := issueLong (.amaxu h f) h 0x56 7 8 s (atomS .maxu f)

/-- ASWP. -/
def execAswp (h : Hdr) (f : SF) (s : State) : Out := issueLong (.aswp h f) h 0x56 8 8 s (atomS .swp f)

/-- ACAS. -/
def execAcas (h : Hdr) (f : SF) (s : State) : Out := issueLong (.acas h f) h 0x56 9 8 s (atomS .cas f)

end Sys2Proof.Machine
end

