-- ==== Sys2Proof/Machine/Bank.lean ====
section
/-!
DEFINITION. Bank arithmetic, major 0x55 (R178 to R180).
-/

namespace Sys2Proof.Machine

/-- The queue operations of a block: one for each 64-byte piece that holds an enabled lane; `w` is the element's bytes (R180). A poisoned mask
poisons every element of the block (R404). -/
def bankPieces (fn w home : Nat) (d : VSrc) (m : VMask) (fac : PWord) : List (Nat × QOp) :=
  let per := 64 / w
  (upFrom 0 (if w = 2 then 2 else 4)).filterMap fun p =>
    let on := fun i => m.bitOn (per * p + i)
    let el := fun i => d.field (32 * (per * p + i)) (8 * w)
    let bad := fun i => m.poison || on i && ((el i).p || fac.p)
    if m.poison || (upFrom 0 per).any on then
      some (home + 64 * p, .bank fn
        (BitVec.ofNat 64 ((upFrom 0 per).foldr (fun i n => 2 * n + b2n (on i)) 0))
        (BitVec.ofNat 512 ((upFrom 0 per).foldr (fun i n => 2 ^ (8 * w) * n + (el i).v) 0))
        (fac.v.setWidth 32)
        (BitVec.ofNat 64 ((upFrom 0 per).foldr (fun i n => 2 ^ w * n + (if bad i then 2 ^ w - 1 else 0)) 0)))
    else none

/-- A B-operation (R178 to R180): the checks on the block, then one queue entry for each piece. -/
def bankS (fn : Nat) (f : EF) (th : Thread) : M Opening := do
  let w := if fn = 2 then 2 else 4
  let d ← readV th (BitVec.ofNat 5 (bits 6 2 f.fl.toNat))
  let ea ← cleanUse (eaOf th f.a f.b f.fl f.imm)
  let m := maskOf th f.c
  let fac := if fn = 7 then src th f.f else clean 0
  let a ← checked th .bank (64 * w) (64 * w) ea
  boardCheck [a]
  let ps := bankPieces fn w ((a.place.home?).getD 0) d m fac
  roomM ps.length
  modS fun s => ps.foldl (fun t p => t.enqueueBank t.here th.ctx p.1 p.2) s
  sinkM
  pure {}

/-- BADD.I32. -/
def execBaddI32 (h : Hdr) (f : EF) (s : State) : Out := issueLong (.baddI32 h f) h 0x55 0 12 s (bankS 0 f)

/-- BADD.F32. -/
def execBaddF32 (h : Hdr) (f : EF) (s : State) : Out := issueLong (.baddF32 h f) h 0x55 1 12 s (bankS 1 f)

/-- BADD.BF16. -/
def execBaddBf16 (h : Hdr) (f : EF) (s : State) : Out := issueLong (.baddBf16 h f) h 0x55 2 12 s (bankS 2 f)

/-- BMIN.I32. -/
def execBminI32 (h : Hdr) (f : EF) (s : State) : Out := issueLong (.bminI32 h f) h 0x55 3 12 s (bankS 3 f)

/-- BMAX.I32. -/
def execBmaxI32 (h : Hdr) (f : EF) (s : State) : Out := issueLong (.bmaxI32 h f) h 0x55 4 12 s (bankS 4 f)

/-- BMIN.F32. -/
def execBminF32 (h : Hdr) (f : EF) (s : State) : Out := issueLong (.bminF32 h f) h 0x55 5 12 s (bankS 5 f)

/-- BMAX.F32. -/
def execBmaxF32 (h : Hdr) (f : EF) (s : State) : Out := issueLong (.bmaxF32 h f) h 0x55 6 12 s (bankS 6 f)

/-- BAXPY.F32. -/
def execBaxpyF32 (h : Hdr) (f : EF) (s : State) : Out := issueLong (.baxpyF32 h f) h 0x55 7 12 s (bankS 7 f)

end Sys2Proof.Machine
end

