-- ==== Sys2Proof/Machine/BerthOps.lean ====
section
/-!
DEFINITION. Berths: increments, arrivals and releases, wait lists and waking (R13, R197, R210 to R217, R220). The operations act on one core,
which may be live or lie in a save area, and answer the packets it sends.
-/

namespace Sys2Proof.Machine

/-- The lowest-numbered free slot of a list (R197). -/
def freeSlot (l : List Slot) : Option Nat := firstIdx (fun x => x.th.isNone) l

/-- A context placed in a slot or at the tail of the run queue (R13, R197); none where both are full. -/
def Core.takeIn (c : Core) (th : Thread) : Option Core :=
  match freeSlot c.slots with
  | some i => if c.queue.isEmpty then some { c with slots := setNth { th := some th } i c.slots }
              else if c.queue.length < 48 then some { c with queue := c.queue ++ [th] } else none
  | none => if c.queue.length < 48 then some { c with queue := c.queue ++ [th] } else none

/-- What a change of a berth leaves: the core, the packets sent (to a rank), and how many arrivals were dropped (R220) or met a saturated count
(R212): each is an advisory event (R408). -/
structure BerthResult where
  core : Core
  out : List (Nat × PKind) := []
  dropped : Nat := 0

/-- A refresh on wake (R217, R221). -/
def Core.refreshed (c : Core) : Core := { c with pins := [], phasecnt := c.phasecnt + 1 }

/-- NR of what a waiter waits for. -/
def WaitKind.noRefresh : WaitKind → Bool
  | .wait _ nr => nr
  | .bar _ nr => nr

/-- Places for contexts that a core's slots and run queue still have (R197). -/
def Core.room (c : Core) : Nat := c.slots.countP (fun x => x.th.isNone) + 48 - c.queue.length

/-- Contexts on the wait lists of a core that are marked woken (R197). -/
def Core.marked (c : Core) : Nat := (c.berths.map fun p => p.2.waiters.countP (·.woken.isSome)).sum

/-- A woken context finds room in the next cycle, behind those woken before it (R197, R199). -/
def Core.mayWake (c : Core) : Bool := decide (c.marked + c.woke.countP (fun t => !t.2.svc) < c.room)

/-- A context that comes from the network finds room in the next cycle, behind all that join before it (R197, R199). -/
def Core.mayAdmit (c : Core) : Bool := decide (c.marked + c.woke.countP (fun t => !t.2.svc) + c.rel.length + c.ni.length < c.room)

/-- The waiter at position `i` of a berth woken: it refreshes, and joins its slot or the queue in the next cycle; it stays on the list marked
woken where there is no room, or where the core is not live (R13, R197, R199, R215). A handler goes back to its service slot (R103). -/
def Core.wakeAt (live : Bool) (c : Core) (b i : Nat) : Core :=
  match (c.berth b).waiters[i]? with
  | none => c
  | some w =>
    let c0 := if w.kind.noRefresh then c else c.refreshed
    let c1 := { c0 with wakeNo := c0.wakeNo + 1 }
    if live && (w.th.svc || c0.mayWake) then
      { c1.updBerth b (fun x => { x with waiters := dropNth i x.waiters }) with woke := c0.woke ++ [(c0.wakeNo, w.th)] }
    else c1.updBerth b (fun x => { x with waiters := setNth { w with woken := some c0.wakeNo } i x.waiters })

/-- The head waiters that COUNT satisfies take their effect and are woken, in order (R213, R217). -/
def Core.settle (live : Bool) : Nat → Core → Nat → Core
  | 0, c, _ => c
  | n + 1, c, b =>
    let x := c.berth b
    match firstIdx (fun (w : Waiter) => w.woken.isNone) x.waiters with
    | none => c
    | some i =>
      match x.waiters[i]? with
      | some { kind := .wait k _, .. } =>
        if k ≤ x.count then
          let c1 := c.updBerth b fun y => { y with count := if y.kind = 0 then y.count - k else y.count }
          Core.settle live n (c1.wakeAt live b i) b
        else c
      | _ => c

/-- Every BAR waiter whose recorded generation differs from GEN woken (R220). -/
def Core.wakeBars (live : Bool) : Nat → Core → Nat → Core
  | 0, c, _ => c
  | n + 1, c, b =>
    let x := c.berth b
    match firstIdx (fun (w : Waiter) => match w.kind with
        | .bar g _ => w.woken.isNone && g != x.gen
        | .wait .. => false) x.waiters with
    | none => c
    | some i => Core.wakeBars live n (c.wakeAt live b i) b

/-- Every slot of a SLOT berth's ring is landed or held back: a channel packet waits (R226). -/
def Berth.ringFull (x : Berth) : Bool := decide (2 ^ bits 40 37 x.cfg.toNat ≤ (x.widx + 2 ^ 32 - x.ridx) % 2 ^ 32)

/-- LOCAL + CHILD of a BARRIER (R223). -/
def Berth.expected (x : Berth) : Nat := bits 49 44 x.cfg.toNat + bits 43 38 x.cfg.toNat

/-- ROOT of a BARRIER (R223). -/
def Berth.root (x : Berth) : Bool := x.cfg.getLsbD 35

/-- The release of a BARRIER's generation, but for the arrivals set aside (R220). -/
def Core.releaseBarrier (live : Bool) (c : Core) (b : Nat) : BerthResult :=
  let x := c.berth b
  let c1 := c.updBerth b fun y => { y with gen := (y.gen + 1) % 256, pending := false, origins := [], aside := [] }
  { core := c1.wakeBars live x.waiters.length b
    out := x.origins.map fun o => (o.rank, .release o.berth) }

/-- One arrival at a BARRIER berth of the core with rank `rank` (R220). -/
def Core.arrive (live : Bool) (c : Core) (rank b : Nat) (origin : Option Origin) : BerthResult :=
  let x := c.berth b
  if x.pending then { core := c.updBerth b fun y => { y with aside := y.aside ++ [origin] } }
  else if origin.isSome && decide (32 ≤ x.origins.length) then { core := c, dropped := 1 }
  else if x.count + 1 < x.expected then
    { core := c.updBerth b fun y => { y with count := y.count + 1, origins := y.origins ++ origin.toList } }
  else
    let c1 := c.updBerth b fun y => { y with count := 0, origins := y.origins ++ origin.toList }
    if x.root then c1.releaseBarrier live b
    else
      { core := c1.updBerth b fun y => { y with pending := true }
        out := [(bits 23 0 x.cfg.toNat, .inc (bits 34 24 x.cfg.toNat) (some { rank := rank, berth := b }))] }

/-- Arrivals one after another. -/
def Core.arriveAll (live : Bool) (rank b : Nat) : List (Option Origin) → BerthResult → BerthResult
  | [], r => r
  | o :: t, r =>
    let r1 := r.core.arrive live rank b o
    Core.arriveAll live rank b t { core := r1.core, out := r.out ++ r1.out, dropped := r.dropped + r1.dropped }

/-- A release packet at a BARRIER berth that is not ROOT (R220). -/
def Core.takeRelease (live : Bool) (c : Core) (rank b : Nat) : BerthResult :=
  let x := c.berth b
  if x.kind = 3 ∧ !x.root then Core.arriveAll live rank b x.aside (c.releaseBarrier live b) else { core := c }

/-- An increment of a berth (R212). -/
def Core.increment (live : Bool) (c : Core) (rank b : Nat) (origin : Option Origin) : BerthResult :=
  let x := c.berth b
  if x.kind = 3 then c.arrive live rank b origin
  else if 0xFFFFFFFF ≤ x.count then { core := c.updBerth b fun y => { y with ovf := true }, dropped := 1 }
  else
    let c1 := c.updBerth b fun y => { y with count := y.count + 1 }
    { core := c1.settle live x.waiters.length b }

/-- The context that owns a core (R320). -/
def State.ownerOf (s : State) (core : Nat) : Nat := (s.core core).owner.getD 0

/-- The logical rank of a core in its owner's rank table. -/
def State.rankOf (s : State) (core : Nat) : Nat := (s.ctx (s.ownerOf core)).rankAt core

/-- The state after a change of a berth of a live core. -/
def State.afterBerth (s : State) (core ctx : Nat) (r : BerthResult) : State :=
  let s1 := s.setCore core r.core
  let rank := (s.ctx ctx).rankAt core
  let s2 := r.out.foldl (fun t p => t.send core ctx rank p.1 p.2) s1
  (List.replicate r.dropped ()).foldl (fun t _ => t.advise (dieOf core) ctx core 0) s2

/-- A berth of a live core incremented (R212, R215). -/
def State.incBerth (s : State) (core ctx b : Nat) (origin : Option Origin) : State :=
  s.afterBerth core ctx ((s.core core).increment true ((s.ctx ctx).rankAt core) b origin)

/-- A gated core wakes: the cycles it lay gated are not counted, and the increments in its quay core's berth shadow are restored, in order,
before it issues (R215, R432). -/
def State.wakeCore (s : State) (core : Nat) : State :=
  if (s.core core).gated then
    let s1 := s.updCore core fun c =>
      { c with gated := false, wake := none, gatedCycles := c.gatedCycles + (s.cycle - c.gateFrom), idleFrom := s.time }
    let mine := (s1.quay (quayOf core)).shadow.filter fun p => p.1 == core
    let s2 := s1.updQuay (quayOf core) fun q => { q with shadow := q.shadow.filter fun p => p.1 != core }
    mine.foldl (fun t p => match p.2.kind with
      | .inc b o => t.incBerth core p.2.ctx b o
      | _ => t) s2
  else s

/-- The berth that an instruction names (R211): a poisoned index kills, one of 2,048 or more traps BERTH_RANGE. -/
def berthM (a : PWord) (off : Nat) : M Nat := do
  let v ← cleanUse a
  let n := v + BitVec.ofNat 64 off
  require (decide (n.toNat < 2048)) cBERTH_RANGE n
  pure n.toNat

/-- The slot at a place as its thread blocks (R13): it is given up; a service slot stays its handler's, with the stub area (R105). -/
def State.sleepSlot (s : State) (l : Loc) (th : Thread) : State :=
  if l.svc then s.setSlot l { th := some th, stall := some .asleep } else s.emptySlot l

/-- The instruction stalls until its thread's windows can close (R13, R21). -/
def closableM : M Unit := do
  let s ← getS
  if (s.closeAll s.cur).isSome then pure () else stallM .windowResult

/-- The current thread gives up its slot and joins a berth's wait list, its instruction complete (R13, R217). `after` is what the same
instruction still does to the berth. -/
def blockOn {α : Type} (b : Nat) (kind : WaitKind) (pc : Word) (after : State → Nat → State) : M α := do
  let s ← getS
  match s.closeAll s.cur with
  | none => stallM .windowResult
  | some t =>
    match t.thread with
    | none => goneM
    | some th => do
      let core := t.here
      let th1 := { th with pc := pc }
      let t1 := ((t.noteIssue t.cur).countInstr core).sleepSlot t.cur th1
      let t2 := t1.updCore core fun c => c.updBerth b fun x => { x with waiters := x.waiters ++ [{ th := th1, kind := kind, woken := none }] }
      setS (after t2 core)
      goneM

/-- The receive of R217 on a berth of the current core that is not a BARRIER: it is satisfied and takes its effect, or the thread blocks
with PC at `pc`. -/
def waitM (b c : Nat) (nr : Bool) (pc : Word) : M Unit := do
  let s ← getS
  let core := s.here
  let x := (s.core core).berth b
  require (x.kind != 3) cBERTH_RANGE (BitVec.ofNat 64 b)
  if c = 0 ∨ (c ≤ x.count ∧ x.waiters.isEmpty) then do
    modS fun s => s.updCore core fun k => k.updBerth b fun y => { y with count := if y.kind = 0 then y.count - c else y.count }
    modS fun s => if nr then s else s.updCore core Core.refreshed
  else blockOn b (.wait c nr) pc fun t _ => t

end Sys2Proof.Machine
end

