-- ==== Sys2Proof/Machine/Phases.lean ====
section
/-!
DEFINITION. Phase instructions and address monitors, majors 0x57 and 0x58 (R187 to R189).
-/

namespace Sys2Proof.Machine

/-- The scope of FL[3:2] (R181, R187). -/
def scopeOf (f : SF) : Nat := bits 3 2 f.fl.toNat

/-- PHASE: publish, then refresh; PHASECNT counts once (R187). -/
def execPhase (h : Hdr) (f : SF) (s : State) : Out :=
  issue (.phase h f) h 0x57 0 8 s fun _ => modS fun s => (((s.startPublish s.here (scopeOf f)).refresh s.here).countPhase s.here 1)

/-- PHASE.PUB (R187). -/
def execPhasePub (h : Hdr) (f : SF) (s : State) : Out :=
  issue (.phasePub h f) h 0x57 1 8 s fun _ => modS fun s => (s.startPublish s.here (scopeOf f)).countPhase s.here 1

/-- PHASE.REF (R187). -/
def execPhaseRef (h : Hdr) (f : SF) (s : State) : Out :=
  issue (.phaseRef h f) h 0x57 2 8 s fun _ => modS fun s => s.refreshB s.here

/-- The word that a monitor watches, as its home holds it (R188). -/
def State.watched (s : State) (m : Monitor) : Nat := ofBytes (s.homeRead m.home 8)

/-- A monitor armed in a quay's table; it fires at once where the word already differs from the expected value (R188). -/
def State.arm (s : State) (q : Nat) (m : Monitor) (v : Word) : State :=
  if s.watched m = v.toNat then s.updQuay q fun x => { x with monitors := x.monitors ++ [m] } else s.fire m q

/-- The address of WATCH and UNWATCH, checked (R188). -/
def watchAccess (f : SF) (th : Thread) : M Acc := do
  let s ← getS
  alignM th (.quayCore (quayOf s.here))
  aloneM
  let ea ← cleanUse (srcA f th)
  let a ← checked th .watch 8 8 ea
  boardCheck [a]
  pure a

/-- WATCH (R188, R189). -/
def execWatch (h : Hdr) (f : SF) (s : State) : Out :=
  issueLong (.watch h f) h 0x58 0 8 s fun th => do
    let a ← watchAccess f th
    let s ← getS
    let q := quayOf s.here
    if (s.quay q).monitors.length < Config.monitorCapacity then do
      let m : Monitor := { ea := a.ea.toNat % 2 ^ 56, home := (a.place.home?).getD 0, berth := f.imm.toNat % 2048,
                           rank := s.issuerRank th s.here, ctx := th.ctx, task := th.task }
      modS fun s => s.arm q m (src th f.b).v
      pure { latch := [.p f.d.toNat true] }
    else pure { latch := [.p f.d.toNat false] }

/-- The monitor that UNWATCH names: the task's on the address with the berth (R189). Address bits [59:56] are no part of the comparison: on a page without
tags, or in a quay window, another tag finds the same monitor (DESIGN CHOICE, log entry 65). -/
def Monitor.named (m : Monitor) (th : Thread) (ea berth : Nat) : Bool :=
  m.ctx == th.ctx && m.task == th.task && m.ea == ea && m.berth == berth

/-- Where a task's monitor is armed: the quay whose table has it, and its place there. A task that has migrated since finds the one that it left
behind (R189). -/
def State.armedAt (s : State) (th : Thread) (ea berth : Nat) : Option (Nat × Nat) :=
  s.quays.findSome? fun q => (firstIdx (fun (m : Monitor) => m.named th ea berth) q.2.monitors).map fun i => (q.1, i)

/-- UNWATCH (R188, R189). -/
def execUnwatch (h : Hdr) (f : SF) (s : State) : Out :=
  issueLong (.unwatch h f) h 0x58 1 8 s fun th => do
    let a ← watchAccess f th
    let s ← getS
    match s.armedAt th (a.ea.toNat % 2 ^ 56) (f.imm.toNat % 2048) with
    | some (q, i) => do
      modS fun s => s.updQuay q fun x => { x with monitors := dropNth i x.monitors }
      pure { latch := [.p f.d.toNat true] }
    | none => pure { latch := [.p f.d.toNat false] }

end Sys2Proof.Machine
end

