-- ==== Sys2Proof/Machine/Berths.lean ====
section
/-!
DEFINITION. Berth instructions: majors 0x62 to 0x66 (R211, R217, R218, R221 to R227).
-/

namespace Sys2Proof.Machine

/-- An operand of the issuing thread may not lie in another core's scratchpad or a lighter aperture (R204, R218, R373): ADDRESS at step 10. The window of
the core's own rank is its own scratchpad, a handler's quay core's as well (R166). -/
def localRegion (th : Thread) (ea : Word) : M Unit := do
  require (ea.toNat / 2 ^ 60 == 0) cADDRESS ea
  let s ← getS
  require (match regionOf th.svc (ea.toNat % 2 ^ 56) with
    | .bad => false
    | .lighter .. => false
    | .window r _ =>
      let e := (s.ctx th.ctx).rank r
      e.state != 0 && e.phys == s.here
    | .quayWin q _ => (quayNumber q).isSome
    | _ => true) cADDRESS ea

/-- A run of bytes that lies in the thread's own reach, checked piece by piece. -/
def localRun (th : Thread) (u : Use) (al n : Nat) (ea : Word) : M (List Acc) := do
  eachM (fun p => localRegion th p.1) (pieces ea n)
  checkedRun th u al n ea

/-- The payload of SEND and CPUT, checked and read (R218, R226): limits on the length, the source, the publish, the bytes; poison in them
kills the task (R405). -/
def payloadM (th : Thread) (ea : Word) (len : Word) (np : Bool) (scope : Nat) (al : M Unit) : M (List Byte) := do
  require (len.toNat ≤ 2048) cADDRESS len
  eachM (fun p => localRegion th p.1) (pieces ea len.toNat)
  require (len.toNat % 8 == 0) cALIGN len
  al
  let as ← checkedRun th .read 1 len.toNat ea
  boardCheck as
  modS fun s => if np then s else s.publishB s.here scope
  let bs ← readAccs true as
  if anyPois bs.flatten then killM else pure (bytesOf bs.flatten)

/-- The smallest scope that holds a rank, from the current core (R195). -/
def scopeToRank (th : Thread) (rank : Nat) : M Nat := do
  let s ← getS
  pure (scopeTo s.here ((s.ctx th.ctx).rank rank).phys)

/-- A packet of the current thread to a rank. -/
def sendM (th : Thread) (rank : Nat) (k : PKind) : M Unit := do
  let s ← getS
  setS (s.send s.here th.ctx (s.issuerRank th s.here) rank k)

/-- A rank operand (R200, R218): its value below 2^24, and not ABSENT. -/
def rankM (th : Thread) (w : PWord) : M Nat := do
  let v ← cleanUse w
  let s ← getS
  require (v.toNat < 2 ^ 24 && ((s.ctx th.ctx).rank v.toNat).state != 0) cADDRESS v
  pure v.toNat

/-- SEND (R218). -/
def execSendI (h : Hdr) (f : EF) (s : State) : Out :=
  issue (.sendI h f) h 0x62 0 12 s fun th => do
    let from_ ← cleanUse (src th f.b)
    let to_ ← cleanUse (src th f.f)
    let rank ← rankM th (srcImm th 0 f.a)
    let len := (src th f.c).v
    let scope ← scopeToRank th rank
    let bs ← payloadM th from_ len (bit 4 f.fl.toNat) scope (require (to_.toNat % 8 == 0) cALIGN to_)
    let b := f.imm.toNat % 2048
    if bs.isEmpty then sendM th rank (.inc b none)
    else do
      modS fun s => s.updLaunch th.launch fun x => { x with pendingPlace := x.pendingPlace + 1 }
      sendM th rank (.place b to_.toNat bs [] scope th.launch none)
    sinkM

/-- WAIT (R217). -/
def execWaitI (h : Hdr) (f : SF) (s : State) : Out :=
  issue (.waitI h f) h 0x63 0 8 s fun th => do
    let b ← berthM (srcImm th 0 f.a) (f.imm.toNat % 2048)
    waitM b (((src th f.b).v + f.fl.setWidth 64).toNat % 2 ^ 32) (bit 11 f.imm.toNat) (th.after 8)

/-- The BARRIER berth that ARRIVE and BAR name (R221). -/
def barrierM (th : Thread) (f : SF) : M Nat := do
  let b ← berthM (srcImm th 0 f.a) (f.imm.toNat % 2048)
  let s ← getS
  require (((s.core s.here).berth b).kind == 3) cBERTH_RANGE (BitVec.ofNat 64 b)
  pure b

/-- The publish of ARRIVE and BAR (R221). -/
def arrivePublish (f : SF) : M Unit := modS fun s => if bit 4 f.fl.toNat then s else s.publishB s.here (scopeOf f)

/-- Packets that have left a core: those on the network and those in its gate buffer (R416). -/
def State.sentBy (s : State) (core : Nat) : Nat := s.net.length + (s.core core).pair.gate.length

/-- An arrival of the current core's own at a berth; a packet that it sends restarts a sink's watchdog (R220, R300). -/
def State.arriveHere (s : State) (th : Thread) (core b : Nat) : State :=
  let t := s.incBerth core th.ctx b none
  if t.sentBy core = s.sentBy core then t else t.sinkRetires th

/-- ARRIVE (R221). -/
def execArrive (h : Hdr) (f : SF) (s : State) : Out :=
  issue (.arrive h f) h 0x64 0 8 s fun th => do
    let b ← barrierM th f
    arrivePublish f
    modS fun s => s.arriveHere th s.here b

/-- BAR (R221). -/
def execBar (h : Hdr) (f : SF) (s : State) : Out :=
  issue (.bar h f) h 0x64 1 8 s fun th => do
    let b ← barrierM th f
    closableM
    arrivePublish f
    let s ← getS
    blockOn b (.bar ((s.core s.here).berth b).gen (bit 5 f.fl.toNat)) (th.after 8) fun t core => t.arriveHere th core b

/-- The limits of a configuration word (R223). -/
def cfgOk (w : Word) : Bool :=
  let n := w.toNat
  let k := bits 63 62 n
  if k = 0 then bits 61 0 n == 0
  else if k = 1 then
    let lgn := bits 40 37 n
    decide (lgn ≤ 13) && bits 36 35 n == 0 && decide (16 * bits 61 48 n + 2 ^ lgn * (16 + 16 * (bits 47 41 n + 1)) ≤ 262144)
  else if k = 2 then bits 61 39 n == 0 && decide (bits 38 35 n ≤ 13)
  else
    bits 61 50 n == 0 && bits 37 36 n == 0 && decide (bits 43 38 n ≤ 32) && decide (1 ≤ bits 49 44 n + bits 43 38 n)
      && (!bit 35 n || bits 34 0 n == 0)

/-- A berth configured by a legal word (R222). -/
def berthOf (w : Word) : Berth :=
  let k := bits 63 62 w.toNat
  { kind := k, cfg := w, count := if k = 2 then 2 ^ bits 38 35 w.toNat else 0 }

/-- The berth that majors 0x65 names (R222). -/
def cfgBerth (th : Thread) (f : EF) : M Nat := berthM (srcImm th 0 f.a) (f.tail.toNat % 2048)

/-- The channel packets that wait for a free slot of a ring as its berth is configured anew (R226). -/
def State.doomWaiting (s : State) (core b : Nat) : State :=
  let x := (s.core core).berth b
  if x.kind = 1 ∧ x.ringFull then
    { s with net := s.net.map fun p => match p.kind with
        | .chan b' .. => if b' = b ∧ ((s.ctx p.ctx).rank p.rank).phys = core then { p with doomed := true } else p
        | _ => p }
  else s

/-- BCFG (R222, R223, R226). -/
def execBcfg (h : Hdr) (f : EF) (s : State) : Out :=
  issue (.bcfg h f) h 0x65 0 12 s fun th => do
    let b ← cfgBerth th f
    let w := (src th f.b).v
    let s ← getS
    require (((s.core s.here).berth b).waiters.isEmpty && cfgOk w) cBERTH_RANGE (BitVec.ofNat 64 b)
    modS fun s => (s.doomWaiting s.here b).updCore s.here fun c => c.updBerth b fun _ => berthOf w

/-- The status word of a berth (R224). -/
def Berth.status (x : Berth) : Word :=
  BitVec.ofNat 64 (x.kind * 2 ^ 62 + b2n x.ovf * 2 ^ 61 + b2n x.held * 2 ^ 60 + b2n x.pending * 2 ^ 59 + x.gen % 256 * 2 ^ 48
    + x.ridx % 2 ^ 14 * 2 ^ 32 + x.count % 2 ^ 32)

/-- BREAD (R222, R224). -/
def execBread (h : Hdr) (f : EF) (s : State) : Out :=
  issue (.bread h f) h 0x65 1 12 s fun th => do
    let b ← cfgBerth th f
    let s ← getS
    writeX f.d (clean ((s.core s.here).berth b).status)

/-- BCLR (R222). -/
def execBclr (h : Hdr) (f : EF) (s : State) : Out :=
  issue (.bclr h f) h 0x65 2 12 s fun th => do
    let b ← cfgBerth th f
    modS fun s => s.updCore s.here fun c => c.updBerth b fun x => { x with count := 0, ovf := false }

/-- The berth of a channel instruction, of the kind it needs (R226, R227). -/
def chanBerth (b kind : Nat) : M Berth := do
  let s ← getS
  let x := (s.core s.here).berth b
  require (x.kind == kind) cBERTH_RANGE (BitVec.ofNat 64 b)
  pure x

/-- CPUT (R226). R226 names no check of CRANK at issue: a packet to a rank that is ABSENT is sent, and dropped at its turn with its launch's error
(DESIGN CHOICE, log entry 65). -/
def execCput (h : Hdr) (f : EF) (s : State) : Out :=
  issue (.cput h f) h 0x66 0 12 s fun th => do
    let b := f.imm.toNat % 2048
    let from_ ← cleanUse (srcImm th 0 f.a)
    let x ← chanBerth b 2
    if x.count = 0 then writeP f.d.toNat false
    else do
      let rank := bits 23 0 x.cfg.toNat
      let scope ← scopeToRank th rank
      let len := (src th f.c).v
      let bs ← payloadM th from_ len (bit 4 f.fl.toNat) scope (pure ())
      modS fun s => s.updCore s.here fun c => c.updBerth b fun y => { y with count := y.count - 1 }
      writeP f.d.toNat true
      modS fun s => s.updLaunch th.launch fun x => { x with pendingPlace := x.pendingPlace + 1 }
      sendM th rank (.chan (bits 34 24 x.cfg.toNat) len.toNat bs [] scope th.launch)
      sinkM

/-- The slot that CGET took last is released: its allowance returns to the producer (R227). -/
def releaseSlot (th : Thread) (b : Nat) (x : Berth) : M Unit :=
  if x.held then do
    modS fun s => s.updCore s.here fun c => c.updBerth b fun y => { y with held := false, ridx := (y.ridx + 1) % 2 ^ 32 }
    sendM th (bits 23 0 x.cfg.toNat) (.inc (bits 34 24 x.cfg.toNat) none)
  else pure ()

/-- Own-scratchpad offset of slot `i` of a ring (R225). -/
def slotOffset (cfg : Word) (i : Nat) : Nat :=
  16 * bits 61 48 cfg.toNat + i % 2 ^ bits 40 37 cfg.toNat * (16 + 16 * (bits 47 41 cfg.toNat + 1))

/-- CGET (R227). -/
def execCget (h : Hdr) (f : EF) (s : State) : Out :=
  issue (.cget h f) h 0x66 1 12 s fun th => do
    let b := f.imm.toNat % 2048
    let x ← chanBerth b 1
    releaseSlot th b x
    let y ← chanBerth b 1
    if y.count = 0 then writeP f.d.toNat false
    else do
      modS fun s => s.updCore s.here fun c => c.updBerth b fun z => { z with count := z.count - 1, held := true }
      writeP f.d.toNat true
      writeX f.f (clean (BitVec.ofNat 64 (0x00FFFFFFFFFC0000 + slotOffset y.cfg y.ridx)))

/-- CGET.REL (R227). -/
def execCgetRel (h : Hdr) (f : EF) (s : State) : Out :=
  issue (.cgetRel h f) h 0x66 1 12 s fun th => do
    let b := f.imm.toNat % 2048
    let x ← chanBerth b 1
    releaseSlot th b x

end Sys2Proof.Machine
end

