-- ==== Sys2Proof/Machine/Branch.lean ====
section
/-!
DEFINITION. Control transfer: majors 0x08 to 0x0A (R94 to R97).
-/

namespace Sys2Proof.Machine

/-- A PC-relative target: the instruction's own address plus the sign-extended immediate times 4 (R47). -/
def relTarget (th : Thread) (w imm : Nat) : Word := th.pc + (sext64 w imm <<< 2)

/-- The target of JR, CALLR or RET with its checks in order (R97). -/
def checkedTarget (t : PWord) : M Word := do
  let a ← cleanUse t
  require (a.toNat / 2 ^ 56 == 0) cADDRESS a
  require (a.toNat % 4 == 0) cALIGN a
  pure a

/-- The target of JR and CALLR: src(A) plus IMM16 (R96). -/
def jrTarget (f : SF) (th : Thread) : PWord :=
  let a := srcA f th
  { v := a.v + sext64 16 f.imm.toNat, p := a.p }

/-- The link register written (R95, R96). -/
def writeLink (v : Word) : M Unit := writeX 9 (clean v)

/-- B (R94). -/
def execB (h : Hdr) (f : SF) (s : State) : Out :=
  issueJ (.b h f) h 0x08 0 8 s fun th => pure (relTarget th 16 f.imm.toNat)

/-- J (R95). -/
def execJ (h : Hdr) (f : SLF) (s : State) : Out :=
  issueJ (.j h f) h 0x09 0 12 s fun th => pure (relTarget th 48 f.imm.toNat)

/-- CALL (R95). -/
def execCall (h : Hdr) (f : SLF) (s : State) : Out :=
  issueJ (.call h f) h 0x09 1 12 s fun th => do
    writeLink (th.after 12)
    pure (relTarget th 48 f.imm.toNat)

/-- JR (R96). -/
def execJr (h : Hdr) (f : SF) (s : State) : Out :=
  issueJ (.jr h f) h 0x0A 0 8 s fun th => checkedTarget (jrTarget f th)

/-- CALLR: the target is formed before X9 is written (R96). -/
def execCallr (h : Hdr) (f : SF) (s : State) : Out :=
  issueJ (.callr h f) h 0x0A 1 8 s fun th => do
    let a ← checkedTarget (jrTarget f th)
    writeLink (th.after 8)
    pure a

/-- RET (R96). -/
def execRet (h : Hdr) (f : SF) (s : State) : Out :=
  issueJ (.ret h f) h 0x0A 2 8 s fun th => checkedTarget (th.xreg 9)

end Sys2Proof.Machine
end

