-- ==== Sys2Proof/Machine/Fetch.lean ====
section
/-!
DEFINITION. Instruction fetch: the instruction buffer, the checks of the fetched address and the fetch frame (R31 to R35, R49 steps 1 to 4,
R102).
-/

namespace Sys2Proof.Machine

/-- A 32-byte fetch frame as a load of the core would read it (R102). -/
def State.frameBytes (s : State) (core home : Nat) : List Byte :=
  let l := (s.viewLine core (home / 64 * 64)).1
  (upFrom (home % 64 / 32 * 32) 32).map fun i => l.extractLsb' (8 * i) 8

/-- A corrupted frame of the instruction buffer that a fetch meets is fetched again (R408 class 7, R410). -/
def State.showFrame (s : State) (core ctx f : Nat) : State :=
  match s.takeLatent 7 core f with
  | none => s
  | some (_, t) => (t.updCore core fun c => { c with ibuf := Tab.del f c.ibuf }).logErr (dieOf core) 7 0 ctx core (BitVec.ofNat 64 f)

/-- The parcel at a home address through the core's instruction buffer, which is filled on a miss and holds 1,024 frames (R102). A fetch refills a
frame that the buffer does not hold, with what a load by the thread would read then: which bytes a refill brings before an IFLUSH is open (DESIGN
CHOICE, log entry 20). `ea` is the address fetched. -/
def State.bufParcel (s : State) (core ctx home ea : Nat) : Nat × State :=
  let f := home / 32
  let take := fun (bs : List Byte) => ofBytes ((bs.drop (home % 32)).take 4)
  let s := s.showFrame core ctx f
  match Tab.find f (s.core core).ibuf with
  | some bs => (take bs, s)
  | none =>
    let s := (s.showLines core true [home / 64 * 64]).readUnits ctx core (32 * f) 32 (ea / 32 * 32)
    let bs := s.frameBytes core home
    (take bs, (s.updCore core fun c =>
      { c with ibuf := Tab.set f bs (if 1024 ≤ c.ibuf.length then c.ibuf.drop 1 else c.ibuf) }).refill core 7 core f)

/-- One parcel fetched (R35): the address must be paged, present and executable. -/
def fetchParcel (th : Thread) (a : Word) : M Nat := do
  match (if a.toNat / 2 ^ 56 = 0 then regionOf th.svc a.toNat else .bad) with
  | .paged va =>
    let o ← translate th.ctx va false
    let p ← orTrap o cPAGE_NOT_PRESENT a
    let s ← getS
    require (p.exec && p.cls != .reserved && s.keyOk p.key) cPAGE_PROTECTION a
    let r := s.bufParcel s.here th.ctx (leafHome p va) va
    setS r.2
    pure r.1
  | _ => trapM cADDRESS a

/-- The parcels after the first, little-endian upward. -/
def fetchRest (th : Thread) (a : Word) : Nat → M Nat
  | 0 => pure 0
  | n + 1 => do
    let p ← fetchParcel th a
    let t ← fetchRest th (a + 4) n
    pure (p + 2 ^ 32 * t)

/-- The instruction lies within one fetch frame (R33). -/
def inFrame (a : Word) (len : Nat) : Bool := a.toNat / 32 == (a.toNat + len - 1) / 32

/-- The bits of the instruction at the thread's PC, with the checks of steps 1 to 3 of R49. -/
def fetchBits (th : Thread) : M Nat := do
  let p ← fetchParcel th th.pc
  let n := lenParcels (p % 4)
  let t ← fetchRest th (th.pc + 4) (n - 1)
  require (n != 1 || p == 0xFFFFFFFF) cILLEGAL (BitVec.ofNat 64 p)
  require (inFrame th.pc (4 * n)) cFETCH_FRAME (BitVec.ofNat 64 p)
  pure (p + 2 ^ 32 * t)

/-- The decoded instruction at the thread's PC (R49 steps 1 to 4). -/
def fetchInstr (th : Thread) : M Instr := do
  let w ← fetchBits th
  match decodeBits w with
  | .ok i => pure i
  | .error _ => trapM cILLEGAL (BitVec.ofNat 64 w)

end Sys2Proof.Machine
end

