-- ==== Sys2Proof/Machine/GangOps.lean ====
section
/-!
DEFINITION. The slice's arithmetic, the join state of a gang, and the row-by-row run of an MMA on one or more slices
(R140 to R162, R71 to R76).
-/

namespace Sys2Proof.Machine

/-- The ARRAY_STATE codes of R162. -/
def asNO_ACCESS : Nat := 0x01
def asNOT_LOADED : Nat := 0x02
def asFORMAT_MISMATCH : Nat := 0x03
def asDEPTH : Nat := 0x04
def asJOIN_MISMATCH : Nat := 0x05
def asJOIN_STATE : Nat := 0x06
def asNOT_JOINED : Nat := 0x07
def asIN_FLIGHT : Nat := 0x08
def asMMA_MISMATCH : Nat := 0x09
def asDISSOLVED : Nat := 0x0A
def asGANG_FAULT : Nat := 0x0B
def asPAIR_MASK : Nat := 0x0C

/-- EVAL of ARRAY_STATE (R162). -/
def asEval (code fm : Nat) : Word := BitVec.ofNat 64 (code + fm * 256)

/-- A condition of step 9 for an array instruction. -/
def arrayReq (b : Bool) (code : Nat) : M Unit := require b cARRAY_STATE (asEval code 0)

/-- The core is joined (R155). -/
def State.isJoined (s : State) (core : Nat) : Bool := bit (core % 8) (s.gang (gangOf core)).joined

/-- The state with a core's array state changed. -/
def State.updArr (s : State) (core : Nat) (f : ArrayState → ArrayState) : State :=
  s.updCore core fun c => { c with arr := f c.arr }

/-- ROWPROG of a core: its gang's when it is joined (R153). -/
def State.rowprog (s : State) (core : Nat) : BitVec 32 :=
  if s.isJoined core then (s.gang (gangOf core)).rowprog else (s.core core).arr.rowprog

/-- The restart record that goes with ROWPROG (R151). -/
def State.restartOf (s : State) (core : Nat) : List Restart :=
  if s.isJoined core then (s.gang (gangOf core)).restart else (s.core core).arr.restart

/-- ROWPROG and its restart record written: the gang's where the core is joined. The core's own pair of them is not touched then (DESIGN CHOICE, log
entry 65: the rules do not say what becomes of it). -/
def State.setRowprog (s : State) (core : Nat) (w : BitVec 32) (r : List Restart) : State :=
  if s.isJoined core then s.updGang (gangOf core) fun g => { g with rowprog := w, restart := r }
  else s.updArr core fun a => { a with rowprog := w, restart := r }

/-- A later array instruction of the core has issued: its latest MMA can be cut no more (R154). -/
def State.forgetMma (s : State) (core : Nat) : State := s.updArr core fun a => { a with last := none }

/-- ROWPROG := 0 (R152). -/
def State.clearRowprog (s : State) (core : Nat) : State := s.setRowprog core 0 []

/-- A trap that also changes state named by its rule. -/
def trapWith {α : Type} (f : State → State) (cause : Nat) (eval : Word) : M α := do
  modS fun s => (f s).trapEnter s.cur cause eval
  goneM

/-- An action done as another place's thread would do it. -/
def asPlace {α : Type} (l : Loc) (m : M α) : M α := fun s =>
  match m { s with cur := l } with
  | .ok (a, t) => .ok (a, { t with cur := s.cur })
  | .error (.stall w t) => .error (.stall w { t with cur := s.cur })
  | .error (.gone t) => .error (.gone { t with cur := s.cur })
  | .error x => .error x

/-- Columns of a slice by its latched format (R142). -/
def colsOf (wf : Nat) : Nat := if wf = 0 then 8 else 64

/-- Bytes of a weight row (R142). -/
def weightBytes (wf : Nat) : Nat := packedBytes wf (colsOf wf)

/-- The poison of the elements of a packed row: bit n for element n. -/
def elemPois (fmt n : Nat) (ps : List Bool) : BitVec 64 :=
  BitVec.ofNat 64 ((upFrom 0 n).foldr (fun i a =>
    let lo := fmtWidth fmt * i / 8
    let hi := (fmtWidth fmt * i + fmtWidth fmt - 1) / 8
    2 * a + b2n ((upFrom lo (hi - lo + 1)).any fun j => ps.getD j false)) 0)

/-- Operand classes of R147. -/
inductive MClass where
  | dbl | half | narrow | int8 | tern
  deriving DecidableEq, Repr

/-- The class of an FMT code. -/
def classOf (fmt : Nat) : MClass :=
  if fmt = 0 then .dbl else if fmt ≤ 3 then .half else if fmt ≤ 8 then .narrow else if fmt = 9 then .int8 else .tern

/-- The pairings of R147. -/
def pairsWith (wf fmt : Nat) : Bool :=
  classOf wf == classOf fmt || (classOf wf == .tern && classOf fmt == .int8)

/-- The code of weight k of column n. -/
def ArrayState.weight (a : ArrayState) (k n : Nat) : Nat := packedElem a.wf (a.wrow.getD k 0) n

/-- The scale of block b of column n. -/
def ArrayState.wscaleOf (a : ArrayState) (b n : Nat) : Nat := (a.wscale.getD b 0 / 256 ^ n) % 256

/-- The sum of row elements and column `n` into an accumulator value by the rule of R147, with ACCSTAT.OVF. -/
def ArrayState.sumInto (a : ArrayState) (fmt k : Nat) (r : StreamRow) (n acc : Nat) : Nat × Bool :=
  let sa := fun b => (r.scales / 256 ^ b) % 256
  let sc := fun b => if a.wsc then some (sa b, a.wscaleOf b n) else none
  match classOf a.wf with
  | .dbl =>
    ((upFrom 0 k).foldl (fun x i =>
      f64.round rne false (FV.fma false (f64.decode (packedElem 0 r.data i)) (f64.decode (a.weight i n)) (f64.decode x))) acc, false)
  | .half => groups 8 28 sc acc
  | .narrow => groups 16 18 sc acc
  | _ =>
    let dot := fun lo m => (upFrom lo m).foldl (fun (t : Int) i =>
      t + toSigned 8 (packedElem 9 r.data i) *
        (if a.wf = 9 then toSigned 8 (a.weight i n) else (ternVal (a.weight i n)).1)) 0
    if a.wsc then
      (upFrom 0 (k / 32)).foldl (fun (x : Nat × Bool) b =>
        let s := sa b
        let w := a.wscaleOf b n
        if s = 0xFF ∨ w = 0xFF then (f32.nanCode, x.2)
        else
          let y := accumulate x.1 ((intFV (dot (32 * b) 32)).scale ((s : Int) + (w : Int) - 254 - (if a.wf = 9 then 12 else 6)))
          (y.1, x.2 || y.2)) (acc, false)
    else (ofSigned 32 (toSigned 32 acc + dot 0 k), false)
where
  groups (g q : Nat) (sc : Nat → Option (Nat × Nat)) (acc : Nat) : Nat × Bool :=
    (upFrom 0 ((k + g - 1) / g)).foldl (fun (x : Nat × Bool) j =>
      let ps := (upFrom (g * j) (min g (k - g * j))).map fun i =>
        FV.mul (elemVal fmt (packedElem fmt r.data i)) (elemVal a.wf (a.weight i n))
      let y := groupStep q ps (sc (g * j / 32)) x.1
      (y.1, x.2 || y.2)) (acc, false)

/-- The key of an accumulator row in a bank (R161). -/
def accKey (bank row : Nat) : Nat := 256 * bank + row % 256

/-- The physical bank that is visible. -/
def ArrayState.visible (a : ArrayState) : Nat := 1 - a.role

/-- The lanes of output column `n`: one lane, or a pair for F64 (R147). -/
def colLanes (wf n : Nat) : Nat × Nat := if wf = 0 then (2 * n, 2) else (n, 1)

/-- One row of an MMA computed into the working bank (R148), with ACCSTAT's bits. -/
def ArrayState.row (a : ArrayState) (f : MF) (accum : Bool) (r : Nat) (x : StreamRow) : ArrayState × BitVec 32 :=
  let key := accKey a.role (f.rowb.toNat + r)
  let old := Tab.get 0 key a.acc
  let oldp := Tab.get 0 key a.accp
  let k := f.imm.toNat
  let cols := (upFrom 0 (colsOf a.wf)).map fun n =>
    let l := colLanes a.wf n
    let y := a.sumInto f.fmt.toNat k x n (if accum then (old.extractLsb' (32 * l.1) (32 * l.2)).toNat else 0)
    let p := x.pois || (accum && (upFrom l.1 l.2).any oldp.getLsbD) || (a.wpois.take k).any (·.getLsbD n)
      || (a.wsc && (a.wspois.take (k / 32)).any (·.getLsbD n))
    (({ lo := 32 * l.1, w := 32 * l.2, v := y.1, p := p } : Put), y.2)
  let ps := cols.map Prod.fst
  let m := putMask ps
  let tern := a.wf == 10 && (upFrom 0 k).any fun i => (upFrom 0 64).any fun n => a.weight i n == 2
  ({ a with
      acc := Tab.set key ((old &&& ~~~m) ||| putBits ps) a.acc
      accp := Tab.set key ((oldp &&& ~~~fullLanes m) ||| putPois ps) a.accp },
   (if cols.any Prod.snd then 1#32 else 0) ||| (if tern then 2#32 else 0))

/-- Rows of one core computed in order. -/
def State.runRows (s : State) (core : Nat) (f : MF) (accum : Bool) (rs : List (Nat × StreamRow)) : State :=
  rs.foldl (fun t r =>
    (t.updCore core fun c =>
      let y := c.arr.row f accum r.1 r.2
      { c with arr := y.1, accstat := c.accstat ||| y.2, accNew := c.accNew ||| y.2 }).refill core 3 core (64 * accKey (t.core core).arr.role (f.rowb.toNat + r.1))) s

/-- A member of an MMA: its index, its place, its thread and its instruction. -/
structure Member where
  idx : Nat
  loc : Loc
  th : Thread
  accum : Bool
  hdr : Hdr
  f : MF

/-- The register values of XA, XS and XQ (R144). -/
def Member.xa (m : Member) : Word := (src m.th m.f.xa).v
def Member.xs (m : Member) : Word := (src m.th m.f.xs).v
def Member.xq (m : Member) : Word := if m.f.sc = 1 then (src m.th m.f.xq).v else 0

/-- The member's entry of the restart record (R151). -/
def Member.record (m : Member) : Restart :=
  { member := m.idx, word := (encode (if m.accum then .mmaAcc m.hdr m.f else .mma m.hdr m.f)).getD 0, xa := m.xa, xs := m.xs, xq := m.xq }

/-- The address of a member's activation row: the tag bits of XA apply to every row (R149). -/
def Member.rowEa (m : Member) (r : Nat) : Word := setBits 59 56 (bits 59 56 m.xa.toNat) (m.xa + BitVec.ofNat 64 r * m.xs)

/-- The accesses of row `r` of a member, stream before scale (R149, R151). -/
def Member.rowAccs (m : Member) (r : Nat) : M (List Acc × List Acc) := do
  let k := m.f.imm.toNat
  let a ← checkedRun m.th .read 32 (packedBytes m.f.fmt.toNat k) (m.rowEa r)
  let b ← if m.f.sc = 1 then checkedRun m.th .read 1 (k / 32) (m.xq + BitVec.ofNat 64 (r * (k / 32))) else pure []
  pure (a, b)

/-- Row `r` checked for every member in order: the accesses, or the member that faults with its cause and EVAL. -/
def checkRow (r : Nat) : List Member → M (Except (Nat × Nat × Word) (List (List Acc × List Acc)))
  | [] => pure (.ok [])
  | m :: t => do
    match ← asPlace m.loc (tryM (m.rowAccs r)) with
    | .error (c, e) => pure (.error (m.idx, c, e))
    | .ok a =>
      match ← checkRow r t with
      | .error x => pure (.error x)
      | .ok as => pure (.ok (a :: as))

/-- Rows from `r` on checked, `n` of them: the rows that passed and the fault that ended them. -/
def checkRows (ms : List Member) : Nat → Nat → M (List (Nat × List (List Acc × List Acc)) × Option (Nat × Nat × Nat × Word))
  | 0, _ => pure ([], none)
  | n + 1, r => do
    match ← checkRow r ms with
    | .error (i, c, e) => pure ([], some (r, i, c, e))
    | .ok as => do
      let (rs, x) ← checkRows ms n (r + 1)
      pure ((r, as) :: rs, x)

/-- The streamed bytes of a row. -/
def State.streamRow (s : State) (p : List Acc × List Acc) : StreamRow :=
  let d := p.1.flatMap (s.accBytes false)
  let q := p.2.flatMap (s.accBytes false)
  { data := numOf d, scales := numOf q, pois := anyPois d || anyPois q }

/-- ROWPROG of an interrupted MMA (R153). -/
def rowprogWord (done member : Nat) : BitVec 32 := BitVec.ofNat 32 (done + 2 ^ 9 + member * 2 ^ 16)

/-- What the stream reads of a row show of errors at their home, for the member at the current place (R149, R410). -/
def State.noteRow (s : State) (m : Member) (p : List Acc × List Acc) : State := (p.1 ++ p.2).foldl (fun t a => t.noteAcc m.th.ctx false a) s

/-- The rows of an MMA computed on one member's slice, which keeps what they were (R148, R154). -/
def State.runMember (s : State) (m : Member) (start : Nat) (rows : List (Nat × List Acc × List Acc)) : State :=
  let u := { s with cur := m.loc }
  let t := rows.foldl (fun t r => t.noteRow m r.2) (u.showLines u.here false (rows.flatMap fun r => (r.2.1 ++ r.2.2).flatMap Acc.queued))
  let a := (t.core t.here).arr
  let old := rows.map fun r => (r.1, Tab.get 0 (accKey a.role (m.f.rowb.toNat + r.1)) a.acc, Tab.get 0 (accKey a.role (m.f.rowb.toNat + r.1)) a.accp)
  let xs := rows.map fun r => (r.1, t.streamRow r.2)
  let run : MmaRun :=
    { member := m.idx, accum := m.accum, hdr := m.hdr, f := m.f, th := m.th, cycle := s.cycle, start := start, old := old, rows := xs }
  let v := t.runRows t.here m.f m.accum xs
  { v.updArr v.here (fun a => { a with last := some run }) with cur := s.cur }

/-- The rows of an MMA on its members (R148, R151, R152): the fault that ended it, if any, with ROWPROG and the banks as it leaves them. -/
def runMma (core : Nat) (ms : List Member) : M (Option (Nat × Nat × Nat × Word)) := do
  let s ← getS
  let n := (ms.head?.map fun m => m.f.rown.toNat + 1).getD 0
  let recs := ms.map Member.record
  let resumed := (s.rowprog core).getLsbD 9 && s.restartOf core == recs
  let start := if resumed then (s.rowprog core).toNat % 512 else 0
  let (rs, fault) ← checkRows ms (n - start) start
  let mine := fun i => rs.map fun r => (r.1, r.2.getD i ([], []))
  eachM (fun (p : Member × Nat) => asPlace p.1.loc (do
    let as := (mine p.2).flatMap fun r => r.2.1 ++ r.2.2
    remoteM p.1.th as
    boardCheck as)) (ms.zip (upFrom 0 ms.length))
  modS fun s => (ms.zip (upFrom 0 ms.length)).foldl (fun t p => t.runMember p.1 start (mine p.2)) s
  modS fun s => match fault with
    | none => s.clearRowprog core
    | some (r, i, _, _) => (ms.foldl (fun t m => t.forgetMma (locCore m.loc)) s).setRowprog core (rowprogWord r i) recs
  pure fault

/-! An MMA cut at a row (R154) -/

/-- The member of a core's latest MMA, as it issued. -/
def MmaRun.asMember (m : MmaRun) (core : Nat) : Member :=
  { idx := m.member, loc := { svc := false, unit := core, slot := 0 }, th := m.th, accum := m.accum, hdr := m.hdr, f := m.f }

/-- The cores whose slices an MMA of a core runs on (R151, R156, R158). -/
def State.arrayCores (s : State) (core : Nat) : List Nat :=
  let g := s.gang (gangOf core)
  if s.isJoined core then ((upFrom 0 8).filter fun m => bit m g.joined && (!g.paired || m % 2 == 0)).map (8 * gangOf core + ·) else [core]

/-- The slots of a core and of the service pipeline that it serves. -/
def State.slotsOf (s : State) (core : Nat) : List Slot :=
  (s.core core).slots ++ if core = quayCore (quayOf core) then (s.quay (quayOf core)).svc.map (·.slot) else []

/-- The latest array instruction of a core, if it is an MMA whose window is open (R154). -/
def State.openMma (s : State) (core : Nat) : Option MmaRun :=
  match (s.core core).arr.last with
  | none => none
  | some m =>
    let mine := fun (x : Slot) => x.th.any (fun t => t.ctx == m.th.ctx && t.task == m.th.task)
      && x.wins.any fun w => w.major == 0x42 && w.tag == m.cycle
    if (s.slotsOf core).any mine then some m else none

/-- The row at which a stop cuts the MMA that runs on a core: every member's window is open, none has issued a later array instruction, and a
row remains (R154). -/
def State.cutAt (s : State) (core : Nat) : Option Nat :=
  match s.openMma core with
  | none => none
  | some m =>
    let n := m.f.rown.toNat + 1
    let d := m.start + Config.cutRow (gangOf core) m.cycle % (n - m.start + 1)
    if d < n ∧ (s.arrayCores core).all fun c => (s.openMma c).any fun x => x.cycle == m.cycle then some d else none

/-- The rows of the latest MMA from `d` on as they were before it. -/
def ArrayState.undoRows (a : ArrayState) (d : Nat) : ArrayState :=
  match a.last with
  | none => a
  | some m => (m.old.filter fun r => decide (d ≤ r.1)).foldl (fun b r =>
      let k := accKey b.role (m.f.rowb.toNat + r.1)
      { b with acc := Tab.set k r.2.1 b.acc, accp := Tab.set k r.2.2 b.accp }) a

/-- The MMA that runs on a core cut at a row: rows from it on are owed, and ROWPROG says so with CONT = 1 (R153, R154). -/
def State.cutMma (s : State) (core : Nat) : State :=
  if (s.rowprog core).getLsbD 10 then s
  else match s.cutAt core with
    | none => s
    | some d =>
      let cs := s.arrayCores core
      let recs := cs.filterMap fun c => (s.openMma c).map fun m => (m.asMember c).record
      (cs.foldl (fun t c => t.updArr c fun a => a.undoRows d) s).setRowprog core (BitVec.ofNat 32 (d + 2 ^ 10)) recs

/-- The array completes the rows that a cut MMA owes, on every member, from what the MMA streams for them, and ROWPROG := 0 (R149, R154). -/
def State.completeRows (s : State) (core : Nat) : State :=
  if (s.rowprog core).getLsbD 10 then
    let done := (s.rowprog core).toNat % 512
    let run := fun (t : State) (c : Nat) => match (t.core c).arr.last with
      | none => t
      | some m => (t.runRows c m.f m.accum (m.rows.filter fun r => decide (done ≤ r.1))).forgetMma c
    ((s.arrayCores core).foldl run s).clearRowprog core
  else s

/-- An array instruction begins: alone in its pair interval, after the rows that a cut MMA owes (R154, R158). -/
def arrayM : M Unit := do
  aloneM
  modS fun s => s.completeRows s.here

/-- A waiting member's place. -/
def MmaReq.loc (g : Nat) (q : MmaReq) : Loc := { svc := false, unit := 8 * g + q.member, slot := q.slot }

/-- The member that a request stands for, if its thread is still there. -/
def State.memberOf (s : State) (g : Nat) (q : MmaReq) : Option Member :=
  (s.slot (q.loc g)).th.map fun th => { idx := q.member, loc := q.loc g, th := th, accum := q.accum, hdr := q.hdr, f := q.f }

/-- Members of a gang trap, in member order (R156, R157): all but `now`, if any, have issued before. -/
def State.trapMembers (s : State) (g : Nat) (now : Option Nat) (ms : List MmaReq) (f : MmaReq → Nat × Word) : State :=
  ms.foldl (fun t q => t.trapAs (now == some q.member) (q.loc g) (f q).1 (f q).2) s

/-- Members that wait at the comparison of their gang issue anew, where all have issued and the last of them could not go on (R156). -/
def State.wakeGang (s : State) (g : Nat) : State :=
  (s.gang g).mma.foldl (fun t q =>
    let x := t.slot (q.loc g)
    if x.stall = some .gangMma then t.setSlot (q.loc g) { x with stall := none } else t) s

/-- A core leaves its gang (R157): the gang dissolves, members that wait at the comparison trap DISSOLVED, and the last to leave frees it. A
paired core leaves with its partner (R158). -/
def State.leaveGang (s : State) (core : Nat) : State :=
  let g := gangOf core
  let x := s.gang g
  let mine := if x.paired then [core % 8 / 2 * 2, core % 8 / 2 * 2 + 1] else [core % 8]
  let left := mine.foldl (fun j m => if bit m j then j - 2 ^ m else j) x.joined
  let waiting := x.mma.filter fun q => !mine.contains q.member
  let s1 := s.updGang g fun y =>
    if left = 0 then { paired := y.paired }
    else { y with joined := left, dissolving := true, mma := [], rowprog := if waiting.isEmpty then y.rowprog else 0,
                  restart := if waiting.isEmpty then y.restart else [] }
  s1.trapMembers g none waiting fun _ => (cARRAY_STATE, asEval asDISSOLVED 0)

end Sys2Proof.Machine
end

