-- ==== Sys2Proof/Machine/Sys.lean ====
section
/-!
DEFINITION. Control registers, traps on purpose, the instruction buffer, return from traps: majors 0x78 to 0x7B (R24, R28 to R30,
R98 to R106), and the checkpoint of a pair (R414).
-/

namespace Sys2Proof.Machine

/-- STATUS as a CRR sees it: WOPEN is the number of open windows; the SV fields read zero at level T (R27). -/
def statusWord (x : Slot) (th : Thread) : Word :=
  let w := setBits 3 2 x.wins.length th.status
  if 2 ≤ th.priv then w else setBits 13 12 0 (setBits 9 8 0 w)

/-- PAIRSTAT (R418): both cores of a pair read the even core's counts. -/
def State.pairstat (s : State) (core : Nat) : Word :=
  let p := (s.core (core / 2 * 2)).pair
  BitVec.ofNat 64 (p.agreed % 2 ^ 16 * 2 ^ 16 + min 255 p.disagreed * 2 ^ 8 + p.run)

/-- The log entry that a die's ERRSEL selects (R409). -/
def Die.selected (d : Die) : Option LogEntry :=
  (Tab.get {} (bits 15 8 d.errsel.toNat) d.logs).entries[bits 3 0 d.errsel.toNat]?

/-- ERRINFO of a die (R409). -/
def Die.errinfo (d : Die) : Word :=
  let a := bits 15 8 d.errsel.toNat
  let o := (Tab.get {} a d.logs).overflow
  BitVec.ofNat 64 (match d.selected with
    | some e => 2 ^ 63 + e.cls * 2 ^ 60 + e.ctx % 4096 * 2 ^ 44 + e.place % 4096 * 2 ^ 32 + e.syndrome % 65536 * 2 ^ 16 + o * 256 + a
    | none => o * 256 + a)

/-- ERRADDR of a die (R409). -/
def Die.erraddr (d : Die) : Word := match d.selected with
  | some e => e.addr
  | none => 0

/-- A write of ERRSEL (R409): CLR empties the selected log. -/
def Die.writeErrsel (d : Die) (v : Word) : Die :=
  let a := bits 15 8 v.toNat
  { d with
    errsel := v &&& 0xFF0F#64
    logs := if v.getLsbD 4 then Tab.set a {} d.logs else d.logs }

/-- The cycles a core has run: those of the package less those it was gated (R29, R432). -/
def State.cycleOf (s : State) (core : Nat) : Nat :=
  let c := s.core core
  s.cycle - c.gatedCycles - (if c.gated then s.cycle - c.gateFrom else 0)

/-- The value that CRR reads from an assigned control register, or none for an unassigned number (R29). -/
def State.readCr (s : State) (th : Thread) (n : Nat) : Option Word :=
  let core := s.here
  let c := s.core core
  match n with
  | 0x000 => some th.taskid
  | 0x001 => some (BitVec.ofNat 64 (if th.svc then (s.ctx th.ctx).rankAt core else th.rank))
  | 0x002 => some (BitVec.ofNat 64 (s.cycleOf core))
  | 0x003 => some (BitVec.ofNat 64 c.instret)
  | 0x004 => some (statusWord s.curSlot th)
  | 0x005 => some (BitVec.ofNat 64 (th.vq + th.vbase * 256))
  | 0x006 => some (BitVec.ofNat 64 th.ctx)
  | 0x007 => some (th.seq.setWidth 64)
  | 0x008 => some (BitVec.ofNat 64 c.phasecnt)
  | 0x009 => some (BitVec.ofNat 64 c.implcnt)
  | 0x00A => some ((s.rowprog core).setWidth 64)
  | 0x00B => some (BitVec.ofNat 64 (s.ctx th.ctx).snapgen)
  | 0x00C => some (BitVec.ofNat 64 (s.ctx th.ctx).rollcnt)
  | 0x00D => some (s.pairstat core)
  | 0x100 => some (c.accstat.setWidth 64)
  | 0x101 => some th.rngkey
  | 0x800 => some (BitVec.ofNat 64 core)
  | 0x801 => some (if th.svc then BitVec.ofNat 64 th.cause else 0)
  | 0x802 => some (if th.svc then th.epc else 0)
  | 0x803 => some (if th.svc then th.eval else 0)
  | 0x810 => some (s.die (dieOf core)).errsel
  | 0x811 => some (s.die (dieOf core)).errinfo
  | 0x812 => some (s.die (dieOf core)).erraddr
  | 0x813 => some c.errinj
  | _ => none

/-- The fields of STATUS that a write at level S reaches: PPRIV and PAIRST (R27). The code 11 of PPRIV, which is never produced (R22), is not stored
(DESIGN CHOICE, log entry 49). -/
def writeStatus (th : Thread) (v : Word) : Thread :=
  let t := { th with status := setBits 9 8 (bits 9 8 v.toNat) th.status }
  if bits 13 12 v.toNat = 3 then t else t.setPpriv (bits 13 12 v.toNat)

/-- ERRINJ as written: its fields only, and an array class that arms nothing stores KIND 0 (R410). -/
def errinjOf (v : Word) : Word :=
  if 9 < bits 15 8 v.toNat then v &&& 0xFF00#64 else v &&& 0xFF03#64

/-- The effect of a CRW on an assigned register, field by field (R28, R98, R99); `sup` is level S. -/
def State.writeCr (s : State) (sup : Bool) (th : Thread) (n : Nat) (v : Word) : State :=
  let core := s.here
  match n with
  | 0x004 => if sup then s.updThread fun t => writeStatus t v else s
  | 0x100 => s.updCore core fun c => { c with accstat := (c.accstat &&& ~~~(v.setWidth 32)) ||| c.accNew }
  | 0x101 => s.updThread fun t => { t with rngkey := v }
  | 0x801 => if th.svc then s.updThread fun t => { t with cause := v.toNat % 256 } else s
  | 0x802 => if th.svc then s.updThread fun t => { t with epc := v &&& ~~~3#64 } else s
  | 0x803 => if th.svc then s.updThread fun t => { t with eval := v } else s
  | 0x810 => s.updDie (dieOf core) fun d => d.writeErrsel v
  | 0x813 => s.updCore core fun c => { c with errinj := errinjOf v }
  | _ => s

/-- The range checks of R28 for a control-register number; `w` is a CRW. -/
def crCheck (i : Instr) (th : Thread) (n : Nat) (w : Bool) : M Unit := do
  let sup := decide (2 ≤ th.priv)
  require (!(decide (0x800 ≤ n) && !sup)) cPRIVILEGE (evalWord i)
  require (!(decide (0x200 ≤ n) && decide (n < 0x800))) cILLEGAL (evalWord i)
  require (!(w && decide (n < 0x100) && !sup)) cPRIVILEGE (evalWord i)
  let s ← getS
  require (s.readCr th n).isSome cILLEGAL (evalWord i)

/-- CRR (R28, R98). -/
def execCrr (h : Hdr) (f : SF) (s : State) : Out :=
  issue (.crr h f) h 0x78 0 8 s fun th => do
    crCheck (.crr h f) th (f.imm.toNat % 4096) false
    let s ← getS
    writeX f.d (clean ((s.readCr th (f.imm.toNat % 4096)).getD 0))

/-- CRW (R28, R98). The value's poison goes with it into RNGKEY's clean field: only X registers carry a bit (R403). -/
def execCrw (h : Hdr) (f : SF) (s : State) : Out :=
  issue (.crw h f) h 0x79 0 8 s fun th => do
    crCheck (.crw h f) th (f.imm.toNat % 4096) true
    modS fun s => s.writeCr (decide (2 ≤ th.priv)) th (f.imm.toNat % 4096) (srcA f th).v

/-- TRAP (R100). -/
def execTrap (h : Hdr) (f : SF) (s : State) : Out :=
  issue (.trap h f) h 0x7A 0 8 s fun th => trapM (f.imm.toNat % 256) (srcA f th).v

/-- SVC (R101). -/
def execSvc (h : Hdr) (f : SF) (s : State) : Out :=
  issue (.svc h f) h 0x7A 1 8 s fun _ => trapM cSVC (zext64 16 f.imm.toNat)

/-- BREAK (R101). -/
def execBreakI (h : Hdr) (f : SF) (s : State) : Out :=
  issue (.breakI h f) h 0x7A 2 8 s fun _ => trapM cBREAK (zext64 16 f.imm.toNat)

/-- IFLUSH (R102). -/
def execIflush (h : Hdr) (f : SF) (s : State) : Out :=
  issue (.iflush h f) h 0x7A 3 8 s fun _ => modS fun s => s.updCore s.here fun c => { c with ibuf := [] }

/-- A supervisor-only instruction traps PRIVILEGE at level T (R24, step 6). -/
def supOnly (i : Instr) (th : Thread) : M Unit := require (decide (2 ≤ th.priv)) cPRIVILEGE (evalWord i)

/-- Occupied barrel slots of a core (R106). -/
def Core.occupied (c : Core) : Nat := (c.slots.take 16).countP fun x => x.th.isSome

/-- The ranks on which a task's own launch placed initial contexts (R106): those of its dispatched and live tasks. -/
def State.placement (s : State) (l : Nat) : List Nat := (s.launch l).ranksUsed

/-- The rank with the fewest occupied slots, the lowest on ties (R106). -/
def State.leastBusy (s : State) (ctx : Nat) : List Nat → Option (Nat × Nat)
  | [] => none
  | r :: t =>
    let n := (s.core ((s.ctx ctx).rank r).phys).occupied
    match s.leastBusy ctx t with
    | none => some (r, n)
    | some (q, m) => if n < m ∨ (n = m ∧ r < q) then some (r, n) else some (q, m)

/-- The rank to which ERET returns a context (R106). -/
def State.eretDest (s : State) (th : Thread) (any : Bool) : Nat :=
  if any && th.vq == 0 && !th.array then
    let ok := (s.placement th.launch).filter fun r =>
      let e := (s.ctx th.ctx).rank r
      e.state == 1 && e.immig
    match s.leastBusy th.ctx ok with
    | some (r, _) => r
    | none => th.retRank
  else th.retRank

/-- Length in bytes of the instruction whose first parcel is given (R31). -/
def lenBytes (parcel : Nat) : Nat := 4 * lenParcels (parcel % 4)

/-- ERET (R106). With .NEXT, a parcel at EPC that cannot be fetched traps from the service slot (DESIGN CHOICE, log entry 52). -/
def execEret (h : Hdr) (f : SF) (s : State) : Out :=
  issueJ (.eret h f) h 0x7B 0 8 s fun th => do
    supOnly (.eret h f) th
    require th.svc cPRIVILEGE (evalWord (.eret h f))
    let pc ← if bit 1 f.fl.toNat then do
        let p ← fetchParcel th th.epc
        pure (th.epc + BitVec.ofNat 64 (lenBytes p))
      else pure th.epc
    let s ← getS
    match s.closeAll s.cur with
    | none => stallM .windowResult
    | some t =>
      match t.thread with
      | none => goneM
      | some th =>
        setS (((t.noteIssue t.cur).countInstr t.here).trapReturn t.cur th pc (t.eretDest th (bit 0 f.fl.toNat)))
        goneM

/-- A core holds no resident or queued context (R109). -/
def Core.empty (c : Core) : Bool := c.slots.all (fun x => x.th.isNone) && c.queue.isEmpty

/-- The checkpoint that a new interval starts from; every thread's fingerprint is 0 (R414). -/
def Core.checkpoint (c : Core) : Core :=
  { c with pair := { c.pair with
      retired := 0, prints := [], upset := false, struckThen := c.pair.struck, alone := false, due := false, gate := [], inbound := [], undo := [], slots := c.slots, queue := c.queue, berths := c.berths
      arr := c.arr, vregs := c.vregs, vpois := c.vpois, pq := c.pq, pubs := c.pubs, pins := c.pins, rpt := c.rpt, accstat := c.accstat
      woke := c.woke, rel := c.rel, ni := c.ni } }

end Sys2Proof.Machine
end

