-- ==== Sys2Proof/Machine/Pair.lean ====
section
/-!
DEFINITION. Pair intervals: checkpoints, agreement, re-execution, failure, PAIR and UNPAIR (R109, R413 to R419). The two cores of a pair run one set of instructions on one set
of values, so the model keeps the even core's state and whether an error has made the shadow's fingerprints differ (log entry 33).
-/

namespace Sys2Proof.Machine

/-- The core at its checkpoint (R417). -/
def Core.restore (c : Core) : Core :=
  let p := c.pair
  { c with
    slots := p.slots, queue := p.queue, berths := p.berths, arr := p.arr, vregs := p.vregs, vpois := p.vpois, pq := p.pq, pubs := p.pubs
    pins := p.pins, rpt := p.rpt, accstat := p.accstat, woke := p.woke, rel := p.rel, ni := p.ni, pair := { p with struck := p.struckThen } }

/-- Every outstanding publish of a core completed, `n` at most. -/
def State.completeAll : Nat → State → Nat → State
  | 0, s, _ => s
  | n + 1, s, core => State.completeAll n (s.completePublish core) core

/-- A thread waits for the end of the interval, to issue or to close a window (R415, R416). -/
def Slot.awaitsInterval (x : Slot) : Bool := x.stall == some Stall.request || x.stall == some Stall.windowResult

/-- Threads of a core that wait for the end of the interval issue again (R415). -/
def Core.wakeRequests (c : Core) : Core :=
  { c with slots := c.slots.map fun x => if x.awaitsInterval then { x with stall := none } else x }

/-- An interval that ends in agreement: the gated entries and packets leave in order, and the undo log is cleared (R416, R418). -/
def State.agree (s : State) (core : Nat) : State :=
  let s1 := s.completeAll (s.core core).pubs.length core
  let gate := (s1.core core).pair.gate
  let s2 := { s1 with net := s1.net ++ gate }
  (s2.updCore core fun c =>
    let d := c.checkpoint.wakeRequests
    { d with pair := { d.pair with agreed := (d.pair.agreed + 1) % 65536, run := 0 } }).wakeGang (gangOf core)

/-- Scratchpad units put back from an undo log, newest first (R417). -/
def State.undoAll (s : State) (l : List UndoUnit) : State :=
  l.foldr (fun u (t : State) =>
    { t with
      mem := t.mem.writeN u.home u.data
      poison := if u.pois then insNat u.home t.poison else delNat u.home t.poison }) s

/-- Every context of a core changed: resident, queued, blocked, and those that are about to join (R325). -/
def Core.mapThreads (f : Thread → Thread) (c : Core) : Core :=
  { c with
    slots := c.slots.map fun x => { x with th := x.th.map f }
    queue := c.queue.map f
    woke := c.woke.map fun t => (t.1, f t.2)
    rel := c.rel.map f
    ni := c.ni.map fun p => match p.kind with
      | .context k t => { p with kind := .context k (f t) }
      | _ => p
    berths := Tab.mapVals (fun _ b => { b with waiters := b.waiters.map fun w => { w with th := f w.th } }) c.berths }

/-- The contexts of a core that hold no slot: queued, blocked, and those that are about to join (R325). -/
def Core.away (c : Core) : List Thread :=
  c.queue ++ c.berths.flatMap (fun p => p.2.waiters.map (·.th)) ++ c.woke.map Prod.snd ++ c.rel

/-- The contexts of a core: resident, queued, blocked, and those that are about to join (R325). -/
def Core.threads (c : Core) : List Thread := c.slots.filterMap (·.th) ++ c.away

/-- A thread is one of a task's. -/
def Thread.isOf (t : Thread) (ctx : Nat) (k : TaskId) : Bool := t.ctx == ctx && t.task == k

/-- A context packet of a task. -/
def Packet.carries (p : Packet) (ctx : Nat) (k : TaskId) : Bool :=
  match p.kind with
  | .context _ t => t.isOf ctx k
  | _ => false

/-- A core without a task's waiting contexts. -/
def Core.withoutTask (c : Core) (ctx : Nat) (k : TaskId) : Core :=
  { c with
    queue := c.queue.filter fun t => !t.isOf ctx k
    woke := c.woke.filter fun t => !t.2.isOf ctx k
    rel := c.rel.filter fun t => !t.isOf ctx k
    ni := c.ni.filter fun p => !p.carries ctx k
    berths := Tab.mapVals (fun _ b => { b with waiters := b.waiters.filter fun w => !w.th.isOf ctx k }) c.berths }

/-- PAIRST of every context of a core set to 3 (R417). -/
def Core.failPair (c : Core) : Core := c.mapThreads fun t => { t with status := setBits 9 8 3 t.status }

/-- The packets that a launch's completion waits for, counted again or no more: a place or channel packet in the gate is sent anew, and one that
came in comes in again (R298, R417). -/
def State.recount (s : State) (up : Bool) (ps : List Packet) : State :=
  ps.foldl (fun t p =>
    let f := fun (l : Nat) => t.updLaunch l fun x => { x with pendingPlace := if up then x.pendingPlace + 1 else x.pendingPlace - 1 }
    match p.kind with
    | .place _ _ _ _ _ l none => f l
    | .chan _ _ _ _ _ l => f l
    | _ => t) s

/-- A packet that comes in again: what it told the outside the first time it does not tell again (R417). -/
def Packet.again (p : Packet) : Packet :=
  match p.kind with
  | .place b d x y sc _ (some _) => { p with kind := .place b d x y sc (2 ^ 64) none }
  | _ => p

/-- An interval that ends in disagreement: the scratchpad and the checkpoint are restored and the interval runs again; what came in from
outside comes in again (R417). -/
def State.disagree (s : State) (core : Nat) : State :=
  let p := (s.core core).pair
  let s1 := ((s.undoAll p.undo).recount false p.gate).recount true p.inbound
  let s2 := (s1.updCore core fun c =>
    let d := c.restore.checkpoint.wakeRequests
    { d with pair := { d.pair with disagreed := min 255 (d.pair.disagreed + 1), run := min 3 (d.pair.run + 1) } }).wakeGang (gangOf core)
  { s2 with net := p.inbound.map Packet.again ++ s2.net }

/-- The interval of a paired core has to end (R415): 256 instructions have retired, the gate buffer is full, with the publish entries that wait in it
(R416), or the undo log is, or an instruction waits for its end. A sequence and a thread that waits
at an MMA are about to execute an array instruction (R158). -/
def State.intervalDue (s : State) (core : Nat) : Bool :=
  let c := s.core core
  s.isPaired core
    && (decide (256 ≤ c.pair.retired) || c.pair.alone || c.pair.due || decide (64 ≤ c.pair.gate.length + (c.pubs.map (·.n)).sum) || decide (64 ≤ c.pair.undo.length)
      || c.pair.gate.any (fun p => match p.kind with
          | .context .. => true
          | _ => false)
      || ((c.rpt.running || c.slots.any fun x => x.awaitsInterval || x.stall == some .gangMma) && s.intervalOpen core))

/-- The cores of a pair differ: the fingerprints that they exchange, or an error that has reached no fingerprint yet (R414 to R417). -/
def PairCore.differs (p : PairCore) : Bool := p.upset || p.prints.any fun f => f.even != f.odd

/-- The end of an interval, but for what a failed pair leads to (R415, R417): the state and whether the pair has failed. -/
def State.endInterval (s : State) (core : Nat) : State × Bool :=
  if s.isPaired core then
    if (s.core core).pair.differs then
      let t := s.disagree core
      (t, decide (3 ≤ (t.core core).pair.run))
    else (s.agree core, false)
  else (s, false)

/-! A pair that has failed (R417, R419, R422) -/

/-- The physical cores of a gang. -/
def gangCores (g : Nat) : List Nat := upFrom (8 * g) 8

/-- A gang marked degraded, in the configuration as well (R417, R419). -/
def State.degradeGang (s : State) (g : Nat) : State :=
  let s1 := (gangCores g).foldl (fun t p => t.updCore p fun c => { c with degraded := true }) s
  { s1 with fw := { s1.fw with flash := { s1.fw.flash with gangs := insNat g s1.fw.flash.gangs } } }

/-- A context that an error causes to be saved: a save in progress takes the error's ERR, and a context that is loading or being resumed is saved
once that has finished (R417, R422). -/
def Context.noteSave (x : Context) (err : Nat) : Context :=
  if x.state = 2 then { x with reqErr := err }
  else if x.state = 1 ∨ x.state = 4 ∨ x.state = 5 then { x with dueSave := some err } else x

/-- The contexts that hold a rank on one of the cores that `mine` names are to be saved, with ERR FAULT (R417, R419, R422). -/
def State.saveHolders (s : State) (mine : Nat → Bool) : State :=
  { s with ctxs := Tab.mapVals (fun _ x => if x.ranks.any fun r => r.2.state != 0 && mine r.2.phys then x.noteSave 6 else x) s.ctxs }

/-- A pair that has disagreed three times running has failed (R417). -/
def State.pairFailed (s : State) (core : Nat) : State :=
  let s1 := (s.updCore core Core.failPair).degradeGang (gangOf core)
  (s1.logErr (dieOf core) 5 2 ((s.core core).owner.getD 0) core 0).saveHolders fun p => gangOf p == gangOf core

/-- The end of a pair interval (R415 to R417). -/
def State.endPair (s : State) (core : Nat) : State :=
  let r := s.endInterval core
  if r.2 then r.1.pairFailed core else r.1

/-- The open intervals of a gang's pairs ended. -/
def State.endPairs (s : State) (g : Nat) : State := (gangCores g).foldl (fun t p => if t.intervalOpen p then t.endPair p else t) s

/-! PAIR and UNPAIR (R109) -/

/-- PAIR or UNPAIR of a gang is refused (R109). -/
def State.pairRefused (s : State) (g : Nat) (want : Bool) : Bool :=
  (gangCores g).any (fun p => !(s.core p).empty) || (s.gang g).joined != 0 || (s.gang g).paired == want
    || (want && (gangCores g).any fun p => (s.core p).degraded)

/-- A gang's pairs coupled or separated; what an open interval of the gang still holds is settled first, so that its packets are sent (R109, R415, R416).
None where the operation is refused. -/
def State.pairGang (s : State) (g : Nat) (want : Bool) : Option State :=
  let t := if s.pairRefused g want then s else s.endPairs g
  if t.pairRefused g want then none
  else
    let u := t.updGang g fun x => { x with paired := want }
    some ((gangCores g).foldl (fun u p => u.updCore p fun c =>
      let d := { c with pair := { agreed := c.pair.agreed, disagreed := c.pair.disagreed, run := c.pair.run } }
      if want && p % 2 == 0 then d.checkpoint else d) u)

/-- PAIR and UNPAIR (R109): the rank names the gang; the predicate says whether the change was made. A rank that is IN_TRANSIT or SAVED
resolves to the core that its entry names (DESIGN CHOICE, log entry 54). -/
def pairS (i : Instr) (want : Bool) (f : SF) (th : Thread) : M Unit := do
  supOnly i th
  let a ← cleanUse (srcA f th)
  let s ← getS
  let r := (s.ctx th.ctx).rank (a.toNat % 2 ^ 24)
  require (r.state != 0) cADDRESS a
  match s.pairGang (gangOf r.phys) want with
  | none => writeP f.d.toNat false
  | some t => do
    setS t
    writeP f.d.toNat true

/-- PAIR (R109). -/
def execPair (h : Hdr) (f : SF) (s : State) : Out :=
  issue (.pair h f) h 0x7C 0 8 s (pairS (.pair h f) true f)

/-- UNPAIR (R109). -/
def execUnpair (h : Hdr) (f : SF) (s : State) : Out :=
  issue (.unpair h f) h 0x7C 1 8 s (pairS (.unpair h f) false f)

end Sys2Proof.Machine
end

