-- ==== Sys2Proof/Machine/Sched.lean ====
section
/-!
DEFINITION. Which slot issues, what a passing cycle does, and how a slot's instruction is presented (R10 to R14, R197, R199, R103).
-/

namespace Sys2Proof.Machine

/-- A thread has issued in the last 8 cycles (R11). -/
def State.issuedLately (s : State) (th : Thread) : Bool :=
  s.recent.any fun r => r.1 == th.ctx && r.2.1 == th.task && decide (s.cycle < r.2.2 + 8)

/-- A slot may issue in a cycle (R10, R11, R243). The threads of a context that is being saved, restored or torn down stand still (R323, R326). -/
def State.eligible (s : State) (x : Slot) : Bool :=
  x.th.any fun th => x.stall.isNone && !s.issuedLately th && !s.awaitsRange th && !(s.ctx th.ctx).frozen

/-- The slot numbers in scan order, from the one after the last to issue (R10). -/
def scanFrom (last : Nat) : List Nat := (upFrom 1 16).map fun k => (last + k) % 16

/-- A thread leaves its slot at its next boundary: it has issued 4,096 instructions there or has yielded, and the run queue holds a context
(R198, R207). -/
def Core.rotationDue (c : Core) (i : Nat) : Bool :=
  let x := slotAt c.slots i
  (decide (4096 ≤ x.count) || x.yielded) && x.th.isSome && !c.queue.isEmpty

/-- The slot from which a core issues in this cycle, if any (R10): a thread due to rotate issues no more there (R198), and a paired core whose
interval has to end issues none (R415). -/
def State.pick (s : State) (core : Nat) : Option Nat :=
  let c := s.core core
  if c.issuedAt = some s.cycle ∨ c.gated ∨ s.intervalDue core then none
  else (scanFrom c.lastSlot).find? fun i => s.eligible (slotAt c.slots i) && !c.rotationDue i

/-- The slot from which a quay's service pipeline issues (R103); a gated core issues nothing (R432). -/
def State.pickSvc (s : State) (q : Nat) : Option Nat :=
  let x := s.quay q
  if x.svcIssuedAt = some s.cycle ∨ (s.core (quayCore q)).gated then none
  else (scanFrom x.svcLast).find? fun i => s.eligible (x.svcAt i).slot

/-- The place is the one from which its core or service pipeline issues now (R10, R103). -/
def State.picked (s : State) (l : Loc) : Bool := (if l.svc then s.pickSvc l.unit else s.pick l.unit) == some l.slot

/-- Free slots filled from the head of the run queue (R13, R197). -/
def refillN : Nat → Core → Core
  | 0, c => c
  | n + 1, c =>
    match freeSlot c.slots, c.queue with
    | some i, th :: t => refillN n { c with slots := setNth { th := some th } i c.slots, queue := t }
    | _, _ => c

/-- Free slots filled in the next cycle. -/
def Core.refill (c : Core) : Core := refillN 16 c

/-- The woken waiter of a core with the lowest wake number: its berth, its position and its number. -/
def Core.nextWoken (c : Core) : Option (Nat × Nat × Nat) :=
  c.berths.foldl (fun o p =>
    (p.2.waiters.zip (upFrom 0 p.2.waiters.length)).foldl (fun o w =>
      match w.1.woken, o with
      | some k, none => some (p.1, w.2, k)
      | some k, some (b, i, j) => if k < j then some (p.1, w.2, k) else some (b, i, j)
      | none, o => o) o) none

/-- The woken context that joins next, the one with the lowest wake number, in its place, and the core without it where it waited: among those of this
cycle, or on a wait list where it had found the queue full (R197, R199). -/
def Core.joinNext (c : Core) : Option Core :=
  let late := c.nextWoken
  match c.woke with
  | (k, th) :: t =>
    (match late with
      | some (b, i, j) => if j < k then fromList b i else (c.takeIn th).map fun d => { d with woke := t }
      | none => (c.takeIn th).map fun d => { d with woke := t })
  | [] => late.bind fun x => fromList x.1 x.2.1
where
  fromList (b i : Nat) : Option Core :=
    match (c.berth b).waiters[i]? with
    | none => none
    | some w => (c.takeIn w.th).map fun d => d.updBerth b fun x => { x with waiters := dropNth i x.waiters }

/-- Woken contexts take their places in wake order, as far as there is room (R197, R199). -/
def takeWokenN : Nat → Core → Core
  | 0, c => c
  | n + 1, c => match c.joinNext with
    | some d => takeWokenN n d
    | none => c

/-- Every woken context that finds room; handlers, which have their service slots, are not among them. -/
def Core.takeWoken (c : Core) : Core := takeWokenN 64 { c with woke := c.woke.filter fun t => !t.2.svc }

/-- Contexts that come from another core join it in order, each with the refresh of its arrival (R195, R197), and those left. -/
def admitHeld : List Thread → Core → Core × List Thread
  | [], c => (c, [])
  | th :: t, c => match c.takeIn th with
    | some d => admitHeld t d.refreshed
    | none => (c, th :: t)

/-- The same for the context packets in its network interface. -/
def admitNi : List Packet → Core → Core × List Packet
  | [], c => (c, [])
  | p :: t, c =>
    match p.kind with
    | .context _ th =>
      (match c.takeIn th with
        | some d => admitNi t d.refreshed
        | none => (c, p :: t))
    | _ => admitNi t c

/-- A core's barrel, run queue and berths hold no context, and its array no state (R432). -/
def Core.idle (c : Core) : Bool :=
  c.slots.all (fun x => x.th.isNone) && c.queue.isEmpty && c.ni.isEmpty && c.woke.isEmpty && c.rel.isEmpty
    && (c.berths.all fun p => p.2.waiters.isEmpty) && c.arr == {}

/-- A quay has contexts in its service slots or about to enter them, which its quay core serves (R103). -/
def Quay.serves (q : Quay) : Bool := (q.svc.any fun x => x.slot.th.isSome) || !q.svcQueue.isEmpty || !q.svcBack.isEmpty

/-- The service pipeline of a quay keeps a core from being idle: the quay core that it is, and the cores whose trapped contexts wait in their
interfaces (R103, R432). -/
def State.servesAt (s : State) (core : Nat) : Bool :=
  let q := s.quay (quayOf core)
  (core % 32 == 31 && q.serves) || q.svcWait.any fun p => p.1 == core % 32

/-- A core with no resident, queued or waiting context and no array state (R432). -/
def State.idleAt (s : State) (core : Nat) : Bool := (s.core core).idle && !s.servesAt core

/-- The cores that a quay's service pipeline keeps from being idle were not idle at a time (R432). -/
def State.busySvc (s : State) (now q : Nat) : State :=
  (((upFrom 0 32).map (32 * q + ·)).filter s.servesAt).foldl (fun t c => t.updCore c fun d => { d with idleFrom := now }) s

/-- What a core does between cycles, its rotations done: slots fill from the queue, then contexts join in the order of R199: woken ones, those
released from a hold, those that have come from the network (R13, R197). -/
def Core.betweenCycles (c : Core) : Core :=
  let c1 := c.refill.takeWoken
  let r := admitHeld c1.rel c1
  let n := admitNi r.1.ni r.1
  { n.1 with rel := r.2, ni := n.2, accNew := 0 }

/-- The thread of a barrel slot joins the tail of the run queue and the head of the queue enters the slot (R198). -/
def Core.rotate (c : Core) (i : Nat) : Core :=
  match (slotAt c.slots i).th, c.queue with
  | some th, hd :: tl => { c with slots := setNth { th := some hd } i c.slots, queue := tl ++ [th] }
  | _, _ => c

/-- A slot whose thread is due to rotate (R198): its windows close and it changes places with the head of the queue. -/
def State.rotateSlot (s : State) (core slot : Nat) : State :=
  let l : Loc := { svc := false, unit := core, slot := slot }
  if slot < 16 ∧ (s.core core).rotationDue slot then
    match s.closeAll l with
    | none => s
    | some t =>
      let t1 := t.updGang (gangOf core) fun g => { g with mma := g.mma.filter fun q => !(q.member == core % 8 && q.slot == slot) }
      t1.updCore core fun c => c.rotate slot
  else s

/-- Every slot that is due to rotate, by core and slot number (R198, R199). -/
def State.rotateAll (s : State) : State :=
  s.cores.foldl (fun t p => (upFrom 0 16).foldl (fun t i => t.rotateSlot p.1 i) t) s

/-- A handler that has been woken, in its service slot again. -/
def SvcSlot.woken (x : SvcSlot) (l : List Thread) : SvcSlot :=
  match x.slot.th with
  | none => x
  | some th =>
    if x.slot.stall = some .asleep then
      match l.find? fun t => t.svc && t.ctx == th.ctx && t.task == th.task with
      | some t => { x with slot := { x.slot with th := some t, stall := none } }
      | none => x
    else x

/-- The same for one that waits for a service slot (R330). -/
def SvcRecord.woken (r : SvcRecord) (l : List Thread) : SvcRecord :=
  if r.asleep && l.any fun t => t.ctx == r.th.ctx && t.task == r.th.task then { r with asleep := false, sleeps := none } else r

/-- The handlers of a quay that berths have woken go on (R13, R103, R217). -/
def State.wakeHandlers (s : State) (q : Nat) : State :=
  let l := s.cores.flatMap fun c => (c.2.woke.map Prod.snd).filter (·.svc)
  if l.any (·.svc) then s.updQuay q fun x => { x with svc := x.svc.map fun y => y.woken l, svcBack := x.svcBack.map fun r => r.woken l } else s

/-- A context placed in the lowest free service slot (DESIGN CHOICE, log entry 55), with a stub area of undefined contents (R103, R105). -/
def Quay.enterSvc (q : Quay) (th : Thread) (seed : Nat) : Option Quay :=
  match firstIdx (fun (x : SvcSlot) => x.slot.th.isNone) q.svc with
  | some i => some { q with svc := setNth { slot := { th := some th }, stub := [], seed := seed } i q.svc }
  | none => none

/-- The first waiting context of the first core, in round-robin order from the last one admitted, that has one (R103). -/
def nextWaiting (rr : Nat) (l : List (Nat × Thread)) : Option (Nat × Thread) :=
  ((upFrom 1 32).map fun k => (rr + k) % 32).findSome? fun c => l.find? fun p => p.1 % 32 == c

/-- A context placed in a free service slot of a quay. -/
def State.enterSvc (s : State) (q : Nat) (th : Thread) : State :=
  match (s.quay q).enterSvc th s.frees with
  | some y => { s.updQuay q (fun _ => y) with frees := s.frees + 1 }
  | none => s

/-- Restored contexts that wait for a service slot take free ones, with their stub areas, captures and sequences (R330 step 5). -/
def State.backToSlots : Nat → State → Nat → State
  | 0, s, _ => s
  | n + 1, s, q =>
    let x := s.quay q
    match x.svcBack, firstIdx (fun (y : SvcSlot) => y.slot.th.isNone) x.svc with
    | r :: t, some i =>
      let slot : Slot := { th := some r.th, stall := if r.asleep then some .asleep else none }
      let s1 := s.updQuay q fun z =>
        { z with svcBack := t, svc := setNth { slot := slot, stub := r.stub, stubp := r.stubp, seed := r.seed } i z.svc }
      State.backToSlots n (if r.rpt.running then s1.updCore (quayCore q) fun c => if c.rpt.running then c else { c with rpt := r.rpt } else s1) q
    | _, _ => s

/-- Trapped contexts moved from the arrival queue to free service slots, and from the cores' interfaces to the queue, where each arrives at the
quay core with a refresh (R103, R104, R195). -/
def State.svcAdvance : Nat → State → Nat → State
  | 0, s, _ => s
  | n + 1, s, q =>
    let x := s.quay q
    let admitNext := match nextWaiting x.svcRr x.svcWait with
      | some p => State.svcAdvance n ((s.updQuay q fun y =>
          { y with svcQueue := y.svcQueue ++ [p.2], svcRr := p.1 % 32, svcWait := y.svcWait.erase p }).refreshB (quayCore q)) q
      | none => s
    match x.svcQueue with
    | th :: t =>
      if x.svcBack.isEmpty && x.svc.any fun y => y.slot.th.isNone then State.svcAdvance n ((s.updQuay q fun y => { y with svcQueue := t }).enterSvc q th) q
      else if x.svcQueue.length < 48 then admitNext else s
    | [] => admitNext

/-- Units of time in one core cycle: 20 / CLK ns (R430; log entry 4). -/
def cycleUnits (clk : Nat) : Nat := 21162960 * 20 / clk

/-- Issues noted in `recent` that still keep a thread from issuing (R11). -/
def State.prune (s : State) : State := { s with recent := s.recent.filter fun r => decide (s.cycle < r.2.2 + 8) }

/-- One core cycle passes: rotations, handlers that wake, contexts that join their cores, and the service queues (R13, R103, R198, R199). -/
def State.tick (s : State) : State :=
  let s1 := s.rotateAll
  let s2 := s1.quays.foldl (fun t p => t.wakeHandlers p.1) s1
  let now := s.time + cycleUnits s.fw.clk
  let s3 := { s2 with
    cycle := s2.cycle + 1
    time := now
    cores := Tab.mapVals (fun _ c =>
      let d := c.betweenCycles
      if d.idle then d else { d with idleFrom := now }) s2.cores }
  (s3.quays.foldl (fun t p => ((t.busySvc now p.1).backToSlots 16 p.1).svcAdvance 128 p.1) s3).prune

/-- A place made current for an issue, its due windows closed, and the instruction at its PC fetched and decoded; or the state that a
stall or a trap on the way leaves. -/
def State.present (s : State) (l : Loc) : Except State (Instr × State) :=
  if 4096 ≤ locCore l then .error s
  else
    let s1 := { s with cur := l }
    match s1.closeDue l with
    | none => .error (s1.stallSlot l .windowResult)
    | some s2 =>
      match s2.thread with
      | none => .error s2
      | some th =>
        match fetchInstr th s2 with
        | .ok (i, s3) => .ok (i, s3)
        | .error (.trap c e) => .error (s2.trapEnter l c e)
        | .error .kill => .error (s2.trapEnter l cPOISON_USE 0)
        | .error (.stall w t) => .error (t.stallSlot l w)
        | .error (.gone t) => .error t

end Sys2Proof.Machine
end

