-- ==== Sys2Proof/Machine/Serve.lean ====
section
/-!
DEFINITION. The answer of another agent to a request that a thread has sent: its instruction takes effect at the place that serves it
(log entry 10).
-/

namespace Sys2Proof.Machine

/-- The request of the thread at a place served: its instruction issues with the answer granted, and runs where `run` knows it. It issues at the
place's turn in the scan of its core, like any other (R10, R12); at any other time, and for another instruction, nothing happens (log entry 7). -/
def State.serve (s : State) (l : Loc) (run : Instr → Option (State → Out)) : Out :=
  let u := s.setSlot l { s.slot l with stall := none, granted := true }
  if (s.slot l).stall = some Stall.request ∧ u.picked l then
    match u.present l with
    | .error _ => .next s
    | .ok (i, t) => match run i with
      | some f => f t
      | none => .next s
  else .next s

end Sys2Proof.Machine
end

