-- ==== Sys2Proof/Machine/Ca.lean ====
section
/-!
DEFINITION. Content-addressed lines and root slots: majors 0x74 and 0x75 (R367 to R380), and the events of their engines.
-/

namespace Sys2Proof.Machine

/-- The request to a die's CA engine: the core's queue is published at the smallest scope that holds the engine (R240, R374), a request of the new
colour starts the die's snapshot (R389), and it waits for the decrements that the engine has sent to the homes of the seals whose counts it is to
change (R378). -/
def caRequest (die : Nat) (sls : List Nat) : M Unit := do
  let s ← getS
  if s.decsAhead die sls then stallM .request else pure ()
  requestM
  modS fun s =>
    let ctx := (s.thread.map (·.ctx)).getD 0
    (s.publishB s.here (if dieOf s.here = die then 1 else 2)).startAt ctx (s.colour ctx (locAgent s.cur)) die

/-- The CA domain of a thread (R321, R367). -/
def State.domainOf (s : State) (th : Thread) : Nat := (s.ctx th.ctx).desc.cadom

/-- Outputs of R374: stores that stand at the close of the window. -/
def lateOut (as : List Acc) (data : List (Byte × Bool)) : List LateStore :=
  (cutData as data).map fun p =>
    { va := p.1.ea.toNat % 2 ^ 56, place := p.1.place, data := p.2.map Prod.fst, pois := p.2.map Prod.snd }

/-- An output of R374 that leaves the core restarts a sink's watchdog (R300). -/
def lateSink (ls : List LateStore) : M Unit := eachM (fun x => sinkStore x.place) (ls.take 1)

/-- The bytes of a seal, all with one poison bit. -/
def sealBytes (sl : Nat) (p : Bool) : List (Byte × Bool) := (toBytes 16 sl).map fun b => (b, p)

/-- SEAL (R371, R373, R375). -/
def execSeal (h : Hdr) (f : EF) (s : State) : Out :=
  issueLong (.seal h f) h 0x74 0 12 s fun th => do
    let from_ ← cleanUse (src th f.a)
    let to_ ← cleanUse (th.xreg f.b.toNat)
    let kind := f.fl.toNat
    let as ← localRun th .load 64 512 from_
    let bs ← readAccs true as
    if anyPois bs.flatten then killM else pure ()
    let outs ← localRun th .store 16 16 to_
    boardCheck outs
    let data := bytesOf bs.flatten
    let s ← getS
    let dom := s.domainOf th
    let sl := mkSeal (digestOf dom kind data) 0 kind
    caRequest (sealHome sl) (sl :: if kind = 0 then [] else (nodeEntries data).map Prod.snd)
    let s ← getS
    let r := s.caSeal dom kind data
    match r.1 with
    | .noLine i => trapM cCA_NO_LINE (from_ + BitVec.ofNat 64 (16 * i))
    | .exhausted => trapM cCA_COLLISION_EXHAUSTED from_
    | .full d => pure { latch := latchX f.d (clean (BitVec.ofNat 64 d)) }
    | .done d sl => do
      setS r.2
      let late := lateOut outs (sealBytes sl false)
      lateSink late
      pure { latch := latchX f.d (clean (BitVec.ofNat 64 d)), late := late }

/-- The seal operand of SFETCH, RETAIN and DROP, read, with its poison (R373, R376). -/
def sealOperand (th : Thread) (ea : Word) : M (Nat × Bool) := do
  let as ← localRun th .load 16 16 ea
  let bs ← readAccs true as
  pure (numOf bs.flatten, anyPois bs.flatten)

/-- The line of a seal at its home, or CA_NO_LINE (R376, step 15). -/
def lookupM (th : Thread) (sl : Nat) (ea : Word) : M CaLine := do
  caRequest (sealHome sl) [sl]
  let s ← getS
  orTrap (s.caFind (s.domainOf th) sl) cCA_NO_LINE ea

/-- SFETCH (R373, R376). -/
def execSfetch (h : Hdr) (f : EF) (s : State) : Out :=
  issueLong (.sfetch h f) h 0x74 1 12 s fun th => do
    let to_ ← cleanUse (src th f.a)
    let ea ← cleanUse (th.xreg f.b.toNat)
    let (sl, p) ← sealOperand th ea
    let outs ← localRun th .store 64 512 to_
    boardCheck outs
    let line ← lookupM th sl ea
    modS fun s => s.caRead th.ctx s.here line ea
    let late := lateOut outs (line.data.map fun b => (b, line.pois || p))
    lateSink late
    pure { late := late }

/-- RETAIN (R376). -/
def execRetain (h : Hdr) (f : EF) (s : State) : Out :=
  issueLong (.retain h f) h 0x74 2 12 s fun th => do
    let ea ← cleanUse (src th f.a)
    let (sl, p) ← sealOperand th ea
    let _ ← lookupM th sl ea
    modS fun s => s.caInc (s.domainOf th) sl
    let s ← getS
    pure { latch := latchX f.d { v := BitVec.ofNat 64 (s.caCount (s.domainOf th) sl), p := p } }

/-- DROP (R370, R376). -/
def execDropI (h : Hdr) (f : EF) (s : State) : Out :=
  issueLong (.dropI h f) h 0x74 3 12 s fun th => do
    let ea ← cleanUse (src th f.a)
    let (sl, p) ← sealOperand th ea
    let _ ← lookupM th sl ea
    modS fun s => s.caDec (s.domainOf th) sl
    let s ← getS
    pure { latch := latchX f.d { v := BitVec.ofNat 64 (s.caCount (s.domainOf th) sl), p := p } }

/-- The home address of a root slot, its page checked (R373). -/
def rootSlot (th : Thread) (w : Bool) (ea : Word) : M Nat := do
  let as ← localRun th (.root w) 16 16 ea
  boardCheck as
  pure ((as.head?.bind fun a => a.place.home?).getD 0)

/-- RETAIN.R (R377, R378): the slot is read and the seal found is retained in one step of the slot's engine. -/
def execRetainR (h : Hdr) (f : EF) (s : State) : Out :=
  issueLong (.retainR h f) h 0x74 2 12 s fun th => do
    let ea ← cleanUse (src th f.a)
    let to_ ← cleanUse (th.xreg f.b.toNat)
    let slot ← rootSlot th false ea
    let outs ← localRun th .store 16 16 to_
    boardCheck outs
    let s ← getS
    caRequest (homeDie slot) [s.rootSeal slot]
    let s ← getS
    let p := anyPois (s.homeBytes slot 16)
    let sl := s.rootSeal slot
    let dom := s.domainOf th
    match s.caFind dom sl with
    | none => do
      let late := lateOut outs (sealBytes 0 p)
      lateSink late
      pure { latch := latchX f.d { v := 0, p := p }, late := late }
    | some _ => do
      setS (s.caInc dom sl)
      let s2 ← getS
      let late := lateOut outs (sealBytes sl p)
      lateSink late
      pure { latch := latchX f.d { v := BitVec.ofNat 64 (s2.caCount dom sl), p := p }, late := late }

/-- SWAPROOT at the slot's engine (R378, R379): whether it swapped, and the state. -/
def State.swapRoot (s : State) (core ctx slot e n : Nat) (p : Bool) : Bool × State :=
  if s.rootSeal slot = e then
    let s1 := s.homeWrite ctx (s.colour ctx (.core core)) slot (toBytes 16 n) (rep 16 p)
    (true, if e = 0 then s1 else s1.sendDec (homeDie slot) ctx (s.ctx ctx).desc.cadom e)
  else (false, s)

/-- SWAPROOT (R373, R379). -/
def execSwaproot (h : Hdr) (f : EF) (s : State) : Out :=
  issueLong (.swaproot h f) h 0x75 0 12 s fun th => do
    let ea ← cleanUse (src th f.a)
    let block ← cleanUse (th.xreg f.b.toNat)
    let as ← localRun th .load 32 32 block
    let slot ← rootSlot th true ea
    let outs ← localRun th .store 32 16 block
    let bs ← readAccs true as
    boardCheck outs
    caRequest (homeDie slot) []
    let s ← getS
    let e := bs.flatten.take 16
    let n := bs.flatten.drop 16
    let old := s.homeBytes slot 16
    let p := anyPois old || anyPois e
    let r := s.swapRoot s.here th.ctx slot (numOf e) (numOf n) (anyPois n)
    setS r.2
    if r.1 then do
      pure { latch := latchX f.d { v := 1, p := p } }
    else do
      let late := lateOut outs old
      lateSink late
      pure { latch := latchX f.d { v := 0, p := p }, late := late }

/-- COPYOUT (R380): a kick at the channel that BTX would name. -/
def execCopyout (h : Hdr) (f : EF) (s : State) : Out :=
  issueLong (.copyout h f) h 0x75 1 12 s fun th => do
    let c := f.fl.toNat % 64
    let q ← quayOperand th f.a c
    let a ← checked th .store 8 8 (chanEa q c)
    boardCheck [a]
    kickM th q (8 * c) (srcBE f th).v true
    pure {}

/-- The instructions whose requests a CA engine serves. -/
def caExec : Instr → Option (State → Out)
  | .seal h f => some (execSeal h f)
  | .sfetch h f => some (execSfetch h f)
  | .retain h f => some (execRetain h f)
  | .retainR h f => some (execRetainR h f)
  | .dropI h f => some (execDropI h f)
  | .swaproot h f => some (execSwaproot h f)
  | _ => none

/-- CA_REQUEST_AT_HOME (R369, R378). -/
def execCaRequestAtHome (l : Loc) (s : State) : Out := s.serve l caExec

end Sys2Proof.Machine
end

