-- ==== Sys2Proof/Machine/Coll.lean ====
section
/-!
DEFINITION. The collective engine: COLL, major 0x6B, the partial results and the results (R277 to R280).
-/

namespace Sys2Proof.Machine

/-- An element of a collective with its poison. -/
abbrev CElem := Nat × Bool

/-- Bytes of an element (R278). -/
def collSize (op ty : Nat) : Nat := if op = 3 then 8 else if ty = 1 then 2 else 4

/-- The value of an F32 code is NaN. -/
def isNan32 (c : Nat) : Bool := f32.decode (c % 2 ^ 32) == .nan

/-- The better of two ARGMAX pairs: the larger value, ties to the lower index, NaN excluded (R280). -/
def argBest (a b : Nat) : Nat :=
  if isNan32 a then b
  else if isNan32 b then a
  else if FV.below (f32.decode (a % 2 ^ 32)) (f32.decode (b % 2 ^ 32)) then b
  else if FV.below (f32.decode (b % 2 ^ 32)) (f32.decode (a % 2 ^ 32)) then a
  else if b / 2 ^ 32 < a / 2 ^ 32 then b else a

/-- Two elements combined (R280): `op` 0 ALLREDUCE, 3 ARGMAX; `red` 0 SUM, 1 MAX, 2 MIN; `ty` 0 F32, 1 BF16, 2 I32. -/
def collComb (op red ty a b : Nat) : Nat :=
  if op = 3 then argBest a b
  else if ty = 2 then bankOp (if red = 0 then 0 else if red = 1 then 4 else 3) 0 a b
  else if ty = 1 then
    if red = 0 then bankOp 2 0 a b else bf16.round rne false (FV.minmax (red == 1) (bf16.decode a) (bf16.decode b))
  else bankOp (if red = 0 then 1 else if red = 1 then 6 else 5) 0 a b

/-- An ARGMAX pair as it is written: all excluded gives +0 and index 0xFFFF_FFFF (R280). -/
def argFinal (a : Nat) : Nat := if isNan32 a then 0xFFFFFFFF * 2 ^ 32 else a

/-- The elements of a run of bytes. -/
def elemsOf (size : Nat) (bs : List (Byte × Bool)) : List CElem :=
  (upFrom 0 (bs.length / size)).map fun i => let e := (bs.drop (i * size)).take size; (numOf e, anyPois e)

/-- A child's partial result joined to a node's (R280). -/
def CollNode.hear (x : CollNode) (child : CollNode) : CollNode :=
  { x with
    heard := x.heard ++ [child.node]
    parts := if x.op = 1 then x.parts ++ child.parts
      else match x.parts, child.parts with
        | (n, a) :: _, (_, b) :: _ => [(n, (a.zip b).map fun p => (collComb x.op x.red x.ty p.1.1 p.2.1, p.1.2 || p.2.2))]
        | l, _ => l }

/-- The children of a node in a table of parents. -/
def collChildren (parents : List Nat) (n : Nat) : List Nat :=
  (upFrom 0 parents.length).filter fun i => i != n && parents.getD i 0xFFFF == n

/-- A node has heard every child. -/
def CollOp.complete (o : CollOp) (x : CollNode) : Bool := (collChildren o.parents x.node).all fun c => x.heard.contains c

/-- Two engines' entries belong to one operation (R278). -/
def CollOp.same (a b : CollOp) : Bool := a.opid == b.opid && a.ctx == b.ctx && a.parents == b.parents && a.ranks == b.ranks

/-- Every participant of an operation, with the die whose engine has it. -/
def State.collNodes (s : State) (o : CollOp) : List (Nat × CollNode) :=
  s.dies.flatMap fun d => (d.2.colls.filter o.same).flatMap fun x => x.nodes.map fun n => (d.1, n)

/-- A participant of an operation changed. -/
def State.updColl (s : State) (o : CollOp) (node : Nat) (f : CollNode → CollNode) : State :=
  { s with dies := Tab.mapVals (fun _ d =>
      { d with colls := d.colls.map fun x =>
          if o.same x then { x with nodes := x.nodes.map fun n => if n.node = node then f n else n } else x }) s.dies }

/-- Operations that have no participant left to complete leave the engines (R277). -/
def State.dropColl (s : State) (o : CollOp) : State :=
  let ns := s.collNodes o
  if ns.length = o.ranks.length && ns.all fun n => n.2.finished then
    { s with dies := Tab.mapVals (fun _ d => { d with colls := d.colls.filter fun x => !o.same x }) s.dies }
  else s

/-- The bytes that a node's destination receives from the root's parts (R280). -/
def CollNode.result (x : CollNode) (root : List (Nat × List CElem)) (nodes : Nat) : List (Byte × Bool) :=
  let size := collSize x.op x.ty
  let fin := fun (e : CElem) => (toBytes size (if x.op = 3 then argFinal e.1 else e.1)).map fun b => (b, e.2)
  if x.op = 1 then (upFrom 0 nodes).flatMap fun i => ((Tab.find i root).getD []).flatMap fin
  else ((root.head?.map Prod.snd).getD []).flatMap fin

/-- The fault record of the collective engine (R317). -/
def collRecord (code : Nat) (a : Word) : List Byte := fqBytes 3 code 0 0 a (rep 16 0)

/-- What becomes of a participant's access that does not go through (R316, R317): it waits for an ATS result, or parks with a page request or
a record. -/
def State.collFault (s : State) (o : CollOp) (die : Nat) (x : CollNode) (f : EFault) (a : Word) : State :=
  let item := ParkedItem.coll die o.opid x.node
  match f with
  | .ats _ => s.updColl o x.node fun n => { n with waits := true }
  | .miss => s.updColl o x.node fun n => { n with waits := true }
  | .denied iova w =>
    let s1 := s.updColl o x.node fun n => { n with resolve := none, waits := false, asked := if n.asked.contains iova then n.asked else n.asked ++ [iova] }
    if x.asked.contains iova then s1.park o.ctx item (collRecord f.code a) x.resolve
    else s1.askPri (collEng die o.ctx) item iova w (collRecord f.code a) x.resolve
  | _ => (s.updColl o x.node fun n => { n with resolve := none, waits := false }).park o.ctx item (collRecord f.code a) x.resolve

/-- A participant's source read by its die's engine, where it has not been; a BROADCAST's other nodes read none (R280). -/
def State.collLoad (s : State) (o : CollOp) (die : Nat) (x : CollNode) : State :=
  let size := collSize x.op x.ty
  let took := fun (t : State) (bs : List (Byte × Bool)) =>
    (t.updColl o x.node fun n =>
      { n with loaded := true, waits := false, asked := [], resolve := none, parts := [(x.node, elemsOf size bs)] }).resolved x.resolve
  if x.op = 2 ∧ x.node ≠ 0 then took s []
  else match s.eRead (collEng die o.ctx) none true (x.count * size) x.src with
    | (.ok bs, t) => took t bs
    | (.error (f, a), t) => t.collFault o die x f a

/-- A participant's result written and published by its die's engine, and the berth of PTAG incremented (R241, R280). -/
def State.collStore (s : State) (o : CollOp) (die : Nat) (x : CollNode) (bs : List (Byte × Bool)) : State :=
  let e := collEng die o.ctx
  match State.eRun e none true true true (pieces x.dst bs.length) s with
  | (.ok hs, t) =>
    (((t.eStores e (t.eScope e x.rank) hs bs).eTag e x.rank x.rank x.ptag).updColl o x.node fun n =>
      { n with finished := true, out := none, waits := false, resolve := none }).resolved x.resolve
  | (.error (f, a), t) => t.collFault o die x f a

/-- The results of an operation that have come down the tree (R280): every participant once the root has heard all, or for BROADCAST every
participant whose ancestors have joined. -/
def State.collDown (s : State) (o : CollOp) : State :=
  let ns := s.collNodes o
  match ns.find? fun n => n.2.node == 0 with
  | none => s
  | some (_, root) =>
    let up := root.loaded && (root.op == 2 || o.complete root)
    let joined := fun k => ns.any fun n => n.2.node == k
    let rec down : Nat → Nat → Bool
      | 0, _ => false
      | f + 1, k => k == 0 || (joined (o.parents.getD k 0) && down f (o.parents.getD k 0))
    if up then
      ((ns.filter fun n => !n.2.finished && n.2.out.isNone && down o.parents.length n.2.node).foldl (fun t n =>
        let bs := n.2.result root.parts o.ranks.length
        (t.updColl o n.2.node fun y => { y with out := some bs }).collStore o n.1 { n.2 with out := some bs, asked := [] } bs) s).dropColl o
    else s

/-- A participant's access tried anew: after an ATS result, a page response or a RESOLVE (R315, R316, R318). -/
def State.collTry (s : State) (die ctx opid node : Nat) : State :=
  match (s.die die).colls.find? fun o => o.opid == opid && o.ctx == ctx && o.nodes.any fun n => n.node == node && !n.finished with
  | none => s
  | some o => match o.nodes.find? fun n => n.node == node with
    | none => s
    | some x => match x.out with
      | some bs => (s.collStore o die x bs).dropColl o
      | none => if x.loaded then s else (s.collLoad o die x).collDown o

/-- The participants of a die's operations of a context that wait for an ATS result. -/
def State.collWaiting (s : State) (die ctx : Nat) : List (Nat × Nat) :=
  (s.die die).colls.flatMap fun o => if o.ctx = ctx then (o.nodes.filter (·.waits)).map fun n => (o.opid, n.node) else []

/-- The 64 bytes of a collective record (R278). -/
structure CollRec where
  op : Nat
  red : Nat
  ty : Nat
  count : Nat
  src : Word
  dst : Word
  tree : Word
  node : Nat
  ptag : Nat
  opid : Nat
  res : Nat

/-- A record's fields from its bytes. -/
def collRec (b : List Byte) : CollRec :=
  { op := fieldAt b 0 1, red := fieldAt b 1 1, ty := fieldAt b 2 1, count := fieldAt b 4 4, src := BitVec.ofNat 64 (fieldAt b 8 8)
    dst := BitVec.ofNat 64 (fieldAt b 16 8), tree := BitVec.ofNat 64 (fieldAt b 24 8), node := fieldAt b 32 2, ptag := fieldAt b 34 2
    opid := fieldAt b 36 4, res := fieldAt b 3 1 + fieldAt b 40 24 }

/-- The limits of a record in an operation of `nodes` participants (R214, R278). -/
def CollRec.legal (r : CollRec) (nodes : Nat) : Bool :=
  r.res == 0 && decide (r.op ≤ 3) && (if r.op = 0 then decide (r.red ≤ 2) else r.red == 0) && decide (r.ty ≤ 2) && (r.op != 3 || r.ty == 0)
    && decide (1 ≤ r.count) && decide (r.count * collSize r.op r.ty * nodes ≤ 2 ^ 24) && r.tree.toNat % 16 == 0 && decide (r.ptag < 4096)

/-- A tree table read by a die's engine for a caller (R279): parents and ranks, none where it is invalid; or the state in which it waits for a host
page (R315, R316). -/
def State.readTree (s : State) (e : Eng) (who : Nat) (tree : Word) : Option (Option (List Nat × List Nat)) × State :=
  let fails := fun (t : State) (f : EFault) (a : Word) => match f with
    | .ats _ => (none, t)
    | .denied iova w => match t.readDenied e who iova w (collRecord f.code a) with
      | some u => (none, u)
      | none => (some none, t.readDone e who)
    | _ => (some none, t.readDone e who)
  match s.eRead e none true 16 tree with
  | (.error (f, a), t) => fails t f a
  | (.ok b, t) =>
    let n := numOf b
    if 1 ≤ n ∧ n ≤ 4096 then
      match t.eRead e none true (8 * n) (tree + 16) with
      | (.error (f, a), u) => fails u f a
      | (.ok bs, u) =>
        let es := (upFrom 0 n).map fun i => fieldAt (bytesOf bs) (8 * i) 8
        let parents := es.map (bits 47 32)
        let ranks := es.map (bits 23 0)
        let ok := es.all (fun x => bits 31 24 x == 0 && bits 63 48 x == 0) && parents.head? == some 0xFFFF
          && ((upFrom 0 n).zip parents).all (fun p => p.1 == 0 || decide (p.2 < p.1)) && ranks.eraseDups.length == n
        (some (if ok then some (parents, ranks) else none), u.readDone e who)
    else (some none, t.readDone e who)

/-- A participant added to an engine's operations. -/
def addNode (o : CollOp) (n : CollNode) (l : List CollOp) : List CollOp :=
  if l.any o.same then l.map fun x => if o.same x then { x with nodes := x.nodes ++ [n] } else x else l ++ [{ o with nodes := [n] }]

/-- The acceptance code of R277 for a record, and the state after it; none where a page waits for an ATS result. `rank` is the caller's. -/
def State.collAccept (s : State) (e : Eng) (rank : Nat) (r : CollRec) : Option (Nat × State) × State :=
  if !r.legal 1 then (some (2, s), s)
  else match s.readTree e (threadReader s.cur) r.tree with
    | (none, t) => (none, t)
    | (some none, t) => (some (1, t), t)
    | (some (some (parents, ranks)), t) =>
      if !(ranks[r.node]? == some rank) then (some (1, t), t)
      else if !r.legal ranks.length then (some (2, t), t)
      else
        let o : CollOp := { opid := r.opid, ctx := e.ctx, parents := parents, ranks := ranks, nodes := [] }
        let ops := (t.die e.die).colls
        let again := t.dies.any fun d => d.2.colls.any fun x =>
          x.opid == r.opid && x.ctx == e.ctx && x.nodes.any fun n => n.node == r.node && n.rank == rank
        if again || (decide (64 ≤ ops.length) && !ops.any o.same) then (some (3, t), t)
        else
          let n : CollNode :=
            { node := r.node, rank := rank, op := r.op, red := r.red, ty := r.ty, count := r.count, src := r.src, dst := r.dst, ptag := r.ptag }
          let u := t.updDie e.die fun d => { d with colls := addNode o n d.colls }
          (some (0, (u.collLoad o e.die n).collDown o), u)

/-- An engine's view of a checked access (R240): its home, or the issuing slot's stub area. -/
def State.engineBytes (s : State) (e : Eng) (a : Acc) : List (Byte × Bool) :=
  match a.place.home? with
  | some h => s.eBytes e [(h, a.n)]
  | none => s.accBytes false a

/-- COLL (R277, R278, R279). The engine decides in the step that issues it (log entry 4). One that waits for the translation of its tree issues anew, and
its start counts as one boundary then (R237). -/
def execColl (h : Hdr) (f : EF) (s : State) : Out :=
  issueLong (.coll h f) h 0x6B 0 12 s fun th => do
    alignM th (.collective (dieOf s.here))
    aloneM
    let ea ← cleanUse (eaOf th f.a f.b f.fl f.imm)
    migrateCheck th ea
    let as ← checkedRun th .read 64 64 ea
    boardCheck as
    let before ← getS
    let counted := (before.core before.here).phasecnt
    modS fun s => s.publishB s.here 1
    let s ← getS
    let e := collEng (dieOf s.here) th.ctx
    let bs := as.flatMap (s.engineBytes e)
    match s.collAccept e th.rank (collRec (bytesOf bs)) with
    | (none, t) => do
      setS (t.updCore t.here fun c => { c with phasecnt := counted })
      stallM .ats
    | (some (code, t), _) => do
      setS t
      pure { latch := latchX f.d (clean (BitVec.ofNat 64 code)) }

/-- A partial result that has not been combined: its operation, its node's participant and the child's (R280). -/
def State.collPartial (s : State) (opid node child : Nat) : Option (CollOp × CollNode) :=
  (s.dies.flatMap fun d => d.2.colls.filter fun o => o.opid == opid).findSome? fun o =>
    if o.parents.getD child 0xFFFF == node && child != node then
      let ns := (s.collNodes o).map Prod.snd
      match ns.find? fun n => n.node == node, ns.find? fun n => n.node == child with
      | some p, some c => if c.op != 2 && p.loaded && c.loaded && o.complete c && !p.heard.contains child then some (o, c) else none
      | _, _ => none
    else none

/-- COLLECTIVE_PARTIAL_ARRIVAL (R280). -/
def execCollectivePartialArrival (opid node child : Nat) (s : State) : Out :=
  .next (match s.collPartial opid node child with
    | none => s
    | some (o, c) => (s.updColl o node fun n => n.hear c).collDown o)

end Sys2Proof.Machine
end

