-- ==== Sys2Proof/Machine/Matrix.lean ====
section
/-!
DEFINITION. Gang arrays and matrix instructions: majors 0x40 to 0x43 (R140 to R162).
-/

namespace Sys2Proof.Machine

/-- The thread has an open window of an array instruction, or the array owes rows (R155). -/
def State.arrayInFlight (s : State) : Bool :=
  s.curSlot.wins.any (fun w => decide (0x41 ≤ w.major) && decide (w.major ≤ 0x43)) || (s.rowprog s.here).getLsbD 10

/-- The step 9 checks that GANG.JOIN and GANG.LEAVE share. -/
def gangChecks (th : Thread) : M Unit := do
  arrayReq th.array asNO_ACCESS
  let s ← getS
  arrayReq (!s.arrayInFlight) asIN_FLIGHT

/-- The wired barrier completes when every core of the mask has arrived: each member's berth is incremented and the cores are joined. Each core's own ROWPROG
and restart record stay as they are, hidden while it is joined and seen again after GANG.LEAVE (DESIGN CHOICE, log entry 65). -/
def State.completeJoin (s : State) (g : Nat) : State :=
  let x := s.gang g
  if x.arrived = x.mask then
    let s1 := s.updGang g fun y => { y with joined := y.mask, arrived := 0, berths := [], rowprog := 0, restart := [] }
    x.berths.foldl (fun t p => t.incBerth (8 * g + p.1) (t.ownerOf (8 * g + p.1)) p.2 none) s1
  else s

/-- GANG.JOIN (R155). A core outside the mask of a complete join takes JOIN_MISMATCH as well (DESIGN CHOICE, log entry 57). BERTH_RANGE of its wait comes
after the array checks and before the arrival (DESIGN CHOICE, log entry 65). -/
def execGangJoin (h : Hdr) (f : SF) (s : State) : Out :=
  issue (.gangJoin h f) h 0x40 0 8 s fun th => do
    aloneM
    gangChecks th
    let s ← getS
    let core := s.here
    let g := s.gang (gangOf core)
    let me := core % 8
    let mask := f.fl.toNat
    let b := f.imm.toNat % 2048
    let pc := th.after 8
    arrayReq (!s.isJoined core && !g.dissolving) asJOIN_STATE
    arrayReq (bit me mask && (g.mask == 0 || g.mask == mask)) asJOIN_MISMATCH
    arrayReq (!g.paired || (upFrom 0 4).all fun k => bit (2 * k) mask == bit (2 * k + 1) mask) asPAIR_MASK
    require (((s.core core).berth b).kind != 3) cBERTH_RANGE (BitVec.ofNat 64 b)
    closableM
    let mine := if g.paired then 2 ^ (me / 2 * 2) + 2 ^ (me / 2 * 2 + 1) else 2 ^ me
    modS fun s => (s.updGang (gangOf core) fun y =>
      { y with mask := mask, arrived := y.arrived ||| mine, berths := Tab.set me b y.berths }).completeJoin (gangOf core)
    waitM b 1 false pc

/-- GANG.LEAVE (R155, R157). -/
def execGangLeave (h : Hdr) (f : SF) (s : State) : Out :=
  issue (.gangLeave h f) h 0x40 1 8 s fun th => do
    aloneM
    gangChecks th
    let s ← getS
    arrayReq (s.isJoined s.here) asNOT_JOINED
    modS fun s => s.leaveGang s.here

/-- The rows of a WLOAD, then its scales, checked in order (R146). -/
def wloadAccs (th : Thread) (f : MF) (xa xs xq : Word) : M (List (List Acc) × List (List Acc)) := do
  let k := f.imm.toNat
  let rows ← collectM (fun r => checkedRun th .read 32 (weightBytes f.fmt.toNat) (xa + BitVec.ofNat 64 r * xs)) (upFrom 0 k)
  let scs ← collectM (fun b => checkedRun th .read 1 64 (xq + BitVec.ofNat 64 (64 * b))) (upFrom 0 (if f.sc = 1 then k / 32 else 0))
  pure (rows, scs)

/-- WLOAD (R146). A trap of its accesses leaves LOADED = 0. -/
def execWload (h : Hdr) (f : MF) (s : State) : Out :=
  issueLong (.wload h f) h 0x41 0 16 s fun th => do
    arrayM
    let xa ← cleanUse (src th f.xa)
    let xs ← cleanUse (src th f.xs)
    let xq ← if f.sc = 1 then cleanUse (src th f.xq) else pure 0
    arrayReq th.array asNO_ACCESS
    match ← tryM (wloadAccs th f xa xs xq) with
    | .error (c, e) => trapWith (fun s => s.updArr s.here fun a => { a with loaded := false }) c e
    | .ok (rows, scs) => do
      let rb ← readAccs false (rows ++ scs).flatten
      let fmt := f.fmt.toNat
      let take := fun (l : List (List Acc)) (bs : List (List (Byte × Bool))) =>
        (l.foldl (fun (p : List (List (Byte × Bool)) × List (List (Byte × Bool))) as =>
          (p.1 ++ [(p.2.take as.length).flatten], p.2.drop as.length)) ([], bs)).1
      let rowB := take rows rb
      let scB := take scs (rb.drop rows.flatten.length)
      modS fun s => (s.clearRowprog s.here).updArr s.here fun a =>
        { a with
          last := none, loaded := true, wf := fmt, wsc := f.sc == 1, wdepth := f.imm.toNat
          wrow := rowB.map numOf
          wpois := rowB.map fun r => elemPois fmt (colsOf fmt) (r.map Prod.snd)
          wscale := scB.map numOf
          wspois := scB.map fun r => elemPois 9 64 (r.map Prod.snd) }
      modS fun s => s.refill s.here 3 s.here 32768
      pure {}

/-- The window of an MMA, which has nothing to write, marked with the cycle of its run. -/
def mmaWindow (h : Hdr) (cycle : Nat) : Window :=
  { major := 0x42, left := h.la.toNat, done := false, decided := true, latch := [], late := [], refresh := false, tag := cycle }

/-- The checks of step 9 at a member's own issue (R148). -/
def mmaChecks (th : Thread) (f : MF) : M Unit := do
  arrayReq th.array asNO_ACCESS
  let s ← getS
  let a := (s.core s.here).arr
  arrayReq a.loaded asNOT_LOADED
  arrayReq (pairsWith a.wf f.fmt.toNat && a.wsc == (f.sc == 1)) asFORMAT_MISMATCH
  arrayReq (decide (f.imm.toNat ≤ a.wdepth)) asDEPTH

/-- The members that must issue: the joined cores, of a paired gang the even ones (R156, R158). -/
def Gang.partners (g : Gang) : List Nat := (upFrom 0 8).filter fun m => bit m g.joined && (!g.paired || m % 2 == 0)

/-- The windows that a member would close before a trap are all decided. -/
def Member.settled (s : State) (m : Member) : Bool := (s.slot m.loc).wins.all (·.decided)

/-- A member waits for its gang (R156): it has issued, and its slot stays its own. -/
def waitGang {α : Type} (g : Nat) (q : MmaReq) : M α := do
  modS fun s => (s.updGang g fun y => { y with mma := y.mma.filter (·.member != q.member) ++ [q] }).noteIssue s.cur
  stallM .gangMma

/-- The members of a gang MMA can all go on, to a trap too: they stand at their places, their windows are decided and their pair intervals hold no
work (R21, R158). -/
def State.gangReady (s : State) (g me : Nat) (qs : List MmaReq) : Bool :=
  qs.all (fun q => (s.memberOf g q).any fun m => m.settled s) && !qs.any fun q => q.member != me && s.intervalOpen (8 * g + q.member)

/-- A gang MMA whose last member, `me`, has issued and whose members can all go on (R151, R156). -/
def gangMma (g : Nat) (me : Nat) (qs : List MmaReq) : M Opening := do
  let s ← getS
  let ms := qs.filterMap (s.memberOf g)
  let others := qs.filter (·.member != me)
  let same := ms.all fun m => ms.all fun n => m.f.rown == n.f.rown && m.accum == n.accum
  let tag := s.cycle
  if same then do
    modS fun s => ms.foldl (fun t m => t.setSlot m.loc { t.slot m.loc with granted := s.curSlot.granted }) s
    match ← runMma (8 * g + me) ms with
    | none => do
      modS fun s => others.foldl (fun t q =>
        match (t.slot (q.loc g)).th with
        | some th => (t.endsInterval (8 * g + q.member)).retireIssued (q.loc g) (th.after 16) (some (mmaWindow q.hdr t.cycle))
        | none => t) (s.updGang g fun y => { y with mma := [] })
      pure { tag := tag }
    | some (_, i, c, e) => do
      modS fun s => (s.updGang g fun y => { y with mma := [] }).trapMembers g (some me) qs fun q =>
        if q.member = i then (c, e) else (cARRAY_STATE, asEval asGANG_FAULT i)
      goneM
  else do
    modS fun s => (s.updGang g fun y => { y with mma := [] }).trapMembers g (some me) qs fun _ => (cARRAY_STATE, asEval asMMA_MISMATCH 0)
    goneM

/-- MMA and MMA.ACC (R148, R151, R152, R156, R157). In a gang that dissolves the checks of step 9 come before DISSOLVED (DESIGN CHOICE, log entry 65: no
order is given). In a service slot an array instruction acts on the quay core's slice and gang (DESIGN CHOICE, log
entry 58). -/
def mmaBody (accum : Bool) (h : Hdr) (f : MF) (th : Thread) : M Opening := do
  arrayM
  let _ ← cleanUse (src th f.xa)
  let _ ← cleanUse (src th f.xs)
  let _ ← if f.sc = 1 then cleanUse (src th f.xq) else pure 0
  mmaChecks th f
  let s ← getS
  let core := s.here
  let g := gangOf core
  let me := core % 8
  let self : Member := { idx := me, loc := s.cur, th := th, accum := accum, hdr := h, f := f }
  if s.isJoined core then
    if (s.gang g).dissolving then trapWith (fun s => s.clearRowprog core) cARRAY_STATE (asEval asDISSOLVED 0)
    else do
      let q : MmaReq := { member := me, slot := s.cur.slot, accum := accum, hdr := h, f := f }
      let byIdx := fun m => if m = me then some q else (s.gang g).mma.find? (·.member == m)
      let qs := (s.gang g).partners.filterMap byIdx
      if qs.length = (s.gang g).partners.length ∧ s.gangReady g me qs then gangMma g me qs else waitGang g q
  else do
    match ← runMma core [self] with
    | none => pure { tag := s.cycle }
    | some (_, _, c, e) => trapWith id c e

/-- MMA (R148). -/
def execMma (h : Hdr) (f : MF) (s : State) : Out := issueLong (.mma h f) h 0x42 0 16 s (mmaBody false h f)

/-- MMA.ACC (R148). -/
def execMmaAcc (h : Hdr) (f : MF) (s : State) : Out := issueLong (.mmaAcc h f) h 0x42 1 16 s (mmaBody true h f)

/-- An accumulator row operand (R159); a poisoned row base forms no address and is used as it stands. -/
def rowOf (f : SF) (th : Thread) : Nat := ((srcA f th).v.toNat + f.imm.toNat) % 256

/-- What the instructions of major 0x43 but ASTAT share: access, and ROWPROG := 0 (R152, R160). -/
def accAccess (th : Thread) : M Unit := do
  arrayReq th.array asNO_ACCESS
  modS fun s => (s.clearRowprog s.here).forgetMma s.here

/-- AZERO (R160). -/
def execAzero (h : Hdr) (f : SF) (s : State) : Out :=
  issueLong (.azero h f) h 0x43 0 8 s fun th => do
    arrayM
    accAccess th
    modS fun s => s.updArr s.here fun a =>
      let bank := if bit 0 f.fl.toNat then a.visible else a.role
      (upFrom 0 (f.imm.toNat / 256 + 1)).foldl (fun a i =>
        { a with acc := Tab.del (accKey bank (rowOf f th + i)) a.acc, accp := Tab.del (accKey bank (rowOf f th + i)) a.accp }) a
    modS fun s =>
      let a := (s.core s.here).arr
      s.refill s.here 3 s.here (64 * accKey (if bit 0 f.fl.toNat then a.visible else a.role) (rowOf f th))
    pure {}

/-- ASWAP (R160). -/
def execAswap (h : Hdr) (f : SF) (s : State) : Out :=
  issueLong (.aswap h f) h 0x43 1 8 s fun th => do
    arrayM
    accAccess th
    modS fun s => s.updArr s.here fun a => { a with role := 1 - a.role }
    pure {}

/-- AREAD (R160). -/
def execAread (h : Hdr) (f : SF) (s : State) : Out :=
  issueLong (.aread h f) h 0x43 2 8 s fun th => do
    arrayM
    let r ← vphys th (f.fl.toNat % 32)
    accAccess th
    let s ← getS
    let a := (s.core s.here).arr
    let k := accKey a.visible (rowOf f th)
    pure { latch := [.v r (BitVec.allOnes 2048) (Tab.get 0 k a.acc) (BitVec.allOnes 64) (Tab.get 0 k a.accp)] }

/-- AWRITE (R160). -/
def execAwrite (h : Hdr) (f : SF) (s : State) : Out :=
  issueLong (.awrite h f) h 0x43 3 8 s fun th => do
    arrayM
    let r ← vphys th (f.fl.toNat % 32)
    accAccess th
    modS fun s => s.updCore s.here fun c =>
      let k := accKey c.arr.visible (rowOf f th)
      { c with arr := { c.arr with acc := Tab.set k (c.v r) c.arr.acc, accp := Tab.set k (c.vp r) c.arr.accp } }
    modS fun s => s.refill s.here 3 s.here (64 * accKey (s.core s.here).arr.visible (rowOf f th))
    pure {}

/-- The status word of R161. -/
def State.astat (s : State) (core : Nat) (access : Bool) : Word :=
  let g := s.gang (gangOf core)
  let a := (s.core core).arr
  let own := b2n a.wsc * 2 ^ 18 + a.wf * 2 ^ 14 + b2n a.loaded * 2 ^ 13 + a.wdepth * 2 ^ 3 + a.role * 4 + 1
  BitVec.ofNat 64 (g.mask * 2 ^ 24 + b2n g.dissolving * 2 ^ 23 + b2n (s.isJoined core) * 2 ^ 22 + core % 8 * 2 ^ 19
    + b2n g.paired * 2 + if access then own else 0)

/-- ASTAT (R160, R161): any task may issue it. -/
def execAstat (h : Hdr) (f : SF) (s : State) : Out :=
  issueLong (.astat h f) h 0x43 4 8 s fun th => do
    arrayM
    modS fun s => s.forgetMma s.here
    let s ← getS
    pure { latch := latchX f.d (clean (s.astat s.here th.array)) }

end Sys2Proof.Machine
end

