-- ==== Sys2Proof/Machine/VecMem.lean ====
section
/-!
DEFINITION. Vector loads and stores, majors 0x53 and 0x54 (R175 to R177).
-/

namespace Sys2Proof.Machine

/-- Bytes of an element by TY (R176). -/
def tyBytes (ty : Nat) : Nat := tyWidth ty / 8

/-- How the address of an element is formed (R175). -/
inductive VAddr where
  | unit | strided | indexed
  deriving DecidableEq, Repr

/-- The addresses of the elements (R176): element number to address, with the poison that joins them. -/
def vaddrs (k : VAddr) (f : VF) (th : Thread) : M (Nat → PWord) := do
  let x := src th f.xs
  let base : PWord := { v := x.v + sext64 8 f.imm.toNat * 32, p := x.p }
  let ty := f.ty.toNat
  match k with
  | .unit => pure fun i => { base with v := base.v + BitVec.ofNat 64 (i * tyBytes ty) }
  | .strided => do
    let st := src th (f.vb.setWidth 4)
    pure fun i => { v := base.v + BitVec.ofNat 64 i * st.v, p := base.p || st.p }
  | .indexed => do
    let v ← readV th f.vb
    pure fun i =>
      let l := if ty = 3 then 2 * i else i
      let e := v.field (32 * l) 32
      { v := base.v + sext64 32 e.v, p := base.p || e.p }

/-- The addresses of the enabled elements, clean (R405 step 8). -/
def cleanAddrs (ad : Nat → PWord) (es : List Nat) : M (List (Nat × Word)) :=
  collectM (fun i => do
    let a ← cleanUse (ad i)
    pure (i, a)) es

/-- A vector load (R175 to R177). -/
def vload (k : VAddr) (f : VF) (th : Thread) : M Opening := do
  let ty := f.ty.toNat
  let n := tyBytes ty
  let r ← vphys th f.vd.toNat
  let ad ← vaddrs k f th
  let m := maskOf th f.msk
  let es ← cleanAddrs ad (m.elems ty)
  let as ← collectM (fun (e : Nat × Word) => checked th .read n n e.2) es
  let bs ← readAccs true as
  let puts := (es.zip bs).map fun p => putTy ty p.1.1 (numOf p.2) (anyPois p.2)
  pure { latch := [latchV r (m.lanesIfPoisoned (tyCount ty)) puts] }

/-- The elements that a poisoned mask leaves out of a vector store, where an access to them would pass its checks (R404; log entry 22). -/
def leftOut (th : Thread) (ad : Nat → PWord) (m : VMask) (ty : Nat) : M (List Acc) := do
  let n := tyBytes ty
  let out := (upFrom 0 (tyCount ty)).filter fun i => m.poison && !(m.elems ty).contains i && !(ad i).p
  let as ← collectM (fun i => tryM (checked th .write n n (ad i).v)) out
  pure (as.filterMap fun a => match a with
    | .ok x => some x
    | .error _ => none)

/-- A vector store (R175 to R177). -/
def vstore (k : VAddr) (f : VF) (th : Thread) : M Unit := do
  let ty := f.ty.toNat
  let n := tyBytes ty
  let d ← readV th f.vd
  let ad ← vaddrs k f th
  let m := maskOf th f.msk
  let es ← cleanAddrs ad (m.elems ty)
  let pois := fun i => (d.elem ty i).p || m.poison
  eachM (fun (e : Nat × Word) => externalCheck th e.2 (pois e.1)) es
  let as ← collectM (fun (e : Nat × Word) => checked th .write n n e.2) es
  let left ← leftOut th ad m ty
  storeElems th.ctx ((es.zip as).map fun p => (p.2, (toBytes n (d.elem ty p.1.1).v).map fun b => (b, pois p.1.1))) left
  sinkM

/-- VLD. -/
def execVld (h : Hdr) (f : VF) (s : State) : Out := issueLong (.vld h f) h 0x53 0 8 s (vload .unit f)

/-- VLDS. -/
def execVlds (h : Hdr) (f : VF) (s : State) : Out := issueLong (.vlds h f) h 0x53 1 8 s (vload .strided f)

/-- VLDG. -/
def execVldg (h : Hdr) (f : VF) (s : State) : Out := issueLong (.vldg h f) h 0x53 2 8 s (vload .indexed f)

/-- VST. -/
def execVst (h : Hdr) (f : VF) (s : State) : Out := issue (.vst h f) h 0x54 0 8 s (vstore .unit f)

/-- VSTS. -/
def execVsts (h : Hdr) (f : VF) (s : State) : Out := issue (.vsts h f) h 0x54 1 8 s (vstore .strided f)

/-- VSTG. -/
def execVstg (h : Hdr) (f : VF) (s : State) : Out := issue (.vstg h f) h 0x54 2 8 s (vstore .indexed f)

end Sys2Proof.Machine
end

