-- ==== Sys2Proof/Machine/Transc.lean ====
section
/-!
DEFINITION. The correctly rounded F32 functions of R78 and the noise table of R79 and R80. Each function answers an exact value where the
result is one, and otherwise a value strictly between the same two neighbours of every rounding grid as the true result: the result's
leading bits, at least 128 of them, with an odd last bit that stands for what follows.
-/

namespace Sys2Proof.Machine

/-- The integer square root, found bit by bit from bit `k` down. -/
def isqrtFrom (n : Nat) : Nat → Nat → Nat
  | 0, r => if (r + 1) * (r + 1) ≤ n then r + 1 else r
  | k + 1, r => isqrtFrom n k (if (r + 2 ^ (k + 1)) * (r + 2 ^ (k + 1)) ≤ n then r + 2 ^ (k + 1) else r)

/-- The integer square root. -/
def isqrt (n : Nat) : Nat := isqrtFrom n (Nat.log2 n / 2 + 1) 0

/-- 1 / x (R78). -/
def FV.rcp : FV → FV
  | .nan => .nan
  | .inf n => .fin n 0 0
  | .fin n m e =>
    if m = 0 then .inf n
    else
      let k := 128 + Nat.log2 m
      .fin n (2 * (2 ^ k / m) + b2n (2 ^ k % m != 0)) (-(k : Int) - e - 1)

/-- A positive value with an even exponent. -/
def evenExp (m : Nat) (e : Int) : Nat × Int := if e % 2 = 0 then (m, e) else (2 * m, e - 1)

/-- The square root (R78). -/
def FV.sqrt : FV → FV
  | .nan => .nan
  | .inf n => if n then .nan else .inf false
  | .fin n m e =>
    if m = 0 then .fin n 0 0
    else if n then .nan
    else
      let p := evenExp m e
      let x := p.1 * 2 ^ 256
      let r := isqrt x
      .fin false (2 * r + b2n (r * r != x)) (p.2 / 2 - 129)

/-- 1 / the square root (R78). -/
def FV.rsq : FV → FV
  | .nan => .nan
  | .inf n => if n then .nan else .fin false 0 0
  | .fin n m e =>
    if m = 0 then .inf n
    else if n then .nan
    else
      let p := evenExp m e
      let k := 128 + Nat.log2 p.1
      let r := isqrt (2 ^ (2 * k) / p.1)
      .fin false (2 * r + b2n (r * r * p.1 != 2 ^ (2 * k))) (-(k : Int) - p.2 / 2 - 1)

/-- 2^f for f < 1 given by its low 256 bits, in units of 2^-320: a product of the roots of 2 that f's bits select. -/
def exp2Frac (f : Nat) : Nat :=
  ((upFrom 1 256).foldl (fun (s : Nat × Nat) i =>
    (if bit (256 - i) f then s.1 * s.2 / 2 ^ 320 else s.1, isqrt (s.2 * 2 ^ 320)))
    (2 ^ 320, isqrt (2 * 2 ^ 640))).1

/-- 2^x (R78). Magnitudes of 4096 and more are far outside the format. -/
def FV.exp2 : FV → FV
  | .nan => .nan
  | .inf n => if n then .fin false 0 0 else .inf false
  | .fin n m e =>
    if m ≠ 0 ∧ 12 ≤ (Nat.log2 m : Int) + e then .fin false 1 (if n then -4096 else 4096)
    else
      let x := scaled n m (e + 256) 0
      let i := x / (2 ^ 256 : Nat)
      let f := (x % (2 ^ 256 : Nat)).toNat
      if f = 0 then .fin false 1 i else .fin false (2 * exp2Frac f + 1) (i - 321)

/-- The first `k` fraction bits of log2 y by repeated squaring, for 1 ≤ y < 2 in units of 2^-640. -/
def log2Bits : Nat → Nat → Nat → Nat
  | 0, _, f => f
  | k + 1, y, f =>
    let q := y * y / 2 ^ 640
    if 2 ^ 641 ≤ q then log2Bits k (q / 2) (2 * f + 1) else log2Bits k q (2 * f)

/-- log2 of m × 2^e in units of 2^-200, rounded down, for m ≠ 0 below 2^640. -/
def log2Fix (m : Nat) (e : Int) : Int :=
  let l := Nat.log2 m
  ((l : Int) + e) * (2 ^ 200 : Nat) + (log2Bits 200 (m * 2 ^ (640 - l)) 0 : Nat)

/-- log2 x (R78). -/
def FV.log2 : FV → FV
  | .nan => .nan
  | .inf n => if n then .nan else .inf false
  | .fin n m e =>
    if m = 0 then .inf true
    else if n then .nan
    else if m = 2 ^ Nat.log2 m then intFV ((Nat.log2 m : Int) + e)
    else
      let t := 2 * log2Fix m e + 1
      .fin (decide (t < 0)) t.natAbs (-201)

/-- ln 2 in units of 2^-200. -/
def ln2Fix : Nat := (upFrom 1 260).foldl (fun s k => s + 2 ^ 260 / (k * 2 ^ k)) 0 / 2 ^ 60

/-- Entry g_k of the noise table (R79): −ln(−ln((k + 0.5) / 4096)) rounded to FP32. -/
def gumbelEntry (k : Nat) : Nat :=
  let y := (-(log2Fix (2 * k + 1) (-13))).toNat * ln2Fix / 2 ^ 200
  let g := -(log2Fix y (-200)) * (ln2Fix : Int) / (2 ^ 200 : Nat)
  let t := 2 * g + 1
  f32.round rne false (.fin (decide (t < 0)) t.natAbs (-201))

/-- The noise for a random word (R80). -/
def gumbel (w : Word) : Nat :=
  let u := w.toNat / 2 ^ 40
  let k := u / 4096
  let gk := gumbelEntry k
  if 4095 ≤ k then gk
  else
    let dk := f32.round rne false (FV.add false (f32.decode (gumbelEntry (k + 1))) (f32.decode gk).neg)
    f32.round rne false (FV.fma false (f32.decode dk) (.fin false (u % 4096) (-12)) (f32.decode gk))

end Sys2Proof.Machine
end

