-- ==== Sys2Proof/Machine/Vector.lean ====
section
/-!
DEFINITION. Vector instructions: majors 0x20 to 0x28 (R114 to R139).
-/

namespace Sys2Proof.Machine

/-- The result of a float operation: an overflow follows SAT, an infinite result stays infinite (R69 step 4, R126). -/
def roundArith (ty rm : Nat) (v : FV) : Nat :=
  match v with
  | .inf _ => (fmtOf (tyFloat ty)).round (.mode (rm % 4)) false v
  | _ => (fmtOf (tyFloat ty)).round (.mode (rm % 4)) (satOf rm) v

/-- The operations of major 0x20 (R124). -/
inductive VOp where
  | add | sub | mul | fma | fms | fnma | min_ | max_ | abs | neg | and_ | or_ | xor | shl | shr | sar
  deriving DecidableEq, Repr

/-- The exact integer result of the arithmetic operations (R124, R125). -/
def VOp.exact (op : VOp) (a b : Int) : Int :=
  match op with
  | .add => a + b
  | .sub => a - b
  | .mul => a * b
  | .min_ => if a ≤ b then a else b
  | .max_ => if a ≤ b then b else a
  | .abs => a.natAbs
  | .neg => -a
  | _ => 0

/-- An operation on raw integer elements of a type (R124, R125). -/
def VOp.int (op : VOp) (ty rm a b : Nat) : Nat :=
  let w := tyWidth ty
  let sh := b % w
  match op with
  | .and_ => a &&& b
  | .or_ => a ||| b
  | .xor => a ^^^ b
  | .shl => a * 2 ^ sh % 2 ^ w
  | .shr => a / 2 ^ sh
  | .sar => ofSigned w (toSigned w a / ((2 ^ sh : Nat) : Int))
  | _ => intToInt (ty != 7) w (satOf rm) (op.exact (tyInteger ty a) (tyInteger ty b))

/-- An operation on raw float elements of a type (R124, R126). -/
def VOp.float (op : VOp) (ty rm a b d : Nat) : Nat :=
  let f := fmtOf (tyFloat ty)
  let x := f.decode a
  let y := f.decode b
  let z := f.decode d
  let rdn := rm % 4 == 2
  let signOnly := fun (r : Nat) => if x = .nan then f.nanCode else r
  match op with
  | .add => roundArith ty rm (FV.add rdn x y)
  | .sub => roundArith ty rm (FV.add rdn x y.neg)
  | .mul => roundArith ty rm (FV.mul x y)
  | .fma => roundArith ty rm (FV.fma rdn x y z)
  | .fms => roundArith ty rm (FV.fma rdn x y z.neg)
  | .fnma => roundArith ty rm (FV.fma rdn x.neg y z)
  | .min_ => f.round rne false (FV.minmax false x y)
  | .max_ => f.round rne false (FV.minmax true x y)
  | .abs => signOnly (a % 2 ^ f.signBit)
  | .neg => signOnly (f.signed (!bit f.signBit a) (a % 2 ^ f.signBit))
  | _ => 0

/-- The operation reads B. -/
def VOp.binary : VOp → Bool
  | .abs => false
  | .neg => false
  | _ => true

/-- The operation reads the destination. -/
def VOp.fused : VOp → Bool
  | .fma => true
  | .fms => true
  | .fnma => true
  | _ => false

/-- An operation on raw elements (R124). -/
def VOp.eval (op : VOp) (ty rm a b d : Nat) : Nat :=
  if isIntTy ty then op.int ty rm a b else op.float ty rm a b d

/-- Major 0x20 (R123). Where several registers lie beyond the quota, VD, then VA, then VB is named (R122; DESIGN CHOICE, log entry 56). -/
def vArith (op : VOp) (f : VF) (th : Thread) : M Unit := do
  let ty := f.ty.toNat
  let vd ← readV th f.vd
  let va ← readV th f.va
  let b ← if op.binary then bOperand th f ty (tyWidth ty) else pure fun _ => { v := 0, p := false }
  let m := maskOf th f.msk
  writeV th f.vd (m.lanesIfPoisoned (tyCount ty)) ((m.elems ty).map fun i =>
    let a := va.elem ty i
    let d := vd.elem ty i
    let y := b i
    putTy ty i (op.eval ty f.rm.toNat a.v y.v d.v) (a.p || y.p || (op.fused && d.p)))

/-- VADD (R124). -/
def execVadd (h : Hdr) (f : VF) (s : State) : Out := issue (.vadd h f) h 0x20 0 8 s (vArith .add f)

/-- VSUB (R124). -/
def execVsub (h : Hdr) (f : VF) (s : State) : Out := issue (.vsub h f) h 0x20 1 8 s (vArith .sub f)

/-- VMUL (R124). -/
def execVmul (h : Hdr) (f : VF) (s : State) : Out := issue (.vmul h f) h 0x20 2 8 s (vArith .mul f)

/-- VFMA (R124). -/
def execVfma (h : Hdr) (f : VF) (s : State) : Out := issue (.vfma h f) h 0x20 3 8 s (vArith .fma f)

/-- VFMS (R124). -/
def execVfms (h : Hdr) (f : VF) (s : State) : Out := issue (.vfms h f) h 0x20 4 8 s (vArith .fms f)

/-- VFNMA (R124). -/
def execVfnma (h : Hdr) (f : VF) (s : State) : Out := issue (.vfnma h f) h 0x20 5 8 s (vArith .fnma f)

/-- VMIN (R124). -/
def execVmin (h : Hdr) (f : VF) (s : State) : Out := issue (.vmin h f) h 0x20 6 8 s (vArith .min_ f)

/-- VMAX (R124). -/
def execVmax (h : Hdr) (f : VF) (s : State) : Out := issue (.vmax h f) h 0x20 7 8 s (vArith .max_ f)

/-- VABS (R124). -/
def execVabs (h : Hdr) (f : VF) (s : State) : Out := issue (.vabs h f) h 0x20 8 8 s (vArith .abs f)

/-- VNEG (R124). -/
def execVneg (h : Hdr) (f : VF) (s : State) : Out := issue (.vneg h f) h 0x20 9 8 s (vArith .neg f)

/-- VAND (R124). -/
def execVand (h : Hdr) (f : VF) (s : State) : Out := issue (.vand h f) h 0x20 10 8 s (vArith .and_ f)

/-- VOR (R124). -/
def execVor (h : Hdr) (f : VF) (s : State) : Out := issue (.vor h f) h 0x20 11 8 s (vArith .or_ f)

/-- VXOR (R124). -/
def execVxor (h : Hdr) (f : VF) (s : State) : Out := issue (.vxor h f) h 0x20 12 8 s (vArith .xor f)

/-- VSHL (R124). -/
def execVshl (h : Hdr) (f : VF) (s : State) : Out := issue (.vshl h f) h 0x20 13 8 s (vArith .shl f)

/-- VSHR (R124). -/
def execVshr (h : Hdr) (f : VF) (s : State) : Out := issue (.vshr h f) h 0x20 14 8 s (vArith .shr f)

/-- VSAR (R124). -/
def execVsar (h : Hdr) (f : VF) (s : State) : Out := issue (.vsar h f) h 0x20 15 8 s (vArith .sar f)

/-- compare_cc of two raw elements (R127). -/
def vcmpHolds (cc : Cond) (ty a b : Nat) : Bool :=
  match FV.cmp (tyVal ty a) (tyVal ty b) with
  | none => cc == .ne
  | some c => match cc with
    | .eq => c == 0
    | .ne => c != 0
    | .lt => c == -1
    | .le => c != 1
    | .ltu => c == -1
    | .leu => c != 1

/-- Major 0x21 (R127). -/
def vCompare (cc : Cond) (f : VF) (th : Thread) : M Unit := do
  let ty := f.ty.toNat
  let va ← readV th f.va
  let b ← bOperand th f ty (tyWidth ty)
  let m := maskOf th f.msk
  let es := m.elems ty
  let bitsOf := fun i => if ty = 3 then 3 * 4 ^ i else 2 ^ i
  let r := es.foldl (fun n i => if vcmpHolds cc ty (va.elem ty i).v (b i).v then n + bitsOf i else n) 0
  writeX (xOf f.vd) { v := BitVec.ofNat 64 r, p := m.poison || es.any fun i => (va.elem ty i).p || (b i).p }

/-- VCMP.EQ (R127). -/
def execVcmpEq (h : Hdr) (f : VF) (s : State) : Out := issue (.vcmpEq h f) h 0x21 0 8 s (vCompare .eq f)

/-- VCMP.NE (R127). -/
def execVcmpNe (h : Hdr) (f : VF) (s : State) : Out := issue (.vcmpNe h f) h 0x21 1 8 s (vCompare .ne f)

/-- VCMP.LT (R127). -/
def execVcmpLt (h : Hdr) (f : VF) (s : State) : Out := issue (.vcmpLt h f) h 0x21 2 8 s (vCompare .lt f)

/-- VCMP.LE (R127). -/
def execVcmpLe (h : Hdr) (f : VF) (s : State) : Out := issue (.vcmpLe h f) h 0x21 3 8 s (vCompare .le f)

/-- VSEL: the mask selects (R128). Its poison reaches every element. -/
def vSelect (f : VF) (th : Thread) : M Unit := do
  let ty := f.ty.toNat
  let _ ← readV th f.vd
  let va ← readV th f.va
  let b ← bOperand th f ty (tyWidth ty)
  let m := maskOf th f.msk
  writeV th f.vd (m.lanesIfPoisoned (tyCount ty)) ((upFrom 0 (tyCount ty)).map fun i =>
    let e := if m.on ty i then va.elem ty i else b i
    putTy ty i e.v e.p)

/-- VSEL (R128). -/
def execVsel (h : Hdr) (f : VF) (s : State) : Out := issue (.vsel h f) h 0x22 0 8 s (vSelect f)

/-- convert to a TY code (R69). -/
def convTy (ty : Nat) (r : Rnd) (sat : Bool) (v : FV) : Nat :=
  if isIntTy ty then fvToInt (ty != 7) (tyWidth ty) r sat v else (fmtOf (tyFloat ty)).round r sat v

/-- convert to an FMT code (R69, R130). -/
def convFmt (fmt : Nat) (r : Rnd) (sat : Bool) (v : FV) : Nat :=
  if fmt = 9 then fvToInt true 8 r sat v else if fmt = 10 then fvToTern r v else (fmtOf fmt).round r sat v

/-- VCVT (R129, R130). -/
def vConvert (f : VF) (th : Thread) : M Unit := do
  let ty := f.ty.toNat
  let fmt := f.imm.toNat % 16
  let toTy := bit 7 f.imm.toNat
  let rm := f.rm.toNat
  let wide := ty == 3 || fmt == 0
  let _ ← readV th f.vd
  let va ← readV th f.va
  let m := maskOf th f.msk
  let n := if wide then 32 else 64
  let es := (upFrom 0 n).filter fun i => m.bitOn (if wide then 2 * i else i)
  let from_ := fun i => if toTy then va.packed fmt i else va.elem ty i
  let val := fun (c : Nat) => if toTy then elemVal fmt c else tyVal ty c
  let rnd := fun i => rndOf rm th.rngkey th.taskid.toNat i
  writeV th f.vd (if m.poison then (if toTy then elemLanes ty n else fmtLanes fmt n) else 0) (es.map fun i =>
    let a := from_ i
    if toTy then putTy ty i (convTy ty (rnd i) (satOf rm) (val a.v)) a.p
    else putFmt fmt i (convFmt fmt (rnd i) (satOf rm) (val a.v)) a.p)
  noteTern (toTy && fmt == 10 && es.any fun i => (from_ i).v == 2)
  advanceRng rm

/-- VCVT (R130). -/
def execVcvt (h : Hdr) (f : VF) (s : State) : Out := issue (.vcvt h f) h 0x23 0 8 s (vConvert f)

/-- VQUANT (R131): the two blocks' elements and scale codes. -/
def vQuantise (f : VF) (th : Thread) : M Unit := do
  let ty := f.ty.toNat
  let fmt := f.imm.toNat % 16
  let rm := f.rm.toNat
  let _ ← readV th f.vd
  let va ← readV th f.va
  let block := fun b => quantBlock fmt (satOf rm) ((upFrom (32 * b) 32).map fun i =>
    (tyVal ty (va.elem ty i).v, rndOf rm th.rngkey th.taskid.toNat i))
  let dirty := fun b => (upFrom (32 * b) 32).any fun i => (va.elem ty i).p
  let b0 := block 0
  let b1 := block 1
  let codes := b0.2 ++ b1.2
  writeV th f.vd 0 ((upFrom 0 64).map fun i => putFmt fmt i (codes.getD i 0) (dirty (i / 32)))
  writeX f.xs { v := BitVec.ofNat 64 (b1.1 * 256 + b0.1), p := dirty 0 || dirty 1 }
  advanceRng rm

/-- VQUANT (R131). -/
def execVquant (h : Hdr) (f : VF) (s : State) : Out := issue (.vquant h f) h 0x24 0 8 s (vQuantise f)

/-- The exact value of a block-scaled element (R66). -/
def scaledElem (fmt code scale : Nat) : FV :=
  match e8m0 scale with
  | none => .nan
  | some k => (elemVal fmt code).scale (if fmt = 9 then k - 6 else k)

/-- VDEQ (R132). -/
def vDequantise (f : VF) (th : Thread) : M Unit := do
  let ty := f.ty.toNat
  let fmt := f.imm.toNat % 16
  let rm := f.rm.toNat
  let _ ← readV th f.vd
  let va ← readV th f.va
  let xc := src th f.xs
  writeV th f.vd 0 ((upFrom 0 64).map fun i =>
    let a := va.packed fmt i
    let c := (xc.v.toNat / 256 ^ (i / 32)) % 256
    putTy ty i (convTy ty (rndOf rm th.rngkey th.taskid.toNat i) (satOf rm) (scaledElem fmt a.v c)) (a.p || xc.p))
  noteTern (fmt == 10 && (upFrom 0 64).any fun i => (va.packed fmt i).v == 2)
  advanceRng rm

/-- VDEQ (R132). -/
def execVdeq (h : Hdr) (f : VF) (s : State) : Out := issue (.vdeq h f) h 0x24 1 8 s (vDequantise f)

/-- One level of the reduction tree (R134); none stands for NONE. -/
def treeLevel {α : Type} (comb : α → α → α) : List (Option α) → List (Option α)
  | a :: b :: t => (match a, b with
    | some x, some y => some (comb x y)
    | some x, none => some x
    | none, y => y) :: treeLevel comb t
  | l => l

/-- The fixed tree of R134 over `2^n` nodes. -/
def treeReduce {α : Type} (comb : α → α → α) : Nat → List (Option α) → Option α
  | 0, l => l.head?.getD none
  | n + 1, l => treeReduce comb n (treeLevel comb l)

/-- Levels of the tree for a type. -/
def treeDepth (ty : Nat) : Nat := if ty = 3 then 5 else 6

/-- The leaves of a reduction: the enabled elements' codes (R134). -/
def leavesOf (va : VSrc) (m : VMask) (ty : Nat) : List (Option Nat) :=
  (upFrom 0 (tyCount ty)).map fun i => if m.on ty i then some (va.elem ty i).v else none

/-- The poison of a reduction's result (R404). -/
def redPoison (va : VSrc) (m : VMask) (ty : Nat) : Bool := m.poison || (m.elems ty).any fun i => (va.elem ty i).p

/-- VRED.SUM of leaves (R135). -/
def redSum (ty rm : Nat) (l : List (Option Nat)) : Word :=
  if isIntTy ty then
    let s := (treeReduce (fun x y => (x + y) % 2 ^ 32) (treeDepth ty) (l.map fun o => o.map fun c =>
      ofSigned 32 (tyInteger ty c))).getD 0
    if ty = 7 then zext64 32 s else sext64 32 s
  else
    let f := if ty = 3 then f64 else f32
    let add := fun x y => f.round (.mode (rm % 4)) false (FV.add (rm % 4 == 2) (f.decode x) (f.decode y))
    BitVec.ofNat 64 ((treeReduce add (treeDepth ty) (l.map fun o => o.map fun c => f.round rne false (tyVal ty c))).getD 0)

/-- VRED.MAX and VRED.MIN of leaves (R135). -/
def redExt (big : Bool) (ty : Nat) (l : List (Option Nat)) : Word :=
  if isIntTy ty then
    let w := tyWidth ty
    let r := treeReduce (fun x y => if decide (tyInteger ty x ≤ tyInteger ty y) != big then x else y) (treeDepth ty) l
    let e := ofSigned w (if big then intLo (ty != 7) w else intHi (ty != 7) w)
    if ty = 7 then zext64 w (r.getD e) else sext64 w (r.getD e)
  else
    let f := fmtOf (tyFloat ty)
    let r := treeReduce (FV.minmax big) (treeDepth ty) (l.map fun o => o.map fun c => tyVal ty c)
    BitVec.ofNat 64 (f.round rne false (r.getD (.inf big)))

/-- VRED.ARGMAX (R135): the winning index, or none. -/
def redArg (ty : Nat) (l : List (Option Nat)) : Option Nat :=
  let leaf := fun (p : Option Nat × Nat) => match p.1 with
    | none => none
    | some c => if tyVal ty c = .nan then none else some (tyVal ty c, p.2)
  (treeReduce (fun (x y : FV × Nat) => if FV.below x.1 y.1 then y else x) (treeDepth ty)
    ((l.zip (upFrom 0 l.length)).map leaf)).map (·.2)

/-- Major 0x25 (R133 to R135). -/
def vReduce (res : VSrc → Nat → List (Option Nat) → Word) (f : VF) (th : Thread) : M Unit := do
  let ty := f.ty.toNat
  let va ← readV th f.va
  let m := maskOf th f.msk
  writeX (xOf f.vd) { v := res va ty (leavesOf va m ty), p := redPoison va m ty }

/-- The X result of ARGMAX: the winning lane as held and its index (R135). -/
def argWord (va : VSrc) (ty : Nat) (l : List (Option Nat)) : Word :=
  match redArg ty l with
  | none => 0xFFFFFFFF#64
  | some i => BitVec.ofNat 64 ((va.lanes 1 i).v * 2 ^ 32 + i)

/-- VRED.SUM (R135). -/
def execVredSum (h : Hdr) (f : VF) (s : State) : Out :=
  issue (.vredSum h f) h 0x25 0 8 s (vReduce (fun _ ty l => redSum ty f.rm.toNat l) f)

/-- VRED.MAX (R135). -/
def execVredMax (h : Hdr) (f : VF) (s : State) : Out :=
  issue (.vredMax h f) h 0x25 1 8 s (vReduce (fun _ ty l => redExt true ty l) f)

/-- VRED.MIN (R135). -/
def execVredMin (h : Hdr) (f : VF) (s : State) : Out :=
  issue (.vredMin h f) h 0x25 2 8 s (vReduce (fun _ ty l => redExt false ty l) f)

/-- VRED.ARGMAX (R135). -/
def execVredArgmax (h : Hdr) (f : VF) (s : State) : Out := issue (.vredArgmax h f) h 0x25 3 8 s (vReduce argWord f)

/-- Element width in lanes for the permutes: 2 for F64, else 1 (R136). -/
def permLanes (ty : Nat) : Nat := if ty = 3 then 2 else 1

/-- The enabled elements of a permute, each given its new contents or none to leave it (R136). -/
def vMove (f : VF) (th : Thread) (new : Nat → Option PNat) : M Unit := do
  let ty := f.ty.toNat
  let m := maskOf th f.msk
  let k := permLanes ty
  writeV th f.vd (m.lanesIfPoisoned (tyCount ty)) ((m.elems ty).filterMap fun i =>
    (new i).map fun e => ({ lo := 32 * k * i, w := 32 * k, v := e.v, p := e.p } : Put))

/-- VPERM: the index is an element of VB; its poison reaches the element it chooses for. -/
def vPermute (f : VF) (th : Thread) : M Unit := do
  let k := permLanes f.ty.toNat
  let n := tyCount f.ty.toNat
  let _ ← readV th f.vd
  let va ← readV th f.va
  let vb ← readV th f.vb
  vMove f th fun i =>
    let x := vb.lanes k i
    let e := va.lanes k (x.v % 64 % n)
    some { v := e.v, p := e.p || x.p }

/-- VBCAST (R136). -/
def vBroadcast (f : VF) (th : Thread) : M Unit := do
  let _ ← readV th f.vd
  let b ← bOperand th f (if f.ty = 3 then 3 else 4) (32 * permLanes f.ty.toNat)
  vMove f th fun i => some (b i)

/-- The slide amount k, element by element (R136). -/
def slideBy (f : VF) (th : Thread) : M (Nat → PNat) := do
  let b ← bOperand th f (if f.ty = 3 then 3 else 4) (32 * permLanes f.ty.toNat)
  pure fun i => { v := (b i).v % tyCount f.ty.toNat, p := (b i).p }

/-- VSLUP (R136). -/
def vSlideUp (f : VF) (th : Thread) : M Unit := do
  let k := permLanes f.ty.toNat
  let _ ← readV th f.vd
  let va ← readV th f.va
  let b ← slideBy f th
  vMove f th fun i =>
    if (b i).v ≤ i then
      let e := va.lanes k (i - (b i).v)
      some { v := e.v, p := e.p || (b i).p }
    else none

/-- VSLDN (R136). -/
def vSlideDown (f : VF) (th : Thread) : M Unit := do
  let k := permLanes f.ty.toNat
  let n := tyCount f.ty.toNat
  let _ ← readV th f.vd
  let va ← readV th f.va
  let b ← slideBy f th
  vMove f th fun i =>
    if i + (b i).v < n then
      let e := va.lanes k (i + (b i).v)
      some { v := e.v, p := e.p || (b i).p }
    else some { v := 0, p := (b i).p }

/-- VIOTA (R136). -/
def vIota (f : VF) (th : Thread) : M Unit := do
  let _ ← readV th f.vd
  let b ← bOperand th f 4 32
  vMove f th fun i => some { v := ((b i).v + i) % 2 ^ 32, p := (b i).p }

/-- VMOVX (R136). -/
def vMoveX (f : VF) (th : Thread) : M Unit := do
  let va ← readV th f.va
  let e := va.lanes (permLanes f.ty.toNat) (f.imm.toNat % 64)
  writeX (xOf f.vd) { v := BitVec.ofNat 64 e.v, p := e.p }

/-- VMOVV (R136). -/
def vMoveV (f : VF) (th : Thread) : M Unit := do
  let _ ← readV th f.vd
  let va ← readV th f.va
  vMove f th fun i => some (va.lanes (permLanes f.ty.toNat) i)

/-- VPERM (R136). -/
def execVperm (h : Hdr) (f : VF) (s : State) : Out := issue (.vperm h f) h 0x26 0 8 s (vPermute f)

/-- VBCAST (R136). -/
def execVbcast (h : Hdr) (f : VF) (s : State) : Out := issue (.vbcast h f) h 0x26 1 8 s (vBroadcast f)

/-- VSLUP (R136). -/
def execVslup (h : Hdr) (f : VF) (s : State) : Out := issue (.vslup h f) h 0x26 2 8 s (vSlideUp f)

/-- VSLDN (R136). -/
def execVsldn (h : Hdr) (f : VF) (s : State) : Out := issue (.vsldn h f) h 0x26 3 8 s (vSlideDown f)

/-- VIOTA (R136). -/
def execViota (h : Hdr) (f : VF) (s : State) : Out := issue (.viota h f) h 0x26 4 8 s (vIota f)

/-- VMOVX (R136). -/
def execVmovx (h : Hdr) (f : VF) (s : State) : Out := issue (.vmovx h f) h 0x26 5 8 s (vMoveX f)

/-- VMOVV (R136). -/
def execVmovv (h : Hdr) (f : VF) (s : State) : Out := issue (.vmovv h f) h 0x26 6 8 s (vMoveV f)

/-- The scale codes of output block `m` of a dot product, with their poison (R137, R138). -/
def dotScales (f : VF) (th : Thread) (m : Nat) : Option (Nat × Nat) × Bool :=
  if f.xs = 10 then (none, false)
  else
    let a := th.xreg f.xs.toNat
    let b := th.xreg (f.xs.toNat + 1)
    (some ((a.v.toNat / 256 ^ m) % 256, (b.v.toNat / 256 ^ m) % 256), a.p || b.p)

/-- VDOT8 (R137). -/
def vDot8 (f : VF) (th : Thread) : M Unit := do
  let fa := f.imm.toNat % 16
  let fb := f.imm.toNat / 16
  let vd ← readV th f.vd
  let va ← readV th f.va
  let vb ← readV th f.vb
  let m := maskOf th f.msk
  let js := (upFrom 0 16).filter m.bitOn
  let one := fun j =>
    let ks := upFrom (16 * j) 16
    let sc := dotScales f th (j / 2)
    let ps := ks.map fun k => FV.mul (elemVal fa (va.packed fa k).v) (elemVal fb (vb.packed fb k).v)
    let d := vd.elem 0 j
    (groupStep 18 ps sc.1 d.v, d.p || sc.2 || ks.any fun k => (va.packed fa k).p || (vb.packed fb k).p)
  writeV th f.vd (if m.poison then 0xFFFF#64 else 0) (js.map fun j => putTy 0 j (one j).1.1 (one j).2)
  noteOvf (js.any fun j => (one j).1.2)

/-- The block sum of VDOTI8 and its scaled contribution (R73): one 2^-6 for each INT8 operand. -/
def dotI8 (fa : Nat) (sum : Int) (sc : Option (Nat × Nat)) (acc : Nat) : Nat × Bool :=
  match sc with
  | none => (ofSigned 32 (toSigned 32 acc + sum), false)
  | some (a, b) =>
    if a = 0xFF ∨ b = 0xFF then (f32.nanCode, false)
    else accumulate acc ((intFV sum).scale ((a : Int) + (b : Int) - 254 - (if fa = 9 then 12 else 6)))

/-- The integer value of an INT8 or TERN code (R65, R66). -/
def intElem (fmt c : Nat) : Int := if fmt = 9 then toSigned 8 c else (ternVal c).1

/-- VDOTI8 (R138). -/
def vDotI8 (f : VF) (th : Thread) : M Unit := do
  let fa := f.imm.toNat % 16
  let vd ← readV th f.vd
  let va ← readV th f.va
  let vb ← readV th f.vb
  let m := maskOf th f.msk
  let js := (upFrom 0 8).filter m.bitOn
  let one := fun j =>
    let ks := upFrom (32 * j) 32
    let sc := dotScales f th j
    let sum := ks.foldl (fun t k => t + intElem fa (va.packed fa k).v * intElem 9 (vb.packed 9 k).v) 0
    let d := vd.elem 0 j
    (dotI8 fa sum sc.1 d.v, d.p || sc.2 || ks.any fun k => (va.packed fa k).p || (vb.packed 9 k).p)
  writeV th f.vd (if m.poison then 0xFF#64 else 0) (js.map fun j => putTy 0 j (one j).1.1 (one j).2)
  noteOvf (js.any fun j => (one j).1.2)
  noteTern (fa == 10 && js.any fun j => (upFrom (32 * j) 32).any fun k => (va.packed fa k).v == 2)

/-- VDOT8 (R137). -/
def execVdot8 (h : Hdr) (f : VF) (s : State) : Out := issue (.vdot8 h f) h 0x27 0 8 s (vDot8 f)

/-- VDOTI8 (R138). -/
def execVdoti8 (h : Hdr) (f : VF) (s : State) : Out := issue (.vdoti8 h f) h 0x27 1 8 s (vDotI8 f)

/-- Major 0x28 (R139): the enabled elements wait in the latch; disabled ones keep what VD holds at the close (R122). -/
def vTranscendental (fn : FV → FV) (f : VF) (th : Thread) : M Opening := do
  let _ ← readV th f.vd
  let va ← readV th f.va
  let m := maskOf th f.msk
  let es := m.elems 0
  let ps := es.map fun i =>
    let a := va.elem 0 i
    putTy 0 i (f32.round rne false (fn (f32.decode a.v))) a.p
  pure { latch := [latchV (th.vbase + f.vd.toNat) (if m.poison then lanesBelow 64 else 0) ps] }

/-- VRCP (R139). -/
def execVrcp (h : Hdr) (f : VF) (s : State) : Out := issueLong (.vrcp h f) h 0x28 0 8 s (vTranscendental FV.rcp f)

/-- VRSQ (R139). -/
def execVrsq (h : Hdr) (f : VF) (s : State) : Out := issueLong (.vrsq h f) h 0x28 1 8 s (vTranscendental FV.rsq f)

/-- VSQRT (R139). -/
def execVsqrt (h : Hdr) (f : VF) (s : State) : Out := issueLong (.vsqrt h f) h 0x28 2 8 s (vTranscendental FV.sqrt f)

/-- VEXP2 (R139). -/
def execVexp2 (h : Hdr) (f : VF) (s : State) : Out := issueLong (.vexp2 h f) h 0x28 3 8 s (vTranscendental FV.exp2 f)

/-- VLOG2 (R139). -/
def execVlog2 (h : Hdr) (f : VF) (s : State) : Out := issueLong (.vlog2 h f) h 0x28 4 8 s (vTranscendental FV.log2 f)

end Sys2Proof.Machine
end

