-- ==== Sys2Proof/Machine/Rep.lean ====
section
/-!
DEFINITION. The repetition buffer, major 0x6A, and its running sequence (R272 to R276).
-/

namespace Sys2Proof.Machine

/-! A captured instruction as an iteration issues it (R274) -/

/-- The instruction of one iteration: its word, the X registers that it reads, and the V numbers that its fields name. -/
structure SeqInstr where
  word : Nat
  xs : List PWord
  vnums : List Nat

/-- The captured value of an X code. -/
def seqX (xs : List PWord) (c : Nat) : PWord := if c ≤ 9 then xs.getD c (clean 0) else clean 0

/-- A value increased, poison joined. -/
def PWord.plus (a : PWord) (b : PWord) : PWord := { v := a.v + b.v, p := a.p || b.p }

/-- The step of an address operand after `i` iterations (R274). -/
def RepBuf.offset (r : RepBuf) (i : Nat) : PWord := { r.step with v := BitVec.ofNat 64 i * r.step.v }

/-- An X number that an instruction does not use, which holds a changed operand. -/
def spareX (used : List Nat) : Nat := ((upFrom 0 10).find? fun c => !used.contains c).getD 0

/-- The V fields that an instruction of format V has: VD, VA, VB (R119, R175). -/
def vFields (op fn xs : Nat) : Bool × Bool × Bool :=
  let mem := op == 0x53 || op == 0x54
  (op != 0x21 && op != 0x25 && !(op == 0x26 && fn == 5),
   !mem && !(op == 0x26 && (fn == 1 || fn == 4)),
   (xs == 10 && (op == 0x20 || op == 0x21 || op == 0x22 || (op == 0x26 && fn != 5 && fn != 6))) || (op == 0x26 && fn == 0) || op == 0x27
     || (mem && fn == 2))

/-- An instruction of format V in iteration `i`. -/
def RepBuf.seqV (r : RepBuf) (i : Nat) (w : Nat) : SeqInstr :=
  match unpack vWidths w with
  | [len, op, _, _, la, vd, va, xs, vb, msk, ty, fn, rm, imm] =>
    let u := vFields op fn xs
    let k := i * r.sv
    let up := fun (b : Bool) (n : Nat) => if b then n + k else n
    let mem := op == 0x53 || op == 0x54
    let x := if mem then spareX [msk, if fn = 1 then vb else 10] else xs
    let regs := if mem then setNth ((seqX r.xs xs).plus (r.offset i)) x r.xs else r.xs
    { word := pack (vWidths.zip [len, op, 0, 0, la, up u.1 vd % 32, up u.2.1 va % 32, x, up u.2.2 vb % 32, msk, ty, fn, rm, imm])
      xs := regs
      vnums := (if u.1 then [vd + k] else []) ++ (if u.2.1 then [va + k] else []) ++ (if u.2.2 then [vb + k] else []) }
  | _ => { word := w, xs := r.xs, vnums := [] }

/-- An instruction of format M in iteration `i`: ROWB moves for an MMA, XA and XQ for both. -/
def RepBuf.seqM (r : RepBuf) (i : Nat) (w : Nat) : SeqInstr :=
  match unpack mWidths w with
  | [len, op, _, _, la, xa, xs, xq, z, fn, fmt, sc, z', rowb, rown, imm, z''] =>
    let row := if op = 0x42 then (rowb + i * r.sr) % 256 else rowb
    { word := pack (mWidths.zip [len, op, 0, 0, la, 0, 1, if sc = 1 then 2 else xq, z, fn, fmt, sc, z', row, rown, imm, z''])
      xs := [(seqX r.xs xa).plus (r.offset i), seqX r.xs xs, (seqX r.xs xq).plus (r.offset i)] ++ r.xs.drop 3
      vnums := [] }
  | _ => { word := w, xs := r.xs, vnums := [] }

/-- An instruction of major 0x43 in iteration `i`: the row of AZERO, AREAD and AWRITE, and the V field of the latter two. -/
def RepBuf.seqS (r : RepBuf) (i : Nat) (w : Nat) : SeqInstr :=
  match unpack sWidths w with
  | [len, op, _, _, la, d, a, b, sz, fn, fl, imm] =>
    let rows := fn == 0 || fn == 2 || fn == 3
    let v := fn == 2 || fn == 3
    let row := imm / 256 * 256 + (imm + i * r.sr) % 256
    { word := pack (sWidths.zip [len, op, 0, 0, la, d, a, b, sz, fn, if v then (fl + i * r.sv) % 32 else fl, if rows then row else imm])
      xs := r.xs
      vnums := if v then [fl + i * r.sv] else [] }
  | _ => { word := w, xs := r.xs, vnums := [] }

/-- A kick or abort in iteration `i`: the template index of BTX moves. -/
def RepBuf.seqE (r : RepBuf) (i : Nat) (w : Nat) : SeqInstr :=
  match unpack eWidths w with
  | [len, op, _, _, la, d, a, b, sz, fn, fl, imm, tail] =>
    if fn = 0 then
      let x := spareX [a]
      let v := (if b = 11 then clean (sext64 16 imm) else seqX r.xs b).plus (clean (BitVec.ofNat 64 i))
      { word := pack (eWidths.zip [len, op, 0, 0, la, d, a, x, sz, fn, fl, 0, tail]), xs := setNth v x r.xs, vnums := [] }
    else { word := pack (eWidths.zip [len, op, 0, 0, la, d, a, b, sz, fn, fl, imm, tail]), xs := r.xs, vnums := [] }
  | _ => { word := w, xs := r.xs, vnums := [] }

/-- A captured instruction in iteration `i` (R274). -/
def RepBuf.instr (r : RepBuf) (c : Captured) (i : Nat) : SeqInstr :=
  let op := bits 8 2 c.word
  if op = 0x68 then r.seqE i c.word
  else if op = 0x43 then r.seqS i c.word
  else if op = 0x41 ∨ op = 0x42 then r.seqM i c.word
  else r.seqV i c.word

/-- The X register that an instruction of a sequence writes in its own issue, not through a latch (R127, R131, R133, R136). -/
def seqDest (w : Nat) : Option Nat :=
  match unpack vWidths w with
  | [_, op, _, _, _, vd, _, xs, _, _, _, fn, _, _] =>
    if op = 0x21 ∨ op = 0x25 ∨ (op = 0x26 ∧ fn = 5) then (if vd % 16 ≤ 9 then some (vd % 16) else none)
    else if op = 0x24 ∧ fn = 0 ∧ xs ≤ 9 then some xs else none
  | _ => none

/-- The meanings of the capturable instructions (R273). -/
def seqExec (i : Instr) (s : State) : Out :=
  match i with
  | .vadd h f => execVadd h f s
  | .vsub h f => execVsub h f s
  | .vmul h f => execVmul h f s
  | .vfma h f => execVfma h f s
  | .vfms h f => execVfms h f s
  | .vfnma h f => execVfnma h f s
  | .vmin h f => execVmin h f s
  | .vmax h f => execVmax h f s
  | .vabs h f => execVabs h f s
  | .vneg h f => execVneg h f s
  | .vand h f => execVand h f s
  | .vor h f => execVor h f s
  | .vxor h f => execVxor h f s
  | .vshl h f => execVshl h f s
  | .vshr h f => execVshr h f s
  | .vsar h f => execVsar h f s
  | .vcmpEq h f => execVcmpEq h f s
  | .vcmpNe h f => execVcmpNe h f s
  | .vcmpLt h f => execVcmpLt h f s
  | .vcmpLe h f => execVcmpLe h f s
  | .vsel h f => execVsel h f s
  | .vcvt h f => execVcvt h f s
  | .vquant h f => execVquant h f s
  | .vdeq h f => execVdeq h f s
  | .vredSum h f => execVredSum h f s
  | .vredMax h f => execVredMax h f s
  | .vredMin h f => execVredMin h f s
  | .vredArgmax h f => execVredArgmax h f s
  | .vperm h f => execVperm h f s
  | .vbcast h f => execVbcast h f s
  | .vslup h f => execVslup h f s
  | .vsldn h f => execVsldn h f s
  | .viota h f => execViota h f s
  | .vmovx h f => execVmovx h f s
  | .vmovv h f => execVmovv h f s
  | .vdot8 h f => execVdot8 h f s
  | .vdoti8 h f => execVdoti8 h f s
  | .vrcp h f => execVrcp h f s
  | .vrsq h f => execVrsq h f s
  | .vsqrt h f => execVsqrt h f s
  | .vexp2 h f => execVexp2 h f s
  | .vlog2 h f => execVlog2 h f s
  | .wload h f => execWload h f s
  | .mma h f => execMma h f s
  | .mmaAcc h f => execMmaAcc h f s
  | .azero h f => execAzero h f s
  | .aswap h f => execAswap h f s
  | .aread h f => execAread h f s
  | .awrite h f => execAwrite h f s
  | .astat h f => execAstat h f s
  | .vld h f => execVld h f s
  | .vlds h f => execVlds h f s
  | .vldg h f => execVldg h f s
  | .vst h f => execVst h f s
  | .vsts h f => execVsts h f s
  | .vstg h f => execVstg h f s
  | .btx h f => execBtx h f s
  | .btabort h f => execBtabort h f s
  | _ => .next s

/-! The thread of a sequence -/

/-- Where the thread of a running sequence is: in a slot or a service slot, or on the core with no slot, in its run queue or asleep on a berth that it
has taken with a form that takes no boundary (R13, R217, R275). -/
inductive SeqWhere where
  | slot (l : Loc)
  | away
  deriving DecidableEq, Repr

/-- A thread is that of a sequence. -/
def RepBuf.isOf (r : RepBuf) (th : Thread) : Bool := r.owner == some th.task && r.svc == th.svc

/-- A slot holds the thread of a sequence. -/
def RepBuf.holds (r : RepBuf) (x : Slot) : Bool := x.th.any r.isOf

/-- The thread of a core's sequence and where it is. -/
def State.seqThread (s : State) (core : Nat) : Option (SeqWhere × Thread) :=
  let c := s.core core
  let r := c.rpt
  if r.svc then
    let q := s.quay (quayOf core)
    (firstIdx (fun (x : SvcSlot) => r.holds x.slot) q.svc).bind fun i =>
      ((q.svcAt i).slot.th).map fun th => (.slot { svc := true, unit := quayOf core, slot := i }, th)
  else
    match firstIdx r.holds (c.slots.take 16) with
    | some i => ((slotAt c.slots i).th).map fun th => (.slot { svc := false, unit := core, slot := i }, th)
    | none => (c.away.find? r.isOf).map fun th => (.away, th)

/-- The thread of a sequence changed, and with it the copy that a wait list holds of a handler asleep in its service slot. -/
def State.updSeq (s : State) (core : Nat) (w : SeqWhere) (f : Thread → Thread) : State :=
  let r := (s.core core).rpt
  let s1 := match w with
    | .slot l => if l.svc then s.setSlot l { s.slot l with th := (s.slot l).th.map f } else s
    | .away => s
  s1.updCore core fun c => c.mapThreads fun th => if r.isOf th then f th else th

/-- The sequence's place given up. -/
def State.dropSeqSlot (s : State) (core : Nat) : State := s.updCore core fun c => { c with slots := c.slots.take 16 }

/-- The buffer freed, with those who wait for its sequence let go (R275, R276). -/
def State.endSequence (s : State) (core : Nat) : State :=
  let wake := fun (x : Slot) => if x.stall = some Stall.sequence then { x with stall := none } else x
  let s1 := s.updCore core fun c => { c with rpt := {}, slots := (c.slots.take 16).map wake }
  if core % 32 = 31 then s1.updQuay (quayOf core) fun q => { q with svc := q.svc.map fun x => { x with slot := wake x.slot } } else s1

/-! One instruction of a sequence -/

/-- What one step of a sequence finds. -/
inductive SeqResult where
  | done (s : State)
  | pending (s : State)
  | blocked (why : Stall) (s : State)
  | trapped (cause : Nat) (eval : Word) (s : State)

/-- The position of a sequence after its present instruction; the buffer is freed after the last (R276). -/
def State.seqAdvance (s : State) (core : Nat) : State :=
  let r := (s.core core).rpt
  if r.pos + 1 < r.body.length then s.updCore core fun c => { c with rpt := { r with pos := r.pos + 1 } }
  else if r.iter + 1 < r.n then s.updCore core fun c => { c with rpt := { r with pos := 0, iter := r.iter + 1 } }
  else s.endSequence core

/-- The results of a sequence's instruction taken over by its thread: it opened no window of the thread's own (R275). One that is `fresh`, whose
step this is, has advanced RNGKEY where it draws from it (R70); an MMA that has waited for its gang draws nothing. -/
def State.absorb (s : State) (core : Nat) (w : SeqWhere) (word : Nat) (fresh : Bool) : State :=
  let x := slotAt (s.core core).slots 16
  let s1 := (x.wins.flatMap (·.latch)).foldl (fun t a =>
    match a with
    | .x r v => t.updSeq core w fun th => th.setX r v
    | .p i b => t.updSeq core w fun th => th.setP i b
    | .v .. => t.land (seqLoc core) a) s
  let s2 := match x.th with
    | some v => s1.updSeq core w fun th =>
        let th1 := if fresh then { th with rngkey := v.rngkey } else th
        match seqDest word with
        | some r => th1.setX r (v.xreg r)
        | none => th1
    | none => s1
  s2.dropSeqSlot core

/-- What has become of the instruction at the sequence's place, in its own step or, not `fresh`, after a wait. -/
def State.seqOutcome (s : State) (core : Nat) (w : SeqWhere) (word : Nat) (fresh : Bool) : SeqResult :=
  let x := slotAt (s.core core).slots 16
  let ended := if x.count = 0 then SeqResult.blocked .overlap (s.dropSeqSlot core) else .done ((s.absorb core w word fresh).seqAdvance core)
  match x.stall with
  | none => ended
  | some .gangMma => .pending s
  | some .trapped => .trapped ((x.th.map (·.cause)).getD 0) ((x.th.map (·.eval)).getD 0) (s.dropSeqSlot core)
  | some y => .blocked y (s.dropSeqSlot core)

/-- The thread as an instruction of its sequence sees it: the X registers that REPE read, the address of the captured instruction. -/
def seqThreadOf (th : Thread) (a : SeqInstr) (c : Captured) : Thread :=
  { th with
    x := Vector.ofFn fun i => (a.xs.getD i.val (clean 0)).v
    xp := BitVec.ofNat 10 ((upFrom 0 10).foldr (fun i n => 2 * n + b2n (a.xs.getD i (clean 0)).p) 0)
    pc := c.pc }

/-- The present instruction of a sequence issued, or looked at again where it waits for its gang (R156, R275); `ill` is EVAL of an
ILLEGAL. -/
def State.seqStep (s : State) (core : Nat) (ill : Word) : SeqResult :=
  let r := (s.core core).rpt
  match s.seqThread core, r.body[r.pos]? with
  | some (w, th), some c =>
    let a := r.instr c r.iter
    if 16 < (s.core core).slots.length then s.seqOutcome core w a.word false
    else match a.vnums.find? fun n => decide (32 ≤ n) with
      | some n => .trapped cVREG_QUOTA (BitVec.ofNat 64 n) s
      | none =>
        match decodeBits a.word with
        | .error _ => .trapped cILLEGAL ill s
        | .ok i =>
          let s1 := s.updCore core fun k => { k with slots := k.slots ++ [{ th := some (seqThreadOf th a c) }], rpt := {} }
          match seqExec i { s1 with cur := seqLoc core, prompt := true } with
          | .next t =>
            { t.updCore core (fun k => { k with rpt := r }) with cur := s.cur, prompt := s.prompt }.seqOutcome core w a.word true
          | _ => .blocked .overlap s
  | _, _ => .done (s.endSequence core)

/-! The check of REPE (R274) -/

/-- The answer of REPE's check. -/
inductive SeqCheck where
  | passed
  | failed (cause : Nat) (eval : Word)
  | waits (s : State)

/-- The instructions of a sequence tried in order on a state that is thrown away; a wait for a host page is reported, and every other wait
is no failure. -/
def seqTry (core : Nat) (ill : Word) : Nat → State → SeqCheck
  | 0, _ => .passed
  | n + 1, s =>
    if (s.core core).rpt.running then
      match s.seqStep core ill with
      | .done t => seqTry core ill n t
      | .trapped c e _ => .failed c e
      | .blocked .ats t => .waits t
      | .blocked _ t => seqTry core ill n ((t.updCore core fun c => { c with rpt := (s.core core).rpt }).seqAdvance core)
      | .pending t => seqTry core ill n ((t.dropSeqSlot core).seqAdvance core)
    else .passed

/-- The state in which REPE's check tries the sequence: the core stands alone in its gang, whose other members are checked at their own
REPE, unless the gang dissolves; and nothing waits for the end of a pair interval. -/
def State.aloneInGang (s : State) (core : Nat) : State :=
  s.updGang (gangOf core) fun g => { g with joined := if g.dissolving then g.joined else 0, paired := false }

/-! The instructions -/

/-- REPB (R273). -/
def execRepb (h : Hdr) (f : SF) (s : State) : Out :=
  issue (.repb h f) h 0x6A 0 8 s fun th => do
    let s ← getS
    if (s.core s.here).rpt.owner.isSome then writeP f.d.toNat false
    else do
      modS fun s => s.updCore s.here fun c => { c with rpt := { owner := some th.task, svc := th.svc } }
      writeP f.d.toNat true

/-- A trap of REPE, which keeps the capture (R274). -/
def repTrap {α : Type} (th : Thread) (cause : Nat) (eval : Word) : M α := do
  let s ← getS
  let core := s.here
  let r := (s.core core).rpt
  setS (if cause = cPOISON_USE ∨ th.svc then s.trapEnter s.cur cause eval
    else (s.trapEnter s.cur cause eval).updCore core fun c => { c with rpt := r })
  goneM

/-- REPE (R274). -/
def execRepe (h : Hdr) (f : SF) (s : State) : Out :=
  issue (.repe h f) h 0x6A 1 8 s fun th => do
    let s ← getS
    let core := s.here
    let r := (s.core core).rpt
    let n := min (srcB f th).v.toNat 4096
    if r.owner == some th.task && r.svc == th.svc && !r.running then
      if n = 0 ∨ r.body.isEmpty then modS fun s => s.updCore core fun c => { c with rpt := {} }
      else
        let r1 := { r with running := true, n := n, sv := f.d.toNat, sr := f.fl.toNat, step := src th f.a, iter := 0, pos := 0,
                           xs := (upFrom 0 10).map th.xreg }
        let s1 := s.updCore core fun c => { c with rpt := r1 }
        match seqTry core (evalWord (.repe h f)) (n * r.body.length) (s1.aloneInGang core) with
        | .passed => setS s1
        | .failed c e => repTrap th c e
        | .waits t => do
          modS fun s => { s with dies := t.dies }
          stallM .ats
    else pure ()

/-- REPX (R276). -/
def execRepx (h : Hdr) (f : SF) (s : State) : Out :=
  issue (.repx h f) h 0x6A 2 8 s fun th => do
    let s ← getS
    let core := s.here
    let r := (s.core core).rpt
    if r.owner == some th.task && r.svc == th.svc then do
      modS fun s => (s.updGang (gangOf core) fun g => { g with mma := g.mma.filter fun q => !(q.member == core % 8 && q.slot == 16) }).endSequence
        core
      writeP f.d.toNat true
    else writeP f.d.toNat false

/-- A sequence whose instruction has met a trap that REPE's check did not find: it ends, and its thread takes the trap where it
stands. -/
def State.seqTrap (s : State) (core : Nat) (cause : Nat) (eval : Word) : State :=
  match s.seqThread core with
  | none => s.endSequence core
  | some (.slot l, th) =>
    (match s.closeAll l with
      | none => s
      | some t => ((t.endSequence core).updCore core fun c => c.withoutTask th.ctx th.task).trapTake l cause eval)
  | some (.away, th) =>
    let s1 := (s.endSequence core).updCore core fun c =>
      let d := c.withoutTask th.ctx th.task
      { d with slots := d.slots ++ [{ th := some th }] }
    (s1.trapTake (seqLoc core) cause eval).dropSeqSlot core

/-- A core's sequence may not go on: a kick of it still waits for its range (R243), or its context is being saved, restored or torn down
(R326). -/
def State.seqKickWaits (s : State) (core : Nat) : Bool :=
  match s.seqThread core with
  | some (_, th) => s.awaitsRange th || (s.ctx th.ctx).frozen
  | none => false

/-- SEQUENCE_INSTRUCTION (R275). -/
def execSequenceInstruction (core : Nat) (s : State) : Out :=
  .next (if (s.core core).rpt.running && !s.seqKickWaits core then
    match s.seqStep core 0 with
    | .done t => t
    | .pending t => t
    | .blocked _ t => t
    | .trapped c e t => t.seqTrap core c e
  else s)

end Sys2Proof.Machine
end

