-- ==== Sys2Proof/Machine/Slates.lean ====
section
/-!
DEFINITION. Slates: fields, access codes, the forced queue; SLR, SLW, FORCE and GSET, major 0x71 (R336 to R343).
-/

namespace Sys2Proof.Machine

/-- The value that stands for no token, no state and no binding. -/
def noToken : Nat := 0xFFFFFFFF

/-- The home die of a slate (R336). -/
def slateDie (i : Nat) : Nat := i / 4096

/-- A slate just granted to a context (R336, R337). -/
def freshSlate (ctx : Nat) : Slate := { alloc := true, ctx := ctx }

/-- CTL (R338). -/
def Slate.ctl (x : Slate) : Nat :=
  x.fq.length * 2 ^ 25 + x.tcount * 2 ^ 16 + x.tlimit * 2 ^ 8 + b2n x.omode * 4 + x.stat

/-- OWNER (R337). -/
def Slate.owner (x : Slate) : Nat := x.ctx % 4096 + b2n x.alloc * 2 ^ 12

/-- A field by its number, as a read at level S (`sup`) or T sees it (R337, R341). -/
def Slate.field (x : Slate) (sup : Bool) (n : Nat) : Word :=
  match n with
  | 8 => x.wbase
  | 9 => x.wsize.setWidth 64
  | 10 => x.ven
  | 11 => BitVec.ofNat 64 x.ctl
  | 12 => x.rngkey
  | 13 => x.step
  | 14 => x.vb.setWidth 64
  | 15 => x.vocab.setWidth 64
  | 16 => x.gbase
  | 17 => x.gcount.setWidth 64
  | 18 => x.gstate.setWidth 64
  | 19 => x.hookbase
  | 20 => x.kvbase
  | 21 => x.kvgeo
  | 22 => x.kvpos
  | 23 => x.opst
  | 24 => x.opacc
  | 25 => if sup then BitVec.ofNat 64 x.owner else 0
  | 26 => 0
  | n => x.s.toList.getD n 0

/-- The widths of R337, for the fields that have a width only; the mapped fields and BIND have none here. -/
def fieldWidth (n : Nat) : Nat :=
  if n = 8 ∨ n = 16 ∨ n = 19 ∨ n = 20 then 56
  else if n = 9 ∨ n = 14 ∨ n = 15 ∨ n = 17 ∨ n = 18 then 32 else 64

/-- L of KVGEO (R350). -/
def kvL (g : Word) : Nat := bits 47 40 g.toNat
/-- W of KVGEO. -/
def kvW (g : Word) : Nat := bits 39 24 g.toNat
/-- LGN of KVGEO. -/
def kvLgn (g : Word) : Nat := bits 23 16 g.toNat
/-- ROWB of KVGEO. -/
def kvRow (g : Word) : Nat := bits 15 0 g.toNat

/-- A KVGEO that keeps the limits of R350, its reserved bits ignored. -/
def kvGeoOk (v : Word) : Bool :=
  bits 47 0 v.toNat == 0 ||
    (decide (1 ≤ kvL v) && decide (1 ≤ kvLgn v) && decide (kvLgn v ≤ 16) && decide (1 ≤ kvW v) && decide (kvW v < 2 ^ kvLgn v)
      && kvRow v % 64 == 0 && decide (64 ≤ kvRow v) && decide (kvRow v ≤ 4096))

/-- The limits that an SLW checks (R337, R338, R341, R350). -/
def fieldOk (n : Nat) (v : Word) : Bool :=
  decide (v.toNat < 2 ^ fieldWidth n) &&
    (match n with
    | 8 => v.toNat % 64 == 0
    | 9 => decide (64 ≤ v.toNat) && decide (v.toNat ≤ 1048576) && v &&& (v - 1) == 0
    | 11 => v.toNat % 4 != 3
    | 16 => v.toNat % 32 == 0
    | 20 => v.toNat % 64 == 0
    | 21 => kvGeoOk v
    | 26 => decide (v.toNat ≤ 1)
    | _ => true)

/-- A write of CTL (R338). -/
def Slate.writeCtl (x : Slate) (v : Nat) : Slate :=
  { x with
    fq := if bit 24 v then [] else x.fq
    opst := if bit 3 v then 0 else x.opst
    opacc := if bit 3 v then 0 else x.opacc
    tcount := bits 23 16 v
    tlimit := bits 15 8 v
    omode := bit 2 v
    stat := v % 4 }

/-- A slate register with its poison written (R362). -/
def Slate.setS (x : Slate) (n : Nat) (w : PWord) : Slate :=
  { x with
    s := x.s.setIfInBounds n w.v
    sp := if w.p then x.sp ||| (1#8 <<< n) else x.sp &&& ~~~(1#8 <<< n) }

/-- A slate register with its poison. -/
def Slate.getS (x : Slate) (n : Nat) : PWord := { v := x.s.toList.getD n 0, p := x.sp.getLsbD n }

/-- A field written under its access code (R337, R338); the value has kept the limits. -/
def Slate.write (x : Slate) (n : Nat) (w : PWord) : Slate :=
  let v := w.v
  match n with
  | 8 => { x with wbase := v }
  | 9 => { x with wsize := v.setWidth 32 }
  | 10 => { x with ven := v &&& 0x3FFFFF#64 }
  | 11 => x.writeCtl v.toNat
  | 12 => { x with rngkey := v }
  | 13 => { x with step := v }
  | 14 => { x with vb := v.setWidth 32 }
  | 15 => { x with vocab := v.setWidth 32 }
  | 16 => { x with gbase := v }
  | 17 => { x with gcount := v.setWidth 32 }
  | 18 => x
  | 19 => { x with hookbase := v }
  | 20 => { x with kvbase := v }
  | 21 => { x with kvgeo := v &&& 0xFFFFFFFFFFFF#64 }
  | 22 => { x with kvpos := v }
  | 23 => x
  | 24 => x
  | 25 => { x with ctx := v.toNat % 4096, alloc := v.getLsbD 12 }
  | 26 => x
  | n => x.setS n w

/-- Tokens appended to the forced queue with an origin (R339). -/
def Slate.append (x : Slate) (toks : List Nat) (origin : Nat) : Slate :=
  { x with fq := x.fq ++ toks.map fun t => (BitVec.ofNat 32 t, origin) }

/-- The SLATE trap of an instruction (R336): EVAL is src(A). -/
def slateTrap {α : Type} (a : Word) : M α := trapM cSLATE a

/-- A slate operand in the range of R336, at step 9. -/
def slateIn (v : Word) : M Nat := do
  require (decide (v.toNat < 2 ^ 15)) cSLATE v
  pure v.toNat

/-- The slate that A names: a poisoned operand kills at step 8 (R49, R405). -/
def slateIndex (th : Thread) (a : BitVec 4) : M Nat := do
  let v ← cleanUse (src th a)
  slateIn v

/-- The slate that A names and the address in X register B: both are looked at for poison before the slate's range (R49, R336). -/
def slateAndAddress (th : Thread) (a b : BitVec 4) : M (Nat × Word) := do
  let v ← cleanUse (src th a)
  let ea ← cleanUse (th.xreg b.toNat)
  let i ← slateIn v
  pure (i, ea)

/-- OWNER as the slate checks it (R336). -/
def Slate.ownedBy (x : Slate) (ctx : Nat) : Bool := x.alloc && x.ctx == ctx

/-- The slate reached in slate order: OWNER is checked against the fields as they stand (R336, R340). -/
def atSlate (th : Thread) (i : Nat) : M Slate := do
  alignM th (.sampler (slateDie i))
  requestM
  let s ← getS
  require ((s.slate i).ownedBy th.ctx) cSLATE (BitVec.ofNat 64 i)
  pure (s.slate i)

/-- SLR (R341, R362). -/
def execSlr (h : Hdr) (f : EF) (s : State) : Out :=
  issueLong (.slr h f) h 0x71 0 12 s fun th => do
    let i ← slateIndex th f.a
    let x ← atSlate th i
    let n := f.imm.toNat
    pure { latch := latchX f.d (if n < 8 then x.getS n else clean (x.field (decide (2 ≤ th.priv)) n)) }

/-- The value that SLW writes (R341). -/
def slwValue (f : EF) (th : Thread) : PWord := srcImm th (sext64 32 f.tail.toNat) f.b

/-- SLW (R341). -/
def execSlw (h : Hdr) (f : EF) (s : State) : Out :=
  issueLong (.slw h f) h 0x71 1 12 s fun th => do
    let n := f.imm.toNat
    require (n != 25 || decide (2 ≤ th.priv)) cPRIVILEGE (evalWord (.slw h f))
    let i ← slateIndex th f.a
    let _ ← atSlate th i
    let w := slwValue f th
    require (fieldOk n w.v) cSLATE (BitVec.ofNat 64 i)
    if n = 26 then
      modS fun s => s.updThread fun t => { t with seq := if w.v = 1 then BitVec.ofNat 32 i else 0xFFFFFFFF#32 }
    else modS fun s => (s.updSlate i fun x => x.write n w).refill s.here 9 i n
    pure {}

/-- A record or operand that an instruction of the sampler reads as a load of its thread (R174, R342): checked, and a mobile thread migrates to
another core's scratchpad (R172). -/
def threadRun (th : Thread) (al n : Nat) (ea : Word) : M (List Acc) := do
  migrateCheck th ea
  let as ← checkedRun th .read al n ea
  pure as

/-- FORCE refuses a token (R342). -/
def Slate.refuses (x : Slate) (t : Nat) : Bool :=
  decide (x.vocab.toNat ≤ t) || (decide (x.vb.toNat + 350 ≤ t) && decide (t ≤ x.vb.toNat + 511))

/-- FORCE at the slate (R342). -/
def Slate.force (x : Slate) (toks : List Nat) : Slate × Nat :=
  let k := min toks.length (64 - x.fq.length)
  let y := x.append (toks.take k) 0
  ({ y with stat := if k != 0 && y.stat == 1 then 0 else y.stat }, k)

/-- FORCE (R342). -/
def execForce (h : Hdr) (f : EF) (s : State) : Out :=
  issueLong (.force h f) h 0x71 2 12 s fun th => do
    let (i, ea) ← slateAndAddress th f.a f.b
    let n := f.tail.toNat
    let _ ← atSlate th i
    let as ← threadRun th 4 (4 * n) ea
    let bs ← readAccs true as
    if anyPois bs.flatten then killM else pure ()
    let toks := (upFrom 0 n).map fun k => numOf ((bs.flatten.drop (4 * k)).take 4)
    let x ← atSlate th i
    require (!toks.any x.refuses) cSLATE (BitVec.ofNat 64 i)
    let r := x.force toks
    modS fun s => (s.updSlate i fun _ => r.1).refill s.here 9 i 11
    pure { latch := latchX f.d (clean (BitVec.ofNat 64 r.2)) }

/-- GSET (R343). -/
def execGset (h : Hdr) (f : EF) (s : State) : Out :=
  issueLong (.gset h f) h 0x71 3 12 s fun th => do
    let i ← slateIndex th f.a
    let x ← atSlate th i
    let v := (srcBE f th).v.toNat % 2 ^ 32
    require (v == noToken || decide (v < x.gcount.toNat)) cSLATE (BitVec.ofNat 64 i)
    modS fun s => (s.updSlate i fun y => { y with gstate := BitVec.ofNat 32 v }).refill s.here 9 i 18
    pure { latch := latchX f.d (clean (x.gstate.setWidth 64)) }

end Sys2Proof.Machine
end

