-- ==== Sys2Proof/Machine/Drawn.lean ====
section
/-!
DEFINITION. Drawn instructions: token classes, operand collection, verbs, drawn traps, the hook call (R352 to R365).
-/

namespace Sys2Proof.Machine

/-- The token classes of R352. -/
inductive TClass where
  | verb | reserved | reg | byte | end_ | result | outside
  deriving DecidableEq, Repr

/-- The class of a token (R352). -/
def Slate.classOf (x : Slate) (t : Nat) : TClass :=
  let vb := x.vb.toNat
  if t < vb ∨ vb + 511 < t then .outside
  else
    let k := t - vb
    if k ≤ 21 then .verb
    else if k ≤ 63 then .reserved
    else if k ≤ 71 then .reg
    else if k ≤ 327 then .byte
    else if k = 328 then .end_
    else if k ≤ 349 then .result
    else .reserved

/-- OPST.ACTIVE (R355). -/
def Slate.active (x : Slate) : Bool := x.opst.getLsbD 6

/-- OPST.VERB. -/
def Slate.verb (x : Slate) : Nat := bits 5 0 x.opst.toNat

/-- OPST.COUNT. -/
def Slate.taken (x : Slate) : Nat := bits 12 10 x.opst.toNat

/-- OPST.NBYTES. -/
def Slate.nbytes (x : Slate) : Nat := bits 31 28 x.opst.toNat

/-- The operands that a verb takes, but for the bytes of set: true for a register (R359). -/
def verbOperands (v : Nat) : List Bool :=
  if v ≤ 3 ∨ v = 5 ∨ v = 14 then [true, true]
  else if v = 4 ∨ v = 15 ∨ v = 16 ∨ v = 19 ∨ v = 20 then [true]
  else if v ≤ 11 then [true, true, true]
  else if v = 12 ∨ v = 13 then [true, true, false]
  else if v = 17 then [true, false]
  else if v = 18 then [false]
  else []

/-- The classes that the collection state expects (R354). -/
def Slate.expected (x : Slate) : List TClass :=
  if x.active then
    if x.verb = 4 ∧ x.taken ≠ 0 then
      if x.nbytes = 0 then [.byte] else if x.nbytes < 8 then [.byte, .end_] else [.end_]
    else match (verbOperands x.verb)[x.taken]? with
      | some true => [.reg]
      | some false => [.byte]
      | none => []
  else [.verb, .outside]

/-- A token is excluded from a draw but for the grammar's mask (R346, R354). -/
def Slate.excludes (x : Slate) (t : Nat) : Bool :=
  let vb := x.vb.toNat
  (decide (vb ≤ t) && decide (t ≤ vb + 63) && !x.ven.getLsbD (t - vb))
    || (decide (vb + 329 ≤ t) && decide (t ≤ vb + 511))
    || (!x.omode && !x.expected.contains (x.classOf t))

/-- A drawn trap's effect on the slate (R358); the flag says that the sequence halts. -/
def Slate.drawnTrap (x : Slate) (code : Nat) : Slate × Bool :=
  let vb := x.vb.toNat
  let n := min (x.tcount + 1) 255
  let halts := x.tlimit != 0 && decide (x.tlimit ≤ n)
  ({ x.append [vb + 330, vb + 331 + code] 2 with opst := 0, opacc := 0, tcount := n, stat := if halts then 2 else x.stat }, halts)

/-- What a step of a drawn instruction answers: the slate and the CODE of R347. -/
structure Drawn where
  slate : Slate
  code : Nat

/-- The increment of SVBERTH at SVRANK, sent as a SEND of length 0 without .NP (R358). -/
def notifyM (th : Thread) : M Unit := do
  let s ← getS
  let d := (s.ctx th.ctx).desc
  modS fun s => s.publishB s.here (scopeTo s.here ((s.ctx th.ctx).rank d.svrank).phys)
  sendM th d.svrank (.inc d.svberth none)
  sinkM

/-- A drawn trap (R358). -/
def drawnTrapM (th : Thread) (x : Slate) (code : Nat) : M Drawn := do
  let r := x.drawnTrap code
  if r.2 then notifyM th else pure ()
  pure { slate := r.1, code := 5 }

/-- A verb's result tokens queued and the collection over (R357). -/
def Slate.executed (x : Slate) (toks : List Nat) : Drawn :=
  { slate := { x.append (toks.map (x.vb.toNat + ·)) 2 with opst := 0, opacc := 0 }, code := 4 }

/-- What an access of the decode thread that is not one of its own instructions waits for: the range scoreboard, and the outputs of R374 of its
older windows, which close first. -/
def drawnBoard (as : List Acc) : M Unit := do
  let s ← getS
  if as.any (s.core s.here).guards then stallM .overlap else pure ()
  let n := lateWindows as s.curSlot.wins
  if n = 0 then pure ()
  else match s.closeFirst s.cur n with
    | some t => setS t
    | none => stallM .windowResult

/-- A window access (R357 steps 2 to 4): the access, or the drawn trap's code. -/
def windowAccess (x : Slate) (th : Thread) (off : Word) (n : Nat) (w : Bool) : M (Except Nat Acc) := do
  let ea := x.wbase + off
  if x.wsize.toNat < off.toNat + n then pure (.error 1)
  else if off.toNat % n ≠ 0 then pure (.error 2)
  else if ea.toNat / 2 ^ 56 ≠ 0 then pure (.error 1)
  else match regionOf false ea.toNat with
    | .paged _ => do
      match ← tryM (checked th (if w then .store else .load) n n ea) with
      | .ok a => pure (.ok a)
      | .error _ => pure (.error 1)
    | _ => pure (.error 1)

/-- Bytes that the decode thread loads in its core's phase view (R357, R360). -/
def drawnLoad (as : List Acc) : M (List (Byte × Bool)) := do
  drawnBoard as
  let s ← getS
  let ctx := (s.thread.map (·.ctx)).getD 0
  modS fun s => as.foldl (fun t a => t.noteAcc ctx true a) s
  pinAll ctx as
  let s ← getS
  pure (as.flatMap (s.accBytes true))

/-- The accesses of the hook table's header or of an entry (R360), refused in a lighter aperture (R174). -/
def hookRun (th : Thread) (ea : Word) : M (Option (List Acc)) := do
  match ← tryM (checkedRun th .load 32 32 ea) with
  | .error _ => pure none
  | .ok as => pure (if as.any fun a => match a.place with
      | .lighter .. => true
      | _ => false then none else some as)

/-- Room for every line that an instruction may pin, made before the first of them (R238). -/
def pinRoom (as : List Acc) : M Unit := modS fun s => s.makePins s.here ((as.flatMap (Acc.lines (s.core s.here))).map Prod.fst).eraseDups

/-- ACAS.AR.PKG of 0 by `new` on a LOCK (R360): the value found. -/
def lockAcas (th : Thread) (a : Acc) (new : Nat) : M Nat := do
  drawnBoard [a]
  let o ← atomAt th a 4 3 2 fun x => { v := AtomOp.cas.eval 32 x.v new 0, p := x.p }
  pure o.v

/-- The call verb (R360): done, or the drawn trap's code. -/
def hookCall (i : Nat) (x : Slate) (th : Thread) (y : Nat) : M (Except Nat Unit) := do
  if x.hookbase = 0 ∨ x.hookbase.toNat % 32 ≠ 0 then pure (.error 3)
  else do
    let ea := x.hookbase + BitVec.ofNat 64 (32 + 32 * y)
    match ← hookRun th x.hookbase with
    | none => pure (.error 3)
    | some ha =>
      let entry ← hookRun th ea
      pinRoom (ha ++ entry.getD [])
      let h := bytesOf (← drawnLoad ha)
      let count := fieldAt h 0 2
      if 256 < count ∨ fieldAt h 2 30 ≠ 0 ∨ count ≤ y then pure (.error 3)
      else do
        match entry with
        | none => pure (.error 3)
        | some as =>
          let e := bytesOf (← drawnLoad as)
          let rank := fieldAt e 4 4
          let berth := fieldAt e 8 2
          let box := fieldAt e 16 8
          let s ← getS
          if 2 ^ 24 ≤ rank ∨ 2048 ≤ berth ∨ fieldAt e 10 6 ≠ 0 ∨ fieldAt e 24 8 ≠ 0 ∨ box % 32 ≠ 0
              ∨ ((s.ctx th.ctx).rank rank).state = 0 then pure (.error 3)
          else do
            match ← tryM (checked th (.atomic true) 4 4 ea) with
            | .error _ => pure (.error 3)
            | .ok a => do
              let old ← lockAcas th a (i + 1)
              if old ≠ 0 then pure (.error 4)
              else do
                let scope ← scopeToRank th rank
                modS fun s => s.publishB s.here scope
                modS fun s => s.updLaunch th.launch fun l => { l with pendingPlace := l.pendingPlace + 1 }
                let rcd := toBytes 4 i ++ toBytes 1 y ++ toBytes 3 0 ++ toBytes 8 x.step.toNat ++ toBytes 4 th.rank ++ toBytes 12 0
                sendM th rank (.place berth box rcd [] scope th.launch none)
                sinkM
                pure (.ok ())

/-- The register verbs (R359): the new value of S[a]. -/
def verbAlu (v : Nat) (a b c : Word) (y : Nat) : Word :=
  match v with
  | 5 => b
  | 6 => b + c
  | 7 => b - c
  | 8 => b * c
  | 9 => b &&& c
  | 10 => b ||| c
  | 11 => b ^^^ c
  | 12 => b <<< (y % 64)
  | 13 => b >>> (y % 64)
  | 16 => a + 1
  | _ => a + sext64 8 y

/-- The register sources of a register verb that carry poison (R362). -/
def verbPois (v : Nat) (a b c : PWord) : Bool :=
  if v = 16 ∨ v = 17 then a.p else if 6 ≤ v ∧ v ≤ 11 then b.p || c.p else b.p

/-- execute(v) on the locked slate, whose step is the one read at the lock (R357 to R360). -/
def executeVerb (i : Nat) (x : Slate) (th : Thread) : M Drawn := do
  let v := x.verb
  let ra := bits 19 16 x.opst.toNat
  let a := x.getS ra
  let b := x.getS (bits 23 20 x.opst.toNat)
  let c := x.getS (bits 27 24 x.opst.toNat)
  let y := bits 39 32 x.opst.toNat
  if v = 0 ∨ v = 2 then
    let n := if v = 0 then 8 else 1
    if a.p || b.p then drawnTrapM th x 5
    else do
      match ← windowAccess x th a.v n true with
      | .error k => drawnTrapM th x k
      | .ok acc => do
        drawnBoard [acc]
        let s ← getS
        roomM (s.needed [acc])
        modS fun s => s.storeAcc th.ctx acc ((toBytes n b.v.toNat).map fun z => (z, false))
        sinkM
        pure (x.executed [329])
  else if v = 1 ∨ v = 3 then
    let n := if v = 1 then 8 else 1
    if b.p then drawnTrapM th x 5
    else do
      match ← windowAccess x th b.v n false with
      | .error k => drawnTrapM th x k
      | .ok acc => do
        let bs ← drawnLoad [acc]
        if anyPois bs then drawnTrapM th x 5
        else pure ((x.setS ra (clean (BitVec.ofNat 64 (numOf bs)))).executed [329])
  else if v = 4 then pure ((x.setS ra (clean (zext64 (8 * x.nbytes) x.opacc.toNat))).executed [329])
  else if v = 14 then
    if a.p || b.p then drawnTrapM th x 5
    else pure (x.executed [if a.v.toNat < b.v.toNat then 347 else if a.v = b.v then 348 else 349])
  else if v = 15 then
    if a.p then drawnTrapM th x 5
    else pure (x.executed ((toBytes 8 a.v.toNat).map (fun z => 72 + z.toNat) ++ [329]))
  else if v = 18 then do
    match ← hookCall i x th y with
    | .error k => drawnTrapM th x k
    | .ok () => pure ({ x with stat := 1 }.executed [])
  else if v = 19 then pure ((x.setS ra (clean x.step)).executed [329])
  else if v = 20 then pure ((x.setS ra (clean (randomWord x.rngkey i x.step 0xFFFFFFFF))).executed [329])
  else if v = 21 then do
    notifyM th
    pure ({ x with stat := 2 }.executed [])
  else pure ((x.setS ra { v := verbAlu v a.v b.v c.v y, p := verbPois v a b c }).executed [329])

/-- An operand token taken into OPST or OPACC (R355, R356). -/
def Slate.collect (x : Slate) (cls : TClass) (k : Nat) : Slate :=
  match cls with
  | .reg =>
    { x with opst := setBits 12 10 (x.taken + 1) (setBits (19 + 4 * x.taken) (16 + 4 * x.taken) (k - 64) x.opst) }
  | .byte =>
    if x.verb = 4 then
      { x with opacc := setBits (8 * x.nbytes + 7) (8 * x.nbytes) (k - 72) x.opacc, opst := setBits 31 28 (x.nbytes + 1) x.opst }
    else { x with opst := setBits 12 10 (x.taken + 1) (setBits 39 32 (k - 72) x.opst) }
  | _ => x

/-- The collection is complete after a token of a class (R359). -/
def Slate.collected (x : Slate) (cls : TClass) : Bool :=
  if x.verb = 4 then cls == .end_ else decide ((verbOperands x.verb).length ≤ x.taken)

/-- The decision on a sampled token (R356). -/
def decideToken (i : Nat) (x : Slate) (th : Thread) (t : Nat) : M Drawn := do
  let cls := x.classOf t
  let k := t - x.vb.toNat
  if !x.active then
    if cls = .verb then
      let y := { x with opst := BitVec.ofNat 64 (64 + k), opacc := 0 }
      if k = 21 then executeVerb i y th else pure { slate := y, code := 2 }
    else drawnTrapM th x 0
  else if !x.expected.contains cls then drawnTrapM th x 0
  else
    let y := x.collect cls k
    if y.collected cls then executeVerb i y th else pure { slate := y, code := 3 }

end Sys2Proof.Machine
end

