-- ==== Sys2Proof/Machine/Sampler.lean ====
section
/-!
DEFINITION. The sampler: DRAW with its lock, ACCEPT, KVPUT and KVCOMMIT, majors 0x70, 0x72 and 0x73 (R344 to R351).
-/

namespace Sys2Proof.Machine

/-- The sampler of a die at work for a context. -/
def samplerEng (d ctx : Nat) : Eng := { quay := none, die := d, who := 20480 + d, agent := .sampler d, ctx := ctx, root := true }

/-! DRAW at issue (R345) -/

/-- A thread's run of bytes read for the sampler: the accesses are checked as the thread's, and the bytes are those that the engine sees once
the core has published. -/
def State.engineRun (s : State) (e : Eng) (as : List Acc) : List (Byte × Bool) := as.flatMap (s.engineBytes e)

/-- The package once the current core has handed its work to the sampler of a die (R240). -/
def State.handed (s : State) (die : Nat) : State := s.publishB s.here (if dieOf s.here = die then 1 else 2)

/-- The publish that hands work to the sampler of a die: once, when the instruction's checks have passed (R237, R240). -/
def toSampler (die : Nat) : M Unit := modS fun s => s.handed die

/-- What the sampler of a die reads of accesses that are checked as a thread's, as it finds them once the core has published (R240, R349). -/
def samplerReads (e : Eng) (as : List Acc) : M (List (Byte × Bool)) := do
  modS fun s => as.foldl (fun t a => t.noteAcc e.ctx false a) s
  let s ← getS
  pure ((s.handed e.die).engineRun e as)

/-- invT of DRAW: finite and not negative, −0 reading as 0 (R345). -/
def invTOf (v : Word) : Option Nat :=
  let c := v.toNat % 2 ^ 32
  if c = 0x80000000 then some 0
  else match f32.decode c with
    | .fin false _ _ => some c
    | _ => none

/-- A tree table that a thread reads (R279, R345): parents and ranks. R235 does not name the reads of DRAW among those that pin a line, and they pin none
(DESIGN CHOICE, log entry 65). -/
def treeM (th : Thread) (i : Nat) (tree : Word) (node : Nat) : M (List Nat × List Nat) := do
  let bad := slateTrap (BitVec.ofNat 64 i)
  let ha ← threadRun th 1 16 tree
  let hb ← readAccs false ha
  let n := numOf hb.flatten
  if n = 0 ∨ 4096 < n then bad
  else do
    let ta ← threadRun th 1 (8 * n) (tree + 16)
    let tb ← readAccs false ta
    let es := (upFrom 0 n).map fun k => fieldAt (bytesOf tb.flatten) (8 * k) 8
    let parents := es.map (bits 47 32)
    let ranks := es.map (bits 23 0)
    require (es.all (fun x => bits 31 24 x == 0 && bits 63 48 x == 0) && parents.head? == some 0xFFFF
      && ((upFrom 0 n).zip parents).all (fun p => p.1 == 0 || decide (p.2 < p.1)) && ranks.eraseDups.length == n
      && ranks[node]? == some th.rank) cSLATE (BitVec.ofNat 64 i)
    pure (parents, ranks)

/-- The checks of DRAW that depend on slate fields (R336, R345): for a record of a participant. -/
def Slate.drawOk (x : Slate) (ctx first count : Nat) : Bool :=
  x.ownedBy ctx && decide (x.vb.toNat + 512 ≤ x.vocab.toNat) && decide (first + count ≤ x.vocab.toNat)

/-- How many DRAWs a task has issued on a slate (R345). -/
def Slate.nthOf (x : Slate) (t : TaskId) : Nat := ((x.nth.find? fun p => p.1 == t).map Prod.snd).getD 0

/-- A DRAW that arrives at the slate's tree (R345). -/
def Slate.arrive (x : Slate) (r : DrawReq) : Slate :=
  { x with draws := x.draws ++ [r], nth := (r.task, r.nth + 1) :: x.nth.filter fun p => p.1 != r.task }

/-- DRAW (R345). -/
def execDraw (h : Hdr) (f : EF) (s : State) : Out :=
  issueLong (.draw h f) h 0x70 0 12 s fun th => do
    let (i, ra) ← slateAndAddress th f.a f.b
    let inv ← orTrap (invTOf (src th f.c).v) cSLATE (BitVec.ofNat 64 i)
    let _ ← atSlate th i
    let as ← threadRun th 32 32 ra
    let bs ← readAccs false as
    let r := bytesOf bs.flatten
    cleanBytes bs.flatten 0 8
    cleanBytes bs.flatten 24 8
    let logits := BitVec.ofNat 64 (fieldAt r 0 8)
    let first := fieldAt r 8 4
    let count := fieldAt r 12 4
    let node := fieldAt r 18 2
    require (logits.toNat % 64 == 0 && decide (1 ≤ count) && decide (fieldAt r 16 1 ≤ 1) && fieldAt r 17 1 == 0 && fieldAt r 20 4 == 0)
      cSLATE (BitVec.ofNat 64 i)
    let t ← treeM th i (BitVec.ofNat 64 (fieldAt r 24 8)) node
    let s ← getS
    let root := (s.ctx th.ctx).rank (t.2.headD 0)
    require (root.state != 0 && dieOf root.phys == slateDie i) cSLATE (BitVec.ofNat 64 i)
    let x ← atSlate th i
    require (x.drawOk th.ctx first count) cSLATE (BitVec.ofNat 64 i)
    toSampler (slateDie i)
    let s ← getS
    let q : DrawReq :=
      { node := node, nth := x.nthOf th.task, task := th.task, loc := s.cur, ctx := th.ctx, rank := th.rank, pc := th.pc, serial := s.serial
        xd := f.d.toNat, xs := f.f.toNat, logits := logits, first := first, count := count, fmt := fieldAt r 16 1
        parents := t.1, ranks := t.2, invT := inv }
    setS { (s.updSlate i fun x => x.arrive q) with serial := s.serial + 1 }
    pure { decided := false, refresh := true, tag := q.serial }

/-! DRAW at the lock (R344, R346, R348) -/

/-- Why a DRAW's reads do not go through. -/
inductive DrawStop where
  | wait (s : State)
  | fault (code : Nat) (a : Word)

/-- The sampler's reads. -/
abbrev DM := StateT State (Except DrawStop)

/-- A read by a sampler (R348). One that waits for a host translation, or for a rank whose packets are held (R201), holds the DRAW up. -/
def dRead (e : Eng) (ea : Word) (n : Nat) : DM (List (Byte × Bool)) := fun s =>
  match s.eRead e none true n ea with
  | (.ok b, t) => .ok (b, t)
  | (.error (.ats _, _), t) => .error (.wait t)
  | (.error (.miss, _), t) => .error (.wait t)
  | (.error (f, a), _) => .error (.fault f.code a)

/-- A grammar state's record (R344). -/
def grammar (e : Eng) (x : Slate) (st : Nat) : DM (List Byte) := do
  let b ← dRead e (x.gbase + BitVec.ofNat 64 (32 * st)) 32
  pure (bytesOf b)

/-- next(s, t) of a state's record (R344). -/
def grammarNext (e : Eng) (x : Slate) (g : List Byte) (t : Nat) : DM Nat := do
  let n := min (fieldAt g 16 4) 65536
  let b ← if n = 0 then pure [] else dRead e (BitVec.ofNat 64 (fieldAt g 8 8)) (8 * n)
  let tb := bytesOf b
  let nx := match (upFrom 0 n).find? fun k => fieldAt tb (8 * k) 4 == t with
    | some k => fieldAt tb (8 * k + 4) 4
    | none => fieldAt g 20 4
  pure (if x.gcount.toNat ≤ nx then noToken else nx)

/-- The determined run of R346: the tokens and the state that it ends in. -/
def determined (e : Eng) (x : Slate) : Nat → Nat → DM (List Nat × Nat)
  | 0, st => pure ([], st)
  | n + 1, st =>
    if st = noToken then pure ([], st)
    else do
      let g ← grammar e x st
      let det := fieldAt g 24 4
      if det = noToken then pure ([], st)
      else do
        let nx ← grammarNext e x g det
        let r ← determined e x n nx
        pure (det :: r.1, r.2)

/-- A value offered for a token. -/
structure Offer where
  v : FV
  t : Nat
  deriving DecidableEq, Repr

/-- The better of two offers: the larger value, −0 below +0, ties to the lower token (R346). -/
def Offer.best (a b : Offer) : Offer :=
  if FV.below a.v b.v then b else if FV.below b.v a.v then a else if b.t < a.t then b else a

/-- The offer of one shard element (R346, R72, R80). -/
def offerOf (x : Slate) (i invT t logit : Nat) (bf : Bool) : Option Offer :=
  let l := if bf then bf16.decode logit else f32.decode logit
  let v := if invT = 0 then l
    else f32.decode (f32.round rne false (FV.fma false l (f32.decode invT) (f32.decode (gumbel (randomWord x.rngkey i x.step t)))))
  if v = .nan then none else some { v := v, t := t }

/-- What sampling finds: the best offer so far and whether a poisoned logit has been read. -/
abbrev Sampled := Option Offer × Bool

/-- One participant's shard offered (R346): its logits, and the bitmap where the grammar has one, are read by its die's sampler. -/
def offerShard (i : Nat) (x : Slate) (mask : Nat) (die : Nat) (r : DrawReq) (acc : Sampled) : DM Sampled := do
  let e := samplerEng die r.ctx
  let w := if r.fmt = 1 then 2 else 4
  let lb ← dRead e r.logits (w * r.count)
  let lo := r.first / 8
  let mb ← if mask = 0 then pure [] else dRead e (BitVec.ofNat 64 (mask + lo)) ((r.first + r.count - 1) / 8 - lo + 1)
  let m := bytesOf mb
  pure ((upFrom 0 r.count).foldl (fun (a : Sampled) k =>
    let t := r.first + k
    if (mask != 0 && !bit (t % 8) (m.getD (t / 8 - lo) 0).toNat) || x.excludes t then a
    else
      let b := (lb.drop (w * k)).take w
      let o := offerOf x i r.invT t (numOf b) (r.fmt == 1)
      (match a.1, o with
        | some y, some z => some (y.best z)
        | y, none => y
        | none, z => z, a.2 || anyPois b)) acc)

/-- What a DRAW is to do once every read has been made: the slate, the token with its poison, CODE and ORIGIN; `sampled` says that R356 may
decide. -/
structure DrawPlan where
  slate : Slate
  token : Nat
  pois : Bool := false
  code : Nat
  origin : Nat := 0
  sampled : Bool := false

/-- The plan of a DRAW on a locked slate (R346): every read is made here (R348). -/
def drawPlan (i : Nat) (x : Slate) (dieOfRank : Nat → Nat) (ps : List DrawReq) : DM DrawPlan := do
  let ctx := x.ctx
  let e := samplerEng (slateDie i) ctx
  if !ps.all (fun r => x.drawOk r.ctx r.first r.count) then pure { slate := x, token := noToken, code := 10 }
  else if x.stat = 1 then pure { slate := x, token := noToken, code := 6 }
  else if x.stat = 2 then pure { slate := x, token := noToken, code := 7 }
  else do
    let run ← if x.fq.isEmpty then determined e x 64 x.gstate.toNat else pure ([], x.gstate.toNat)
    let y := { x.append run.1 1 with gstate := BitVec.ofNat 32 run.2 }
    match y.fq with
    | (t, o) :: rest => pure { slate := { y with fq := rest }, token := t.toNat, code := 1, origin := o }
    | [] => do
      let g ← if run.2 = noToken then pure [] else grammar e y run.2
      let mask := fieldAt g 0 8
      let best ← ps.foldlM (fun a r => offerShard i y mask (dieOfRank r.rank) r a) ((none, false) : Sampled)
      match best.1 with
      | none => pure { slate := x, token := noToken, code := 8 }
      | some o => do
        let nx ← if run.2 = noToken then pure noToken else grammarNext e y g o.t
        pure { slate := { y with gstate := BitVec.ofNat 32 nx }, token := o.t, pois := best.2, code := 0, sampled := true }

/-- The participants of the first group of a slate's DRAWs that is complete, in node order (R345): one for each node, of one context, one number and
one table. -/
def Slate.readyGroup (x : Slate) : Option (List DrawReq) :=
  x.draws.findSome? fun r =>
    let g := (upFrom 0 r.ranks.length).filterMap fun n =>
      x.draws.find? fun q => q.ctx == r.ctx && q.nth == r.nth && q.node == n && q.parents == r.parents && q.ranks == r.ranks
    if g.length = r.ranks.length then some g else none

/-- The status word of R347. -/
def drawStatus (code origin left fcode : Nat) : Word := BitVec.ofNat 64 (fcode * 2 ^ 17 + left * 2 ^ 10 + origin * 2 ^ 8 + code)

/-- A participant's window decided (R347): the token and the status go to its latch, and a thread that waits for them may issue. -/
def State.drawDone (s : State) (r : DrawReq) (token : PWord) (status : Word) : State :=
  let x := s.slot r.loc
  let xd := latchX (BitVec.ofNat 4 r.xd) token
  let xs := latchX (BitVec.ofNat 4 r.xs) (clean status)
  let s1 := State.wakeGang (g := gangOf (locCore r.loc)) <| s.setSlot r.loc { x with
    wins := x.wins.map fun w => if w.major == 0x70 && w.tag == r.serial then { w with decided := true, done := true, latch := xd ++ xs } else w
    stall := if x.stall = some .windowResult then none else x.stall }
  match x.th with
  | some th => if token.v = BitVec.ofNat 64 noToken then s1 else s1.sinkRetires th
  | none => s1

/-- Every participant of a DRAW completed. -/
def State.drawAll (s : State) (i : Nat) (ps : List DrawReq) (token : PWord) (code origin fcode : Nat) : State :=
  let s1 := s.updSlate i fun x => { x with draws := x.draws.filter fun r => !ps.contains r }
  let st := drawStatus code origin (s1.slate i).fq.length fcode
  ps.foldl (fun t r => t.drawDone r token st) s1

/-- The sampler's fault record (R317, R348): written for information, dropped and counted where the queue is full. -/
def State.samplerRecord (s : State) (i ctx code : Nat) (a : Word) : State :=
  if (s.ctx ctx).fqRoom then s.fqWrite ctx (fqBytes 5 code 0 i a (rep 16 0))
  else s.advise (slateDie i) ctx (512 * slateDie i) a

/-- A result on a slate written back, the DRAWs that have arrived kept as they stand. -/
def State.putSlate (s : State) (i : Nat) (x : Slate) : State := s.updSlate i fun y => { x with draws := y.draws, nth := y.nth }

/-- Every participant's core has recorded for a snapshot, or none has, as its slate's sampler has or has not (R390). -/
def State.drawAligned (s : State) (i : Nat) (ps : List DrawReq) : Bool :=
  ps.all fun r => s.aligned r.ctx (.sampler (slateDie i)) (locAgent r.loc)

/-- DRAW_LOCK (R346, R347, R348, R356): the DRAW of the first complete group, on node 0's core and in its thread. A paired core has to end an open
interval first: what the drawn instruction sends leaves at once (R415, R416). Of the thread's windows only those older than the DRAW's bear on it. -/
def State.drawLock (s : State) (i : Nat) : State :=
  let x := s.slate i
  match x.readyGroup.filter (s.drawAligned i) with
  | none => s
  | some ps =>
    let core := locCore ((ps.head?.map (·.loc)).getD s.cur)
    if s.intervalOpen core then s.updCore core fun c => { c with pair := { c.pair with due := true } }
    else
      let ctx := (ps.head?.map (·.ctx)).getD 0
      match drawPlan i x (fun r => dieOf ((s.ctx ctx).rank r).phys) ps s with
      | .error (.wait t) => { s with dies := t.dies }
      | .error (.fault code a) => (s.drawAll i ps (clean (BitVec.ofNat 64 noToken)) 9 0 code).samplerRecord i ctx code a
      | .ok (p, t) =>
        let tok : PWord := { v := BitVec.ofNat 64 p.token, p := p.pois }
        if p.code = 1 then (t.putSlate i { p.slate with step := p.slate.step + 1 }).drawAll i ps tok 1 p.origin 0
        else if !p.sampled then (t.putSlate i p.slate).drawAll i ps tok p.code 0 0
        else if p.slate.classOf p.token = .outside ∧ !p.slate.active then
          (t.putSlate i { p.slate with step := p.slate.step + 1 }).drawAll i ps tok 0 0 0
        else
          let loc := (ps.head?.map (·.loc)).getD s.cur
          let t1 := t.endsInterval core
          let ws := (t1.slot loc).wins
          let own := (firstIdx (fun (w : Window) => w.major == 0x70 && w.tag == (ps.head?.map (·.serial)).getD 0) ws).getD ws.length
          let u := { t1.setSlot loc { t1.slot loc with wins := ws.take own } with cur := loc, prompt := true }
          match u.thread with
          | none => s
          | some th =>
            match decideToken i p.slate th p.token u with
            | .ok (d, v) =>
              let v1 := { v.setSlot loc { v.slot loc with wins := (v.slot loc).wins ++ ws.drop own } with cur := s.cur, prompt := s.prompt }
              (v1.putSlate i { d.slate with step := d.slate.step + 1 }).drawAll i ps tok d.code 0 0
            | .error (.stall _ v) => { s with dies := v.dies }
            | .error _ => s

/-- DRAW_LOCK. -/
def execDrawLock (slate : Nat) (s : State) : Out := .next (s.drawLock slate)

/-! ACCEPT (R349) -/

/-- A quotient of two values, as near to it as any FP32 rounding can tell. -/
def FV.div (a b : FV) : FV :=
  match a, b with
  | .nan, _ => .nan
  | _, .nan => .nan
  | .inf _, .inf _ => .nan
  | .inf x, .fin n _ _ => .inf (x != n)
  | .fin n _ _, .inf y => .fin (n != y) 0 0
  | .fin n m e, .fin k d f =>
    if d = 0 then (if m = 0 then .nan else .inf (n != k))
    else
      let q := m * 2 ^ 160 / d
      .fin (n != k) (2 * q + b2n (m * 2 ^ 160 % d != 0)) (e - f - 161)

/-- The FP64 sum of FP32 codes in order, RNE at each addition (R349). -/
def sumF64 (l : List Nat) : Nat := l.foldl (fun a c => f64.round rne false (FV.add false (f64.decode a) (f32.decode c))) 0

/-- A value is zero. -/
def FV.isZero : FV → Bool
  | .fin _ m _ => m == 0
  | _ => false

/-- norm (R349). -/
def normF (l : List Nat) : List Nat :=
  let z := f64.decode (sumF64 l)
  if z.isZero then l else l.map fun c => f32.round rne false ((f32.decode c).div z)

/-- max(r − q, +0), element by element (R349). -/
def subMax (r q : List Nat) : List Nat :=
  (r.zip q).map fun p =>
    f32.round rne false (FV.minmax true (f32.decode (f32.round rne false (FV.add false (f32.decode p.1) (f32.decode p.2).neg))) (.fin false 0 0))

/-- A code is greater than zero. -/
def posF (c : Nat) : Bool := FV.cmp (.fin false 0 0) (f32.decode c) == some (-1)

/-- The running search of sample (R349). -/
def sampleFrom (target : FV) : List Nat → Nat → Nat → Option Nat → Option Nat
  | [], _, _, last => last
  | c :: t, i, sum, last =>
    let z := f64.round rne false (FV.add false (f64.decode sum) (f32.decode c))
    if posF c then
      if FV.cmp target (f64.decode z) == some (-1) then some i else sampleFrom target t (i + 1) z (some i)
    else sampleFrom target t (i + 1) z last

/-- The fraction w[63:40] × 2^−24 (R349). -/
def fracOf (w : Word) : FV := .fin false (w.toNat / 2 ^ 40) (-24)

/-- sample (R349): none where S = 0. -/
def sampleF (r : List Nat) (w : Word) : Option Nat :=
  let z := f64.decode (sumF64 r)
  if z.isZero then none else sampleFrom (f64.decode (f64.round rne false (FV.mul (fracOf w) z))) r 0 0 none

/-- A node of ACCEPT's tree: its token, parent and the addresses of P and Q. -/
structure ANode where
  token : Nat
  parent : Nat
  p : Word
  q : Word
  deriving DecidableEq, Repr

/-- One node's children tried in turn (R349): the child taken with the vector r, or none. -/
def tryChildren (word : Nat → Word) : List (Nat × Nat) → List Nat → List Nat → Option Nat × List Nat
  | [], r, _ => (none, r)
  | (c, x) :: t, r, q =>
    if FV.cmp (FV.mul (fracOf (word c)) (f32.decode (q.getD x 0))) (f32.decode (r.getD x 0)) == some (-1) then (some c, r)
    else tryChildren word t (normF (subMax r q)) (normF (setNth 0 x q))

/-- The walk of ACCEPT (R349): the tokens accepted, the last node and r there, and whether a distribution that it read was poisoned (R404). `dist` reads
one. -/
def acceptWalk (ns : List ANode) (word : Nat → Word) (verbs : Nat → Bool) (dist : Word → M (List Nat × Bool)) : Nat → Nat → List Nat → Bool →
    M ((List Nat × Nat × List Nat) × Bool)
  | 0, v, acc, bad => pure ((acc, v, []), bad)
  | n + 1, v, acc, bad => do
    let node := ns.getD v { token := 0, parent := 0, p := 0, q := 0 }
    let p ← dist node.p
    let r := (p.1.zip (upFrom 0 p.1.length)).map fun e => if verbs e.2 then 0 else e.1
    let kids := ((ns.zip (upFrom 0 ns.length)).filter fun e => e.2 != 0 && e.1.parent == v).map fun e => (e.2, e.1.token)
    let q ← if kids.isEmpty then pure ([], false) else dist node.q
    let worse := bad || p.2 || q.2
    match tryChildren word kids r q.1 with
    | (some c, _) => acceptWalk ns word verbs dist n c (acc ++ [((ns[c]?).map (·.token)).getD 0]) worse
    | (none, r) => pure ((acc, v, r), worse)

/-- A distribution of `n` FP32 values read by the sampler under the thread's checks, and whether a byte of it is poisoned (R349, R404). -/
def distM (th : Thread) (e : Eng) (n : Nat) (ea : Word) : M (List Nat × Bool) := do
  let as ← checkedRun th .read 64 (4 * n) ea
  boardCheck as
  let bs ← samplerReads e as
  pure ((upFrom 0 n).map fun k => fieldAt (bytesOf bs) (4 * k) 4, anyPois bs)

/-- The limits of ACCEPT's record and nodes (R349). -/
def acceptOk (r : List Byte) (ns : List ANode) (entries : List (List Byte)) (n : Nat) (x : Slate) : Bool :=
  decide (1 ≤ n) && decide (n ≤ 262144) && fieldAt r 16 8 % 4 == 0 && fieldAt r 24 40 == 0
    && entries.all (fun e => fieldAt e 6 2 == 0 && fieldAt e 24 8 == 0)
    && ns.all (fun a => a.p.toNat % 64 == 0 && a.q.toNat % 64 == 0)
    && ((ns.zip (upFrom 0 ns.length)).all fun p => if p.2 = 0 then p.1.parent == 0xFFFF else
        decide (p.1.parent < p.2) && decide (p.1.token < n)
          && !(decide (x.vb.toNat ≤ p.1.token) && decide (p.1.token ≤ x.vb.toNat + 511)))
    && !x.active

/-- ACCEPT (R349). -/
def execAccept (h : Hdr) (f : EF) (s : State) : Out :=
  issueLong (.accept h f) h 0x72 0 12 s fun th => do
    let (i, ra) ← slateAndAddress th f.a f.b
    let x ← atSlate th i
    let as ← threadRun th 64 64 ra
    boardCheck as
    let s ← getS
    let die := dieOf s.here
    let e := samplerEng die th.ctx
    let rb ← samplerReads e as
    let r := bytesOf rb
    let nn := fieldAt r 0 4
    let n := fieldAt r 4 4
    let badTree (p : Bool) : M Opening := do
      toSampler die
      pure { latch := latchX f.d { v := BitVec.ofNat 64 (2 ^ 16), p := p }, refresh := true }
    if nn = 0 ∨ 64 < nn then badTree (anyPois (rb.take 8))
    else do
      cleanBytes rb 8 8
      cleanBytes rb 16 8
      let na ← checkedRun th .read 1 (32 * nn) (BitVec.ofNat 64 (fieldAt r 8 8))
      boardCheck na
      let nbs ← samplerReads e na
      let nb := bytesOf nbs
      let odd := anyPois rb || anyPois nbs
      let entries := (upFrom 0 nn).map fun k => (nb.drop (32 * k)).take 32
      let ns := entries.map fun b =>
        ({ token := fieldAt b 0 4, parent := fieldAt b 4 2, p := BitVec.ofNat 64 (fieldAt b 8 8), q := BitVec.ofNat 64 (fieldAt b 16 8) } : ANode)
      if !acceptOk r ns entries n x then badTree odd
      else do
        eachM (fun k => cleanBytes nbs (32 * k + 8) 16) (upFrom 0 nn)
        let word := fun k => randomWord x.rngkey i x.step k
        let verbs := fun t => decide (x.vb.toNat ≤ t) && decide (t ≤ x.vb.toNat + 511)
        let (w, bad) ← acceptWalk ns word verbs (distM th e n) (nn + 1) 0 [] odd
        let last := sampleF w.2.2 (word (0x100 + w.2.1))
        let toks := w.1 ++ last.toList
        let oa ← checkedRun th .write 4 (4 * toks.length) (BitVec.ofNat 64 (fieldAt r 16 8))
        boardCheck oa
        toSampler die
        let data := toks.flatMap fun t => (toBytes 4 t).map fun b => (b, bad)
        modS fun s => (cutData oa data).foldl (fun t p => match p.1.place.home? with
          | some home => t.eStore e 1 home p.2
          | none => t.storeAcc th.ctx p.1 p.2) s
        modS fun s => s.updSlate i fun y => { y with step := y.step + 1 }
        let d := match last with
          | some _ => w.1.length + 1 + w.2.1 * 2 ^ 8
          | none => w.1.length + w.2.1 * 2 ^ 8 + 2 * 2 ^ 16
        pure { latch := latchX f.d { v := BitVec.ofNat 64 d, p := bad }, refresh := true }

/-! KV rings (R350, R351) -/

/-- lo of R351. -/
def Slate.kvLo (x : Slate) : Nat := x.kvpos.toNat - kvW x.kvgeo

/-- KVPUT's refusal, if any (R351). -/
def Slate.kvRefuses (x : Slate) (l : Nat) (off : Word) (spec : Bool) : Option Nat :=
  if x.kvgeo = 0 ∨ kvL x.kvgeo ≤ l then some 3
  else if off ≠ 0 ∧ !spec then some 2
  else if x.kvLo + 2 ^ kvLgn x.kvgeo ≤ (x.kvpos + off).toNat then some 1
  else none

/-- The address of row position `p` of a layer (R350). -/
def Slate.kvRowAt (x : Slate) (l : Nat) (p : Word) : Word :=
  let n := 2 ^ kvLgn x.kvgeo
  x.kvbase + BitVec.ofNat 64 ((l * n + p.toNat % n) * kvRow x.kvgeo)

/-- KVPUT (R351). -/
def execKvput (h : Hdr) (f : EF) (s : State) : Out :=
  issueLong (.kvput h f) h 0x73 0 12 s fun th => do
    let l := (← cleanUse (src th f.c)).toNat
    let off ← cleanUse (src th f.f)
    let (i, from_) ← slateAndAddress th f.a f.b
    let x ← atSlate th i
    match x.kvRefuses l off (bit 0 f.fl.toNat) with
    | some c => do
      require (from_.toNat % 64 == 0) cALIGN from_
      pure { latch := latchX f.d (clean (BitVec.ofNat 64 c)) }
    | none => do
      let to_ := x.kvRowAt l (x.kvpos + off)
      let n := kvRow x.kvgeo
      deniedCheck th from_
      deniedCheck th to_
      let ra ← threadRun th 64 n from_
      migrateCheck th to_
      let wa ← checkedRun th .write 64 n to_
      boardCheck wa
      let bs ← readAccs true ra
      storeAccs th.ctx (cutData wa bs.flatten)
      eachM (fun a => sinkStore a.place) (wa.take 1)
      pure { latch := latchX f.d (clean 0) }

/-- KVCOMMIT (R351). -/
def execKvcommit (h : Hdr) (f : EF) (s : State) : Out :=
  issueLong (.kvcommit h f) h 0x73 1 12 s fun th => do
    let i ← slateIndex th f.a
    let x ← atSlate th i
    let n := srcBE f th
    if x.kvgeo = 0 ∨ 2 ^ kvLgn x.kvgeo - (x.kvpos.toNat - x.kvLo) < n.v.toNat then
      pure { latch := latchX f.d { v := BitVec.allOnes 64, p := n.p } }
    else do
      modS fun s => (s.updSlate i fun y => { y with kvpos := y.kvpos + n.v }).refill s.here 9 i 22
      pure { latch := latchX f.d { v := x.kvpos + n.v, p := n.p } }

end Sys2Proof.Machine
end

