-- ==== Sys2Proof/Machine/Save.lean ====
section
/-!
DEFINITION. Stopping, recording, freeing and restoring the cores of a context (R239, R325 to R330, R390, R400).
-/

namespace Sys2Proof.Machine

/-- A DRAW that its slate has not locked taken back: its request leaves the slate, and its thread resumes at it, younger windows with it
(R348). -/
def State.backOut (s : State) (l : Loc) (w : Window) : State :=
  let mine := fun (r : DrawReq) => r.loc == l && r.serial == w.tag
  match s.slates.findSome? fun p => (p.2.draws.find? mine).map fun r => (p.1, r) with
  | none => s
  | some (i, r) =>
    let s1 := s.updSlate i fun x =>
      { x with
        draws := x.draws.filter fun y => !mine y
        nth := x.nth.map fun p => if p.1 = r.task then (p.1, p.2 - 1) else p }
    s1.setSlot l { s1.slot l with th := (s1.slot l).th.map fun t => { t with pc := r.pc } }

/-- A slot stopped at an instruction boundary: its windows close up to the first that has no result, a DRAW's; that DRAW and those after it are
backed out, youngest first, so that the thread resumes at the first; an instruction that waits issues again (R21, R326, R348, R390). A handler
asleep on a berth sleeps on. -/
def State.stopSlot (s : State) (l : Loc) : State :=
  let ws := (s.slot l).wins
  let n := (firstIdx (fun (w : Window) => !w.decided) ws).getD ws.length
  let s1 := ((ws.drop n).filter fun w => !w.decided).foldr (fun w t => t.backOut l w) s
  let s2 := (s1.closeFirst l n).getD s1
  let x := s2.slot l
  s2.setSlot l { x with
    wins := [], granted := false
    stall := if x.stall = some .asleep then x.stall else none }

/-- The windows of a slot that have a result closed, up to the first that has none: its thread goes on (R21, R348, R390). -/
def State.settleSlot (s : State) (l : Loc) : State :=
  let ws := (s.slot l).wins
  (s.closeFirst l ((firstIdx (fun (w : Window) => !w.decided) ws).getD ws.length)).getD s

/-- Every barrel place of a core. -/
def barrelLocs (core : Nat) : List Loc := (upFrom 0 16).map fun i => { svc := false, unit := core, slot := i }

/-- Every place of a core stopped: members that wait for their gang's MMA issue it again, and a sequence stops between instructions
(R154, R326). -/
def State.stopCore (s : State) (core : Nat) : State :=
  let s1 := s.updGang (gangOf core) fun g => { g with mma := g.mma.filter fun q => q.member != core % 8 }
  let s2 := s1.updCore core fun c => { c with slots := c.slots.take 16 }
  (barrelLocs core).foldl State.stopSlot s2

/-- A repetition capture on a core discarded, as pre-emption does; a running sequence stays (R273, R275). -/
def Core.dropCapture (c : Core) : Core := if c.rpt.running then c else { c with rpt := {} }

/-- Memory with the bytes from an address up to another put back as recorded cells. -/
def Memory.replace (m : Memory) (lo hi : Nat) (cells : List (Nat × Byte)) : Memory :=
  cells.foldl (fun t c => Memory.write t c.1 c.2) (m.filter fun c => !(decide (lo ≤ c.1) && decide (c.1 < hi)))

/-- The poisoned units with a range replaced. -/
def poisReplace (p : List Nat) (lo hi : Nat) (us : List Nat) : List Nat :=
  us.foldl (fun l u => insNat u l) (p.filter fun u => !(decide (lo ≤ u) && decide (u < hi)))

/-- A scratchpad's cells and poison, by offset (R325). -/
def State.spadOf (s : State) (core : Nat) : List (Nat × Byte) × List Nat :=
  let a := spadHome core 0
  ((s.mem.range a (a + 262144)).map fun c => (c.1 - a, c.2), (poisRange s.poison a (a + 262144)).map (· - a))

/-- A scratchpad put back. -/
def State.putSpad (s : State) (core : Nat) (cells : List (Nat × Byte)) (pois : List Nat) : State :=
  let a := spadHome core 0
  { s with
    mem := s.mem.replace a (a + 262144) (cells.map fun c => (c.1 + a, c.2))
    poison := poisReplace s.poison a (a + 262144) (pois.map (· + a)) }

/-- The serial numbers of the kicks that a context has in the lighters, each with its quay. -/
def State.kicksOf (s : State) (ctx : Nat) : List (Nat × Nat) :=
  s.quays.flatMap fun q => q.2.chans.flatMap fun c =>
    ((c.2.copies.map (·.kick) ++ c.2.pending).filter fun k => k.ctx == ctx).map fun k => (q.1, k.serial)

/-- What of a quay core belongs to the service pipeline, which serves every context: the capture or sequence of a handler, and the ranges of other
contexts' copies (R103, R243, R273). -/
def State.pipelinePart (s : State) (ctx core : Nat) : RepBuf × List Range :=
  let c := s.core core
  let mine := s.kicksOf ctx
  (if c.rpt.svc then c.rpt else {}, c.board.filter fun r => !mine.contains (r.quay, r.serial))

/-- The entries of a queue that a test keeps, with the outstanding publishes, which carry as many less. -/
def keepEntries (keep : QEntry → Bool) : List Pub → List QEntry → List Pub × List QEntry
  | [], es => ([], es.filter keep)
  | p :: t, es =>
    let k := (es.take p.n).filter keep
    let r := keepEntries keep t (es.drop p.n)
    ({ p with n := k.length } :: r.1, k ++ r.2)

/-- A core with the queue entries that a test keeps: a quay core's queue holds those of handlers of every context (R103, R229). -/
def Core.keeping (c : Core) (keep : QEntry → Bool) : Core :=
  let r := keepEntries keep c.pubs c.pq
  { c with pubs := r.1, pq := r.2 }

/-- The record of the core of a rank (R325), with the queue entries of the contexts that `mine` names (R239). -/
def State.coreRecord (s : State) (mine : Nat → Bool) (ctx rank core : Nat) : CoreRecord :=
  let m := s.spadOf core
  let c := (s.core core).keeping fun e => mine e.ctx
  let p := s.pipelinePart ctx core
  { rank := rank, phys := core, gang := s.gang (gangOf core), spad := m.1, spois := m.2
    core := { c with pins := [], pair := {}, rpt := if c.rpt.svc then {} else c.rpt, board := c.board.filter fun r => !p.2.contains r } }

/-- A core without a context: its counters, its degraded mark and its caches stay with it, and so do the queue and the pinned lines of a quay core,
which handlers of other contexts use. -/
def Core.freed (c : Core) : Core :=
  { pq := c.pq, pubs := c.pubs, pins := c.pins, instret := c.instret, phasecnt := c.phasecnt, implcnt := c.implcnt, errinj := c.errinj, tlb := c.tlb, ibuf := c.ibuf, degraded := c.degraded
    gated := c.gated, gateFrom := c.gateFrom, gatedCycles := c.gatedCycles, idleFrom := c.idleFrom, wake := c.wake
    pair := { agreed := c.pair.agreed, disagreed := c.pair.disagreed, run := c.pair.run } }

/-- The core of a rank freed, but for what of it serves the quay, with the increments that a gated core has still to take (R103, R215, R326). -/
def State.freeCore (s : State) (ctx core : Nat) : State :=
  let p := s.pipelinePart ctx core
  let s1 := if (s.core core).gated then s.updQuay (quayOf core) fun q => { q with shadow := q.shadow.filter fun e => e.1 != core } else s
  s1.updCore core fun c =>
    let d := (c.keeping fun e => e.ctx != ctx).freed
    { d with rpt := p.1, board := p.2, pins := if core = quayCore (quayOf core) then d.pins else [] }

/-- Cores of a gang with a context's ranks leave its join; the gang is free, and unpaired, where no other context's core is of it (R326, R331). -/
def State.freeGang (s : State) (ctx g : Nat) : State :=
  let mine := fun (m : Nat) => (s.core (8 * g + m)).owner == some ctx
  let keep := fun (n : Nat) => (upFrom 0 8).foldl (fun k m => if bit m n && !mine m then k + 2 ^ m else k) 0
  s.updGang g fun x =>
    let others := (upFrom 0 8).any fun m => (s.core (8 * g + m)).owner.any (· != ctx)
    if keep (x.joined ||| x.arrived) = 0 then { paired := x.paired && others }
    else { x with joined := keep x.joined, arrived := keep x.arrived, mma := x.mma.filter fun q => !mine q.member
                  berths := x.berths.filter fun p => !mine p.1 }

/-- The outstanding publishes of a queue with another put behind it: the first of the second carries what no publish of the first did. -/
def joinPubs (n : Nat) (a b : List Pub) : List Pub :=
  match b with
  | [] => a
  | p :: t => a ++ { p with n := n - (a.map (·.n)).sum + p.n } :: t

/-- Handlers on the wait lists of a saved core that were woken there, woken (R215, R217). -/
def Core.wakeSaved (c : Core) : Core :=
  let mine := fun (w : Waiter) => w.th.svc && w.woken.isSome
  let ws := c.berths.flatMap fun p => p.2.waiters.filter mine
  if ws.isEmpty then c
  else
    { c with
      woke := c.woke ++ ws.map fun w => (w.woken.getD 0, w.th)
      berths := Tab.mapVals (fun _ b => { b with waiters := b.waiters.filter fun w => !mine w }) c.berths }

/-- A recorded core on a physical core, which keeps its own counters and caches, with an empty snapshot cache (R239, R330). What a quay core's
handlers of other contexts have queued stays ahead. -/
def Core.loaded (c r : Core) : Core :=
  { c with
    slots := r.slots, lastSlot := r.lastSlot, queue := r.queue, vregs := r.vregs, vpois := r.vpois, arr := r.arr, berths := r.berths
    wakeNo := r.wakeNo, accstat := r.accstat, pq := c.pq ++ r.pq, pubs := joinPubs c.pq.length c.pubs r.pubs, pins := [], board := c.board ++ r.board
    rpt := if c.rpt.svc then c.rpt else r.rpt
    owner := r.owner, woke := c.woke ++ r.woke, rel := r.rel, ni := r.ni }.wakeSaved

/-- A member's part of the restart record under its new index (R151, R329). -/
def Restart.onIndex (r : Restart) (i j : Nat) : Restart := if r.member = i then { r with member := j } else r

/-- A gang's join state with the part of one core of a recorded gang put back, on its new index: its own place in the join, the
mask, ROWPROG and the restart record that the gang shares, and whether the gang is paired. A core that has not joined brings none of the join's
(R109, R155, R329). -/
def Gang.rejoin (g x : Gang) (i j : Nat) : Gang :=
  let g1 := { g with paired := g.paired || x.paired }
  let pair := if x.paired then [i / 2 * 2, i / 2 * 2 + 1] else [i]
  let put := fun (n k : Nat) => pair.foldl (fun n m => if bit m k && !bit (m - i + j) n then n + 2 ^ (m - i + j) else n) n
  if pair.any fun m => bit m x.joined || bit m x.arrived then
    { g1 with
      mask := if i = j then x.mask else 2 ^ j
      arrived := put g.arrived x.arrived, joined := put g.joined x.joined, dissolving := g.dissolving || x.dissolving
      berths := match Tab.find i x.berths with
        | some b => Tab.set j b g.berths
        | none => g.berths
      rowprog := x.rowprog, restart := x.restart.map fun r => r.onIndex i j }
  else g1

/-- The record of a core restored to a physical core, which wakes if it is gated (R329, R330, R432); a paired core starts a new interval. -/
def State.restoreCore (s : State) (x : CoreRecord) (core : Nat) : State :=
  let s1 := (s.wakeCore core).updCore core fun c => let d := c.loaded x.core; if x.gang.paired then d.checkpoint else d
  (s1.updGang (gangOf core) fun g => g.rejoin x.gang (x.phys % 8) (core % 8)).putSpad core x.spad x.spois

/-- Where logical cores have moved: former and present physical cores. -/
abbrev Moved := List (Nat × Nat)

/-- The present core of a former one. -/
def movedTo (l : Moved) (core : Nat) : Nat := ((l.find? fun p => p.1 == core).map Prod.snd).getD core

/-- Kicks and copies of a context that name a core name the one that its logical core has moved to (R201, R329). -/
def State.moveKicks (s : State) (ctx : Nat) (l : Moved) : State :=
  let mv := fun (k : Kick) => if k.ctx = ctx then { k with core := movedTo l k.core } else k
  { s with quays := Tab.mapVals (fun _ q =>
      { q with chans := Tab.mapVals (fun _ c =>
          { c with
            copies := c.copies.map fun y => { y with kick := mv y.kick }
            pending := c.pending.map mv }) q.chans }) s.quays }

/-- A logical core's record point follows it: a core that has recorded for its job's snapshot has recorded where it is now (R328). -/
def State.moveAgents (s : State) (ctx : Nat) (l : Moved) : State :=
  if (s.ctx ctx).member then
    s.updJob (s.ctx ctx).job fun j => { j with snaps := j.snaps.map fun x =>
      if x.state = 1 then
        { x with recorded := x.recorded.filter (fun a => !l.any fun p => a == .core p.1)
                   ++ (l.filter fun p => x.recorded.contains (.core p.1)).map fun p => .core p.2 }
      else x }
  else s

/-- The berth of a core on which a handler sleeps, with its place on the wait list (R217). -/
def Core.sleeps (c : Core) (th : Thread) : Option (Nat × Nat × Waiter) :=
  c.berths.findSome? fun p =>
    (firstIdx (fun (w : Waiter) => w.th.svc && w.th.ctx == th.ctx && w.th.task == th.task) p.2.waiters).bind fun i =>
      (p.2.waiters[i]?).map fun w => (p.1, i, w)

/-- A core without the sleeping handlers of the contexts that `mine` names. -/
def Core.withoutSleepers (c : Core) (mine : Nat → Bool) : Core :=
  { c with berths := Tab.mapVals (fun _ b => { b with waiters := b.waiters.filter fun w => !(w.th.svc && mine w.th.ctx) }) c.berths }

/-- A handler has been woken in this cycle. -/
def State.wakesNow (s : State) (th : Thread) : Bool := s.cores.any fun c => c.2.woke.any fun t => t.2.svc && t.2.ctx == th.ctx && t.2.task == th.task

/-- A service record with what its handler sleeps on. The wait list of a core that `own` names is recorded with that core, with the handler on it
(R215, R325); a handler that has been woken in this cycle sleeps no more. -/
def State.withSleep (s : State) (own : Nat → Bool) (asleep : Bool) (r : SvcRecord) : SvcRecord :=
  if asleep && !s.wakesNow r.th then
    { r with
      asleep := true
      sleeps := s.cores.findSome? fun c => if own c.1 then none else c.2.sleeps r.th }
  else { r with asleep := false, sleeps := none }

/-- The service records of a context's threads in a quay's service slots, stopped (R325). -/
def State.serviceRecords (s : State) (own : Nat → Bool) (q ctx : Nat) : List SvcRecord :=
  let c := s.core (quayCore q)
  ((s.quay q).svc.filterMap fun x => x.slot.th.bind fun th =>
    if th.ctx = ctx then
      some (s.withSleep own (decide (x.slot.stall = some .asleep))
        { th := th, stub := x.stub, stubp := x.stubp, seed := x.seed, quay := q
          rpt := if c.rpt.svc && c.rpt.owner == some th.task && c.rpt.running then c.rpt else {} })
    else none) ++ ((s.quay q).svcBack.filter (·.th.ctx == ctx)).map fun r => s.withSleep own r.asleep { r with quay := q }

/-- The service slots of a quay that a context's threads hold, stopped. -/
def State.stopServices (s : State) (q ctx : Nat) : State :=
  (upFrom 0 16).foldl (fun t i =>
    let l : Loc := { svc := true, unit := q, slot := i }
    if (t.slot l).th.any (·.ctx == ctx) then t.stopSlot l else t) s

/-- The trapped threads of a context that wait at a quay for a service slot, in order (R103, R326). -/
def Quay.waitingOf (q : Quay) (ctx : Nat) : List Thread :=
  (q.svcQueue.filter (·.ctx == ctx)) ++ ((q.svcWait.filter (·.2.ctx == ctx)).map Prod.snd)

/-- A quay without a context's threads. -/
def Quay.without (q : Quay) (ctx : Nat) : Quay :=
  { q with
    svc := q.svc.map fun x => if x.slot.th.any (·.ctx == ctx) then {} else x
    svcBack := q.svcBack.filter (·.th.ctx != ctx)
    svcQueue := q.svcQueue.filter (·.ctx != ctx)
    svcWait := q.svcWait.filter (·.2.ctx != ctx) }

/-- The service pipelines without a context's threads, what they capture or run, what they have queued, and their places on wait lists. -/
def State.dropServices (s : State) (ctx : Nat) : State :=
  { s with
    quays := Tab.mapVals (fun _ q => q.without ctx) s.quays
    cores := Tab.mapVals (fun k c =>
      let d := (c.withoutSleepers (· == ctx)).keeping fun e => e.ctx != ctx
      if k = quayCore (quayOf k) ∧ d.rpt.svc ∧ (s.quay (quayOf k)).svc.any (fun x => x.slot.th.any fun t => t.ctx == ctx && d.rpt.owner == some t.task)
      then { d with rpt := {} } else d) s.cores }

/-- The berths of a context that have a monitor, each once, as rank and berth (R189, R390). -/
def State.monitorsOf (s : State) (ctx : Nat) : List (Nat × Nat) :=
  (s.quays.flatMap fun p => (p.2.monitors.filter (·.ctx == ctx)).map fun m => (m.rank, m.berth)).eraseDups

/-- The monitors of a context freed. -/
def State.dropMonitors (s : State) (ctx : Nat) : State :=
  { s with quays := Tab.mapVals (fun _ q => { q with monitors := q.monitors.filter (·.ctx != ctx) }) s.quays }

/-- The launches' watchdogs of a context stopped, with the time they had run (R300, R326). -/
def Launch.stopWdog (x : Launch) (now : Nat) : Launch :=
  { x with wdogLeft := x.wdogFrom.map fun t => now - t, wdogFrom := none }

/-- A watchdog that goes on from the time it had run (R330, R400). -/
def Launch.startWdog (x : Launch) (now : Nat) : Launch :=
  { x with wdogFrom := x.wdogLeft.map fun t => now - t, wdogLeft := none }

/-- Every launch of a context changed. -/
def State.eachLaunch (s : State) (ctx : Nat) (f : Launch → Launch) : State :=
  { s with launches := Tab.mapVals (fun _ x => if x.ctx = ctx then f x else x) s.launches }

/-- An implicit boundary at SYS scope, publish and refresh (R238, R314). -/
def State.implicitSys (s : State) (core : Nat) : State := (((s.publishNow core 3).refresh core).countImplicit core)

/-- The monitors of a list of berths incremented once each, through the rank table, before anything is dispatched (R189, R330, R400); a rank that is not
ACTIVE has its increment sent to it. -/
def State.incEach (s : State) (ctx : Nat) (l : List (Nat × Nat)) : State :=
  l.foldl (fun t p =>
    let e := (t.ctx ctx).rank p.1
    if e.state = 1 then t.incBerth e.phys ctx p.2 none else t.sendFrom 16384 (.frontEnd 0) ctx p.1 p.1 (.inc p.2 none)) s

end Sys2Proof.Machine
end

