-- ==== Sys2Proof/Machine/SaveArea.lean ====
section
/-!
DEFINITION. The save area in memory: thread contexts as packets of 128 bytes, and the regions of R325 (R193, R325, R327, R330). Regions whose
layout the manual does not give hold free bytes, and what they stand for is kept as data (log entry 38).
-/

namespace Sys2Proof.Machine

/-- Bytes that a save area takes (R325). -/
def saveNeeds (nranks : Nat) : Nat := 0x01100000 + nranks * 0x80000

/-- HDM offset of the core record of a rank (R325). -/
def coreArea (base rank : Nat) : Nat := base + 0x01100000 + rank * 0x80000

/-- The 128 bytes of a thread context (R193), sent by the logical rank `origin`. -/
def Thread.packet (th : Thread) (kind origin : Nat) : List Byte :=
  toBytes 8 th.pc.toNat ++ th.x.toList.flatMap (fun w => toBytes 8 w.toNat) ++ toBytes 8 th.status.toNat ++ toBytes 8 th.rngkey.toNat
    ++ toBytes 8 th.taskid.toNat ++ toBytes 4 th.seq.toNat ++ toBytes 2 th.pred.toNat ++ toBytes 2 (th.vq + 256 * th.vbase)
    ++ toBytes 2 (th.ctx % 4096) ++ toBytes 2 th.xp.toNat ++ toBytes 3 (origin % 2 ^ 24) ++ toBytes 1 kind

/-- A thread context with the fields that 128 bytes of its packet hold (R193). -/
def Thread.ofPacket (th : Thread) (b : List Byte) : Thread :=
  let f := fieldAt b
  { th with
    pc := BitVec.ofNat 64 (f 0 8), x := Vector.ofFn fun (i : Fin 10) => BitVec.ofNat 64 (f (8 + 8 * i.val) 8)
    status := BitVec.ofNat 64 (f 88 8), rngkey := BitVec.ofNat 64 (f 96 8), taskid := BitVec.ofNat 64 (f 104 8), seq := BitVec.ofNat 32 (f 112 4)
    pred := BitVec.ofNat 16 (f 116 2) ||| 1#16, vq := f 118 1, vbase := f 119 1, xp := BitVec.ofNat 10 (f 122 2) }

/-- Rows of 256 bytes as cells from an address upward. -/
def rowCells (at_ : Nat) (t : Tab VReg) : List (Nat × Byte) :=
  t.flatMap fun p => (upFrom 0 256).map fun i => (at_ + 256 * p.1 + i, p.2.extractLsb' (8 * i) 8)

/-- Rows of 256 bytes that cells from an address upward hold. -/
def rowsOf (at_ : Nat) (l : List (Nat × Byte)) : Tab VReg :=
  l.foldl (fun t c =>
    let r := (c.1 - at_) / 256
    Tab.set r ((Tab.get 0 r t : VReg) ||| ((c.2.setWidth 2048 : VReg) <<< (8 * ((c.1 - at_) % 256)))) t) []

/-- Free bytes as cells from an address upward (log entry 8). -/
def freeCells (n0 lo n : Nat) : List (Nat × Byte) :=
  (upFrom 0 n).filterMap fun i =>
    let b := BitVec.ofNat 8 (Config.freeValue (n0 + i))
    if b = unwritten then none else some (lo + i, b)

/-- A region of the save area written by the front end: its cells, with no poison. Monitors on it fire, and its pages count as written. -/
def State.areaPut (s : State) (lo n : Nat) (cells : List (Nat × Byte)) : State :=
  if inHdm lo n then
    { s with
      mem := s.mem.replace lo (lo + n) cells
      poison := poisReplace s.poison lo (lo + n) []
      latent := s.latent.filter fun x => !((memUnit x.array x.place x.unit).any fun u => decide (lo ≤ u) && decide (u < lo + n))
      jobs := Tab.mapVals (fun _ j => { j with written := (pageKeys lo n).foldl (fun w k => insNat k w) j.written }) s.jobs }.fireAll lo n
  else s

/-- A region of the save area whose contents have no stated layout. -/
def State.areaFree (s : State) (lo n : Nat) : State := { s.areaPut lo n (freeCells s.frees lo n) with frees := s.frees + n }

/-- Bytes of the save area. -/
def State.areaBytes (s : State) (lo : Nat) (bytes : List Byte) : State := s.areaPut lo bytes.length ((upFrom lo bytes.length).zip bytes)

/-- The contexts in the packet region of a core record: those of the core, with KIND 4, and those of the rank that wait for a service slot
(R325, R326 step 6). -/
def SaveArea.packetsOf (a : SaveArea) (x : CoreRecord) : List (Nat × Thread) :=
  ((x.core.threads.filter fun t => !t.svc).map fun t => (4, t)) ++ (a.svcWaiting.filter fun t => t.retRank == x.rank).map fun t => (2, t)

/-- A core record in memory (R325). -/
def State.writeCore (s : State) (base : Nat) (a : SaveArea) (x : CoreRecord) : State :=
  let o := coreArea base x.rank
  let s1 := ((s.areaFree o 0x1000).areaFree (o + 0x5000) 0x8000).areaFree (o + 0xF000) 0x11000
  let s2 := s1.areaBytes (o + 0x1000) (((a.packetsOf x).take 128).flatMap fun p => p.2.packet p.1 x.rank)
  let s3 := s2.areaPut (o + 0xD000) 0x2000 (rowCells (o + 0xD000) (x.core.vregs.filter fun p => decide (p.1 < 32)))
  let s4 := s3.areaPut (o + 0x20000) 0x20000 (rowCells (o + 0x20000) (x.core.arr.acc.filter fun p => decide (p.1 < 512)))
  s4.areaPut (o + 0x40000) 0x40000 (x.spad.map fun c => (o + 0x40000 + c.1, c.2))

/-- The save area of a context written to memory: header, channel records, service records and core records (R325). -/
def State.writeArea (s : State) (c : Nat) (a : SaveArea) : State :=
  let base := (s.ctx c).desc.savebase
  let chans := (s.quays.map fun q => q.2.chans.countP fun h => h.2.owner == some c).sum
  let s1 := ((s.areaFree base 0x10000).areaFree (base + 0x10000) (64 * chans)).areaFree (base + 0x100000) (0x2000 * a.services.length)
  a.cores.foldl (fun t x => t.writeCore base a x) s1

/-- A thread with the fields of its packet as the save area holds them. -/
def State.rereadThread (s : State) (base : Nat) (x : CoreRecord) (l : List (Nat × Thread)) (th : Thread) : Thread :=
  let o := coreArea base x.rank
  match firstIdx (fun (p : Nat × Thread) => p.2.ctx == th.ctx && p.2.task == th.task) (l.take 128) with
  | some i => if inHdm o 0x80000 then th.ofPacket (s.mem.readN (o + 0x1000 + 128 * i) 128) else th
  | none => th

/-- A core record as the save area holds it when it is read: the packets, the V registers, the accumulator banks and the scratchpad
(R193, R325, R330). -/
def State.loadBytes (s : State) (base : Nat) (a : SaveArea) (x : CoreRecord) : CoreRecord :=
  let o := coreArea base x.rank
  if inHdm o 0x80000 then
    let c := x.core.mapThreads (s.rereadThread base x (a.packetsOf x))
    { x with
      core := { c with
        vregs := rowsOf (o + 0xD000) (s.mem.range (o + 0xD000) (o + 0xF000))
        arr := { c.arr with acc := rowsOf (o + 0x20000) (s.mem.range (o + 0x20000) (o + 0x40000)) } }
      spad := (s.mem.range (o + 0x40000) (o + 0x80000)).map fun c => (c.1 - (o + 0x40000), c.2) }
  else x

/-- The contexts that waited for a service slot as the save area holds them (R326 step 6, R330 step 5). -/
def State.waitingFrom (s : State) (base : Nat) (a : SaveArea) : List Thread :=
  a.svcWaiting.map fun th => match a.cores.find? fun x => x.rank == th.retRank with
    | some x => s.rereadThread base x (a.packetsOf x) th
    | none => th

end Sys2Proof.Machine
end

