-- ==== Sys2Proof/Machine/SnapOps.lean ====
section
/-!
DEFINITION. Snapshots: which agents serve a job, the record points of cores and engines, and channel state (R388 to R396).
-/

namespace Sys2Proof.Machine

/-- The agents of a die that serve a job (R389, R390). -/
def State.jobAgents (s : State) (j d : Nat) : List SnapAgent :=
  ((s.jobCores j).filter fun x => dieOf x.2.2 == d).map (fun x => SnapAgent.core x.2.2)
    ++ (s.jobQuays j d).map SnapAgent.quayCore
    ++ ((upFrom (16 * d) 16).filter fun q => (s.quay q).chans.any fun c => c.2.owner.any (s.inJob j)).map SnapAgent.lighter
    ++ [.collective d, .sampler d, .frontEnd d]

/-- The die of an agent. -/
def agentDie : SnapAgent → Nat
  | .core p => dieOf p
  | .quayCore q => q / 16
  | .lighter q => q / 16
  | .collective d => d
  | .sampler d => d
  | .frontEnd d => d

/-- The number after the latest snapshot's (R388). -/
def nextSnap (n : Nat) : Nat := if 0xFFFFFFFE ≤ n then 1 else n + 1

/-- The cores of a gang that a job's ACTIVE ranks have and that have not recorded, with context and rank. -/
def State.gangToRecord (s : State) (j g : Nat) (r : Snapshot) : List (Nat × Nat × Nat) :=
  (s.jobCores j).filter fun x => gangOf x.2.2 == g && ((s.ctx x.1).rank x.2.1).state == 1 && !r.recorded.contains (.core x.2.2)

/-- The records of cores as they would be stopped now: windows close, DRAWs that have no result are backed out, a running MMA is cut at a row,
and sequences stop between instructions (R21, R154, R275, R348, R390). -/
def State.coreRecords (s : State) (xs : List (Nat × Nat × Nat)) : List (Nat × CoreRecord) :=
  let t := xs.foldl (fun t x => t.cutMma x.2.2) s
  let u := xs.foldl (fun t x => t.stopCore x.2.2) t
  let mine := fun (ctx x : Nat) => ctx == x || ((s.ctx ctx).member && (s.ctx x).member && (s.ctx ctx).job == (s.ctx x).job)
  xs.map fun x =>
    let r := u.coreRecord (mine x.1) x.1 x.2.1 x.2.2
    (x.1, { r with core := r.core.withoutSleepers fun c => !mine x.1 c, spad := [], spois := [] })

/-- The cores of a gang record (R390): in one step, so that a gang MMA is cut at one row (R154). Execution goes on at once: the cores stop in the
record alone. A pair records at the end of an interval, and a gated core wakes. -/
def State.recordGang (s : State) (j g : Nat) : State :=
  match (s.job j).recording with
  | none => s
  | some r =>
    let xs := s.gangToRecord j g r
    let s1 := xs.foldl (fun t x => t.wakeCore x.2.2) s
    let s2 := xs.foldl (fun t x => if t.intervalOpen x.2.2 then t.endPair x.2.2 else t) s1
    let recs := s2.coreRecords xs
    let s3 := xs.foldl (fun t x => (barrelLocs x.2.2).foldl State.settleSlot t) s2
    let s4 := xs.foldl (fun t x => t.armSpad j x) s3
    let ps := xs.map fun x => x.2.2
    s4.withRecord j (ps.map .core) fun x => { x with cores := x.cores ++ recs, due := x.due.filter fun p => !ps.contains p }

/-- The service locations of a quay. -/
def serviceLocs (q : Nat) : List Loc := (upFrom 0 16).map fun i => { svc := true, unit := q, slot := i }

/-- The service pipeline of a quay records the service slots of a job's ACTIVE contexts, the trapped ones that wait, what they have queued at a quay core
of no rank of the job, and its monitors, which stay armed (R390). Those of a context that is saved are recorded as it resumes (R328). -/
def State.recordService (s : State) (j q : Nat) : State :=
  match (s.job j).recording with
  | none => s
  | some r =>
    if r.recorded.contains (.quayCore q) || !(s.jobQuays j (q / 16)).contains q then s
    else
      let ms := (s.members j).filter fun c => (s.ctx c).state == 1 && !r.svcDone.contains (q, c)
      let own := fun (p : Nat) => (s.jobCores j).any fun x => x.2.2 == p
      let t := ms.foldl (fun t c => t.stopServices q c) s
      let s1 := (serviceLocs q).foldl (fun u l => if ms.any fun c => (u.slot l).th.any (·.ctx == c) then u.settleSlot l else u) s
      let queued := (t.core (quayCore q)).keeping fun e => ms.contains e.ctx
      s1.withRecord j [.quayCore q] fun x =>
        { x with
          services := x.services ++ ms.flatMap fun c => t.serviceRecords own q c
          svcWaiting := x.svcWaiting ++ ms.flatMap fun c => (t.quay q).waitingOf c
          svcDone := x.svcDone ++ ms.map fun c => (q, c)
          svcQueues := if own (quayCore q) || queued.pq.isEmpty then x.svcQueues else x.svcQueues ++ [(q, queued.pq, queued.pubs)]
          monitors := x.monitors ++ (((t.quay q).monitors.filter fun m => ms.contains m.ctx).map fun m => (m.ctx, m.rank, m.berth)) }

/-- A place of threads records: a gang's cores, and with those of the last gang of a quay its service pipeline, which is the quay core's
(R103, R390). -/
def State.recordPlace (s : State) (j g : Nat) : State :=
  let t := s.recordGang j g
  if g % 4 = 3 then t.recordService j (g / 4) else t

/-- An engine records its part (R390). The collective engines of a job's dies record in one step: what one sends up or down its tree meets engines
that have recorded alike (log entry 61). -/
def State.recordEngine (s : State) (j : Nat) (r : Snapshot) (a : SnapAgent) : State :=
  match a with
  | .lighter q => s.withRecord j [a] fun x =>
      { x with chans := x.chans ++ ((s.quay q).chans.filter fun c => c.2.owner.any (s.inJob j)).map fun c => (q, c.1, c.2) }
  | .collective _ =>
    let t := r.dies.foldl (fun t d => t.startDie j d) s
    t.withRecord j (r.dies.map .collective) fun x =>
      { x with colls := x.colls ++ r.dies.flatMap fun d => ((t.die d).colls.filter fun o => t.inJob j o.ctx).map fun o => (d, o) }
  | .sampler d => s.withRecord j [a] fun x =>
      { x with slates := x.slates ++
          (s.slates.filter fun p => slateDie p.1 == d && p.2.alloc && s.inJob j p.2.ctx).map fun p => { i := p.1, slate := p.2 } }
  | .frontEnd d =>
    let f := s.frontRecord j d
    s.withRecord j [a] fun x => { x with launches := x.launches ++ f.1, parked := x.parked ++ f.2 }
  | .core p => s.recordPlace j (gangOf p)
  | .quayCore q => s.recordPlace j (4 * q + 3)

/-- An agent records its part (R390), if it is of the job, its die has started and it has not; a core whose context is saved waits for its
resumption (R328). -/
def State.recordAgent (s : State) (j : Nat) (a : SnapAgent) : State :=
  match (s.job j).recording with
  | none => s
  | some r =>
    let d := agentDie a
    if r.recorded.contains a || !r.started.contains d || !(s.jobAgents j d).contains a then s
    else (s.recordEngine j r a).wakeAligned

/-- The cores record whose scratchpads a write of the new colour has reached in this step (R390, R394). -/
def State.recordDue (s : State) : State :=
  s.jobs.foldl (fun t j => match (t.job j.1).recording with
    | some r => r.due.foldl (fun u p => u.recordAgent j.1 (.core p)) t
    | none => t) s

/-- Two agents of a job that are to act on one another without a packet: where one has recorded, the other's die starts and it records first
(R389, R390; log entry 61). -/
def State.align (s : State) (ctx : Nat) (a b : SnapAgent) : State :=
  if s.aligned ctx a b then s
  else
    let j := (s.ctx ctx).job
    let go := fun (t : State) (x : SnapAgent) => (t.startDie j (agentDie x)).recordAgent j x
    go (go s a) b

/-- A context's handlers were recorded before it was saved (R328). -/
def State.svcRecorded (s : State) (c quay : Nat) : Bool :=
  (s.ctx c).member && ((s.job (s.ctx c).job).recording.any fun r => r.svcDone.contains (quay, c))

/-- The colour of the trapped contexts of a resumed context that are sent again: the new one where they have been recorded (R328, R388). -/
def State.resentColour (s : State) (c quay : Nat) : Bool :=
  match (s.job (s.ctx c).job).recording with
  | some r => (s.ctx c).member && (r.n % 2 == 1) == s.svcRecorded c quay
  | none => s.colour c (.frontEnd 0)

/-- A context that has been resumed records, where a snapshot of its job is being taken: its cores, and its handlers where they had not recorded before
the save; those are added to the records of their quays (R328, R390). -/
def State.recordResumed (s : State) (c : Nat) (services : List SvcRecord) : State :=
  let x := s.ctx c
  if x.member && (s.job x.job).recording.isSome then
    let late := services.filter fun r => !s.svcRecorded c r.quay
    let s1 := s.updJob x.job fun y => y.updRec fun z =>
      { z with services := z.services ++ late, svcDone := (z.svcDone.filter fun p => p.2 != c) ++ x.quays.map fun q => (q, c) }
    let s2 := ((x.cores.map fun p => dieOf p.2).eraseDups).foldl (fun t d => t.startDie x.job d) s1
    let s3 := x.cores.foldl (fun t p => t.recordAgent x.job (.core p.2)) s2
    x.quays.foldl (fun t q => t.recordAgent x.job (.quayCore q)) s3
  else s

/-- The die of a sender (R216, R240). -/
def srcDie (src : Nat) : Nat :=
  if src < 4096 then dieOf src else if src < 8192 then (src - 4096) / 16 else if src < 12288 then src - 8192 else if src < 16384 then src - 12288
  else if src < 20480 then src - 16384 else src - 20480

/-- What a packet means to the snapshot of its job as it reaches a receiver (R389, R390, R394, R396): one of the new colour starts the die and makes
the receiver record first; one of the old colour that comes after the receiver's record point is channel state. -/
def State.seePacket (s : State) (p : Packet) (a : SnapAgent) : State :=
  let c := s.ctx p.ctx
  if c.member then
    match (s.job c.job).recording with
    | none => s
    | some r =>
      if p.colour = (r.n % 2 == 1) then (s.startDie c.job (agentDie a)).recordAgent c.job a
      else if r.recorded.any (sameCore a) then s.updJob c.job fun y => y.updRec fun x => { x with packets := x.packets ++ [p] }
      else s
  else s

/-- The agent that a packet reaches at a core: a trapped context goes to the quay core (R103, R396). -/
def Packet.reaches (p : Packet) (core : Nat) : SnapAgent :=
  match p.kind with
  | .context 2 _ => .quayCore (quayOf core)
  | _ => .core core

/-- Packets of a job in flight: on the network, and held for a rank that is IN_TRANSIT or SAVED. -/
def State.jobPackets (s : State) (j : Nat) : List Packet :=
  (s.net.filter fun p => s.inJob j p.ctx) ++ (s.members j).flatMap fun c => (s.ctx c).ranks.flatMap fun r => r.2.held

/-- Chunks of the old colour in flight from or to a die (R396): those that were in flight as their lighter recorded and still are. -/
def State.oldChunks (s : State) (r : Snapshot) (d : Nat) : Nat :=
  (r.chans.map fun x => (x.2.2.copies.map fun c =>
    if x.1 / 16 = d ∨ dieOf ((s.ctx c.kick.ctx).rank c.rank).phys = d then c.flight.countP fun k => !k.parked else 0).sum).sum

/-- Old-colour packets of a job to or from a die (R395). -/
def State.oldPackets (s : State) (j d : Nat) (r : Snapshot) : Nat :=
  ((s.jobPackets j).countP fun p => p.colour != (r.n % 2 == 1) &&
    (srcDie p.src == d || (decide (p.rank < 2 ^ 24) && dieOf ((s.ctx p.ctx).rank p.rank).phys == d))) + s.oldChunks r d

/-- A merge-buffer line holds a job's operation of a colour. -/
def MergeLine.hasColour (m : MergeLine) (s : State) (j : Nat) (new : Bool) : Bool := m.ops.any fun e => s.inJob j e.ctx && e.colour != new

/-- The old-colour entries that a die's buffers still hold carried to their homes (R388, R394). -/
def State.drainOld (s : State) (j d : Nat) (new : Bool) : State :=
  let s1 := (upFrom (16 * d) 16).foldl (fun t q =>
    ((t.quay q).merge.filter fun m => m.hasColour t j new).foldl (fun u m => u.deliver q 3 m.line []) t) s
  let s2 := ((s1.die d).merge.filter fun m => m.hasColour s1 j new).foldl (fun u m => u.deliverDie d 3 m.line []) s1
  (s2.pkgMerge.filter fun m => m.hasColour s2 j new).foldl (fun u m => u.drainPkg m.line) s2

/-- Every agent of a die has recorded. -/
def State.dieRecorded (s : State) (j d : Nat) (r : Snapshot) : Bool := r.started.contains d && (s.jobAgents j d).all r.recorded.contains

/-- A die's channel recording is complete (R395). -/
def State.dieComplete (s : State) (j d : Nat) (r : Snapshot) : Bool :=
  s.dieRecorded j d r && s.oldPackets j d r == 0 && r.dies.all fun e => e == d || r.clappers.contains (e, d)

/-- The root slots of page images: address, domain, seal, and whether it is unknown (R398). -/
def State.rootsOf (s : State) (ps : List PageImage) : List (Nat × Nat × Nat × Bool) :=
  ps.flatMap fun p =>
    let c := s.ctx p.ctx
    if p.rank.isNone && homeKind p.home == Home.hbm && (c.leaf p.va).any (fun q => q.cls == .root) then
      ((p.data.map fun d => d.1 / 16 * 16).eraseDups).filterMap fun a =>
        let sl := ofBytes (Memory.readN p.data a 16)
        if sl = 0 then none else some (a, c.desc.cadom, sl, (s.caFind c.desc.cadom sl).isNone)
    else []

end Sys2Proof.Machine
end

