-- ==== Sys2Proof/Machine/Store.lean ====
section
/-!
DEFINITION. A job's snapshot store: what a snapshot keeps there, the manifests, the directory, completion, release, and the check of the stored
bytes (R397 to R400, R442, R443).
-/

namespace Sys2Proof.Machine

/-- An entry of a manifest before its bytes have a place (R398): its die, KIND, SIZE, FLAGS and WHERE, the page or sub-block that it is an image of,
how many bytes it stores and those that are not zero, and its digest. -/
structure ManifestEntry where
  die : Nat
  kind : Nat
  size : Nat := 0
  flags : Nat := 0
  at_ : Nat
  home : Option Nat := none
  len : Nat := 0
  cells : List (Nat × Byte) := []
  digest : List Byte

/-- The 64 bytes of an entry (R398). LEN counts stored bytes, and is 0 where none are (DEDUCED, log entry 34). -/
def ManifestEntry.bytes (e : ManifestEntry) (store : Nat) : List Byte :=
  toBytes 1 e.kind ++ toBytes 1 e.size ++ toBytes 1 e.flags ++ rep 5 0 ++ toBytes 8 e.at_ ++ toBytes 8 store ++ toBytes 8 e.len ++ e.digest

/-- The 64 bytes of a manifest's header; the package is number 0 (R8, R398). -/
def manifestHeader (j n die count prev : Nat) : List Byte :=
  toBytes 4 j ++ toBytes 4 n ++ toBytes 2 0 ++ toBytes 1 die ++ rep 1 0 ++ toBytes 4 count ++ toBytes 8 prev ++ rep 40 0

/-- The digest of stored bytes (R398). -/
def storeDigest (bs : List Byte) : List Byte := shake256 bs 32

/-- Bytes given by those that are not zero, by offset. -/
def cellBytes (len : Nat) (cells : List (Nat × Byte)) : List Byte := Memory.readN cells 0 len

/-- The bytes of an image that are not zero, by offset in it. -/
def PageImage.cells (p : PageImage) : List (Nat × Byte) := p.data.map fun c => (c.1 - p.home, c.2)

/-- The entry of a page or sub-block (R397, R398); `zero4` and `zero64` are the digests of pages of zeros. -/
def PageImage.entry (p : PageImage) (zero4 zero64 : List Byte) : ManifestEntry :=
  { die := homeDie p.home, kind := if p.same then 3 else 2, size := if p.size = 65536 then 1 else 0, at_ := p.va
    home := some p.home, len := if p.same then 0 else p.size, cells := if p.same then [] else p.cells
    digest := if p.data.isEmpty then (if p.size = 65536 then zero64 else zero4) else storeDigest (cellBytes p.size p.cells) }

/-- The entry of a root slot: its address is the one that its page is mapped at (R398). -/
def Snapshot.rootEntry (x : Snapshot) (r : Nat × Nat × Nat × Bool) : ManifestEntry :=
  let va := ((x.pages.find? fun p => decide (p.home ≤ r.1) && decide (r.1 < p.home + p.size)).map fun p => p.va + (r.1 - p.home)).getD 0
  { die := homeDie r.1, kind := 5, flags := b2n r.2.2.2, at_ := va, digest := toBytes 16 r.2.2.1 ++ rep 16 0 }

/-- An entry whose stored bytes have no layout in the manual: a core's state, or a packet that is no thread context (DESIGN CHOICE, log entry 34). -/
def State.freeEntry (s : State) (die kind rank : Nat) : ManifestEntry × State :=
  let n := Config.freeValue s.frees
  let cells := freeCells (s.frees + 1) 0 n
  ({ die := die, kind := kind, at_ := rank % 2 ^ 24, len := n, cells := cells, digest := storeDigest (cellBytes n cells) },
    { s with frees := s.frees + 1 + n })

/-- The entry of a recorded packet (R193, R394, R396, R398). -/
def State.packetEntry (s : State) (p : Packet) : ManifestEntry × State :=
  let die := if p.rank < 2 ^ 24 then dieOf ((s.ctx p.ctx).rank p.rank).phys else min 7 ((p.rank - 2 ^ 25) / 16)
  match p.kind with
  | .context k th =>
    let b := th.packet k p.origin
    ({ die := die, kind := 4, at_ := p.rank % 2 ^ 24, len := 128, cells := (upFrom 0 128).zip b, digest := storeDigest b }, s)
  | _ => s.freeEntry die 4 p.rank

/-- Entries gathered one after another. -/
def gather {α : Type} (f : State → α → ManifestEntry × State) (l : List α) (s : State) : List ManifestEntry × State :=
  l.foldl (fun acc a => let r := f acc.2 a; (acc.1 ++ [r.1], r.2)) ([], s)

/-- The entries of a snapshot: a BLOB for each core, PAGE or SAME for each page and sub-block, the packets in arrival order, the root slots
(R398). -/
def State.entriesOf (s : State) (x : Snapshot) (roots : List (Nat × Nat × Nat × Bool)) : List ManifestEntry × State :=
  let zero := fun (n : Nat) => if x.pages.any fun p => p.size == n && p.data.isEmpty then storeDigest (rep n 0) else []
  let z4 := zero 4096
  let z64 := zero 65536
  let blobs := gather (fun t (c : Nat × CoreRecord) => t.freeEntry (dieOf c.2.phys) 1 c.2.rank) x.cores s
  let packets := gather State.packetEntry x.packets blobs.2
  (blobs.1 ++ x.pages.map (fun p => p.entry z4 z64) ++ packets.1 ++ roots.map x.rootEntry, packets.2)

/-! Places in the store (R443) -/

/-- The spans of the store that no item uses, after its directory: offset and end. -/
def holesOf (size : Nat) (items : List StoreItem) : List (Nat × Nat) :=
  items.foldl (fun hs i => hs.flatMap fun h =>
    [(h.1, min h.2 i.off), (max h.1 (i.off + i.len), h.2)].filter fun k => decide (k.1 < k.2)) [(65536, size)]

/-- A place for an item in the holes, where one is large enough: the engines' own choice, a free value (R443; log entry 34). -/
def placeItem (v n : Nat) (hs : List (Nat × Nat)) : Option (Nat × List (Nat × Nat)) :=
  let fit := hs.filter fun h => decide (h.1 + n ≤ h.2)
  (fit[v % fit.length]?).map fun h =>
    let o := h.1 + v / fit.length % (h.2 - h.1 - n + 1)
    (o, hs.flatMap fun k => if k = h then [(h.1, o), (o + n, h.2)].filter fun x => decide (x.1 < x.2) else [k])

/-- Entries placed one after another: each with the offset in the store of what it stores, 0 where it stores nothing; none where one finds no
place. -/
def placeEntries (frees : Nat) : List ManifestEntry → List (Nat × Nat) → Option (List (ManifestEntry × Nat) × List (Nat × Nat))
  | [], hs => some ([], hs)
  | e :: t, hs =>
    if e.len = 0 then (placeEntries (frees + 1) t hs).map fun r => ((e, 0) :: r.1, r.2)
    else match placeItem (Config.freeValue frees) e.len hs with
      | none => none
      | some (o, hs1) => (placeEntries (frees + 1) t hs1).map fun r => ((e, o) :: r.1, r.2)

/-- The manifests of a snapshot placed: die, offset and entries. -/
def placeManifests (frees : Nat) (es : List (ManifestEntry × Nat)) : List Nat → List (Nat × Nat) →
    Option (List (Nat × Nat × List (ManifestEntry × Nat)))
  | [], _ => some []
  | d :: t, hs =>
    let mine := es.filter fun e => e.1.die == d
    match placeItem (Config.freeValue frees) (64 + 64 * mine.length) hs with
    | none => none
    | some (o, hs1) => (placeManifests (frees + 1) es t hs1).map fun r => (d, o, mine) :: r

/-- The store's space that retained snapshots use. -/
def Job.items (j : Job) : List StoreItem := (j.snaps.filter (·.state == 2)).flatMap (·.items)

/-- The offset in the store of a die's manifest of a snapshot (R443). -/
def Snapshot.manifestAt (x : Snapshot) (d : Nat) : Option Nat := (x.items.find? fun i => i.kind == 0 && i.die == d).map (·.off)

/-- HDM offset of the die's manifest for the previous retained snapshot, or 0 (R398). -/
def Job.prevManifest (j : Job) (d : Nat) : Nat :=
  ((((j.snaps.filter (·.state == 2)).reverse).findSome? fun x => x.manifestAt d).map (j.store + ·)).getD 0

/-- What a snapshot writes to the store, in order: offset, length and the bytes that are not zero. -/
abbrev StoreWrites := List (Nat × Nat × List (Nat × Byte))

/-- Regions of a store written. -/
def State.storeAll (s : State) (base : Nat) (l : StoreWrites) : State :=
  l.foldl (fun t w => t.areaPut (base + w.1) w.2.1 (w.2.2.map fun c => (base + w.1 + c.1, c.2))) s

/-- A snapshot put into its job's store, with its items and manifests; none where an item finds no place (R398, R399, R443). -/
def State.storeSnap (s : State) (j : Nat) (r : Snapshot) (roots : List (Nat × Nat × Nat × Bool)) : Option (Snapshot × State) :=
  let jb := s.job j
  let es := s.entriesOf r roots
  let holes := holesOf jb.size jb.items
  match placeEntries es.2.frees es.1 (if jb.size ≤ 65536 then [] else holes) with
  | none => none
  | some (ps, hs) =>
    match placeManifests (es.2.frees + ps.length) ps r.dies hs with
    | none => none
    | some ms =>
      let manifest := fun (m : Nat × Nat × List (ManifestEntry × Nat)) =>
        manifestHeader j r.n m.1 m.2.2.length (jb.prevManifest m.1)
          ++ m.2.2.flatMap fun e => e.1.bytes (if e.1.len = 0 then 0 else jb.store + e.2)
      let items := (ps.filter fun e => e.1.len != 0).map (fun e =>
          ({ kind := e.1.kind, die := e.1.die, home := e.1.home, off := e.2, len := e.1.len } : StoreItem))
        ++ ms.map fun m => { kind := 0, die := m.1, home := none, off := m.2.1, len := 64 + 64 * m.2.2.length }
      let mans := ms.map fun m => (m.1, manifest m)
      let writes : StoreWrites := (ps.filter fun e => e.1.len != 0).map (fun e => (e.2, e.1.len, e.1.cells))
        ++ ms.map fun m => let b := manifest m; (m.2.1, b.length, (upFrom 0 b.length).zip b)
      some ({ r with items := items, manifests := mans },
        { es.2 with frees := es.2.frees + ps.length + ms.length }.storeAll jb.store writes)

/-- The directory of a job's store (R443): one entry of 128 bytes for each retained snapshot. -/
def State.writeDirectory (s : State) (j : Nat) : State :=
  let jb := s.job j
  let keep := jb.snaps.filter (·.state == 2)
  let bytes := ((upFrom 0 16).map fun i => match keep[i]? with
    | some x => toBytes 4 x.n ++ rep 4 0 ++ (upFrom 0 8).flatMap (fun d => toBytes 8 (((x.manifestAt d).map (jb.store + ·)).getD 0)) ++ rep 56 0
    | none => rep 128 0).flatten
  s.areaPut jb.store 65536 ((upFrom jb.store bytes.length).zip bytes)

/-! Release and completion (R399) -/

/-- A snapshot's references dropped (R399). -/
def State.dropRoots (s : State) (x : Snapshot) : State :=
  x.roots.foldl (fun t r => if r.2.2.2 then t else t.sendDec (sealHome r.2.2.1) 4096 r.2.1 r.2.2.1) s

/-- Stored bytes that the retained snapshot after a released one refers to stay, with that one (R399). -/
def inherit (x : Snapshot) : List Snapshot → List Snapshot
  | [] => []
  | y :: t =>
    if y.state = 1 then y :: inherit x t
    else { y with items := y.items ++ x.items.filter fun i => i.home.any fun h => y.pages.any fun p => p.home == h && p.same } :: t

/-- A retained snapshot released, and its entry of the directory with it (R399, R443). -/
def State.releaseSnap (s : State) (j n : Nat) : State :=
  let gone := fun (z : Snapshot) => z.n == n && z.state == 2
  match firstIdx gone (s.job j).snaps with
  | none => s
  | some i => match (s.job j).snaps[i]? with
    | none => s
    | some x =>
      ((s.updJob j fun y => { y with snaps := y.snaps.take i ++ inherit x (y.snaps.drop (i + 1)) }).dropRoots x).writeDirectory j

/-- A recording snapshot ends COMPLETE, or FAILED where the store cannot hold it (R398, R399, R443). -/
def State.endSnap (s : State) (j : Nat) : State :=
  match (s.job j).recording with
  | none => s
  | some r =>
    let roots := s.rootsOf r.pages
    match s.storeSnap j r roots with
    | none => { s with frees := s.frees + 1 }.failSnap j
    | some (r1, t) =>
      let u := roots.foldl (fun t q => if q.2.2.2 then t else t.caInc q.2.1 q.2.2.1) t
      ((u.updJob j fun y => y.updRec fun _ => { r1 with state := 2, roots := roots }).writeDirectory j).tellSnap r1

/-! The check of a rollback (R400 step 1, R443) -/

/-- Bytes of the store as they stand. -/
def State.storedCells (s : State) (base : Nat) (i : StoreItem) : List (Nat × Byte) :=
  let lo := base + i.off
  (s.mem.range lo (lo + i.len)).map fun c => (c.1 - lo, c.2)

/-- The bytes of an item match a digest. -/
def State.digestOk (s : State) (base : Nat) (i : StoreItem) (d : List Byte) : Bool :=
  storeDigest (cellBytes i.len (s.storedCells base i)) == d

/-- The item that holds the bytes of an image: its own snapshot's, or for SAME that of the nearest snapshot before it. -/
def Job.itemOf (j : Job) (x : Snapshot) (p : PageImage) : Option StoreItem :=
  let mine := fun (y : Snapshot) => y.items.find? fun i => i.home == some p.home
  let upTo := (j.snaps.takeWhile fun y => y.n != x.n) ++ [x]
  upTo.reverse.findSome? mine

/-- The stored bytes of an image are what was stored (R400 step 1). -/
def State.pageStored (s : State) (j : Job) (x : Snapshot) (p : PageImage) : Bool :=
  match j.itemOf x p with
  | none => false
  | some i => decide (s.storedCells j.store i = p.cells) || s.digestOk j.store i (storeDigest (cellBytes p.size p.cells))

/-- The manifest of a die is as it was written, and so are the blobs and packets that it names (R400 step 1; DESIGN CHOICE, log entry 34: a damaged
manifest refuses the request). -/
def State.manifestStored (s : State) (j : Job) (x : Snapshot) (m : Nat × List Byte) : Bool :=
  match x.items.find? fun i => i.kind == 0 && i.die == m.1 with
  | none => false
  | some i =>
    decide (cellBytes i.len (s.storedCells j.store i) = m.2)
      && (x.items.filter fun k => k.die == m.1 && (k.kind == 1 || k.kind == 4)).all fun k =>
        (upFrom 1 (m.2.length / 64 - 1)).any fun e =>
          let b := (m.2.drop (64 * e)).take 64
          ofBytes ((b.drop 16).take 8) == j.store + k.off && ofBytes (b.take 1) == k.kind && s.digestOk j.store k (b.drop 32)

/-- Every stored digest of a snapshot matches (R400 step 1). -/
def State.storeOk (s : State) (j : Nat) (x : Snapshot) : Bool :=
  x.pages.all (s.pageStored (s.job j) x) && x.manifests.all (s.manifestStored (s.job j) x)

end Sys2Proof.Machine
end

