-- ==== Sys2Proof/Machine/Snap.lean ====
section
/-!
DEFINITION. SNAP, SNAPQ and ROLLBACK, major 0x76, the host's requests and the events of a snapshot (R386 to R402).
-/

namespace Sys2Proof.Machine

/-- A SNAP of a job decided by the engine of a die: the reason of a refusal, or the number and the state (R389, R391, R392). -/
def State.snapRequest (s : State) (j d : Nat) (target : Option (Nat × Nat × Nat)) : Except Nat (Nat × State) :=
  let jb := s.job j
  if jb.recording.isSome then .error 2
  else if jb.size = 0 then .error 3
  else
    let keep := jb.snaps.filter (·.state == 2)
    let s1 := match keep with
      | x :: _ => if 16 ≤ keep.length then s.releaseSnap j x.n else s
      | [] => s
    let n := nextSnap jb.latest
    let s2 := s1.updJob j fun x =>
      { x with latest := n, failed := none, snaps := x.snaps ++ [{ n := n, dies := s.jobDies j, target := target }] }
    .ok (n, s2.startDie j d)

/-- The address of a page image still translates, present and writable (R400 step 1). -/
def State.imageOk (s : State) (j : Nat) (p : PageImage) : Bool :=
  match p.rank with
  | some r => ((s.ctx p.ctx).rank r).state != 0
  | none =>
    if homeKind p.home = Home.quay then true
    else (s.members j).any fun c => c == p.ctx && ((s.ctx c).leaf p.va).any fun q => q.present && q.write

/-- Where a page image goes back to: the frame or the scratchpad that its address names now. -/
def State.imageHome (s : State) (p : PageImage) : Nat :=
  match p.rank with
  | some r => spadHome ((s.ctx p.ctx).rank r).phys (p.home % 262144)
  | none => match (s.ctx p.ctx).leaf p.va with
    | some q => if homeKind p.home = Home.hbm then q.frame + (p.va - q.va) else p.home
    | none => p.home

/-- Memory with the bytes of a page image put back from `h` on under a key slot (R428). -/
def State.putPlain (s : State) (slot h : Nat) (p : PageImage) : Memory :=
  if slot = 0 then s.mem.replace h (h + p.size) (p.data.map fun c => (c.1 - p.home + h, c.2))
  else (upFrom 0 (p.size / 32)).foldl (fun m k => sectorStore (s.keyBytes slot) m (h + 32 * k) (Memory.readN p.data (p.home + 32 * k) 32)) s.mem

/-- A page image written back with its poison (R400 step 3, R442). -/
def State.putImage (s : State) (p : PageImage) : State :=
  let h := s.imageHome p
  { s with
    mem := s.putPlain (s.imageKey p.ctx p.va p.home) h p
    poison := poisReplace s.poison h (h + p.size) (p.pois.map fun u => u - p.home + h) }

/-- Traffic of a generation of a context that is over: publish entries in merge buffers, chunks in flight and collective operations are discarded,
each counted as advisory non-fatal (R319). -/
def State.staleTraffic (s : State) (c : Nat) : State :=
  let mine := fun (e : QEntry) => e.ctx == c
  let clean := fun (l : List MergeLine) => (l.map fun m => { m with ops := m.ops.filter fun e => !mine e }).filter fun m => !m.ops.isEmpty
  let inBuf := fun (l : List MergeLine) => (l.map fun m => m.ops.countP mine).sum
  let n := (s.quays.map fun q => inBuf q.2.merge).sum + (s.dies.map fun d => inBuf d.2.merge).sum + inBuf s.pkgMerge
    + (s.quays.map fun q => (q.2.chans.map fun h => (h.2.copies.map fun k =>
        if k.kick.ctx = c then k.flight.countP fun x => !x.parked else 0).sum).sum).sum
    + (s.dies.map fun d => d.2.colls.countP fun o => o.ctx == c).sum
  let s1 := { s with
    quays := Tab.mapVals (fun _ q =>
      { q with
        merge := clean q.merge
        chans := Tab.mapVals (fun _ (h : Chan) => if h.owner = some c then { h with copies := [], pending := [], err := false } else h) q.chans })
      s.quays
    dies := Tab.mapVals (fun _ d => { d with merge := clean d.merge, colls := d.colls.filter (·.ctx != c), exits := d.exits.filter (·.ctx != c) }) s.dies
    pkgMerge := clean s.pkgMerge }
  (upFrom 0 n).foldl (fun t _ => t.advise 0 c 0 0) s1

/-- The generation of a context advanced, in its descriptor as well (R319, R321). -/
def State.nextGen (s : State) (c : Nat) : State :=
  let g := ((s.ctx c).gen + 1) % 65536
  (s.updCtx c fun x => { x with gen := g }).homeWrite noContext false ((s.ctx c).ctxd.toNat / 256 * 256) (toBytes 2 g) []

/-- A slate as a rollback puts it back: a DRAW that had not been locked issues again (R348). -/
def Slate.rolled (x : Slate) : Slate :=
  { x with draws := [], nth := x.nth.map fun p => (p.1, p.2 - x.draws.countP fun r => r.task == p.1) }

/-- A recorded channel under its context's new generation, its parked chunks to be tried again, its kicks' cores where they are now (R329, R400
step 5). -/
def Chan.rolled (c : Chan) (gen : Nat) (l : Moved) : Chan :=
  let kick := fun (k : Kick) => { k with gen := gen, core := movedTo l k.core }
  { c with
    copies := c.copies.map fun k =>
      { k with
        kick := kick k.kick
        flight := k.flight.map fun x => { x with parked := false, ready := true, asked := [], resolve := none } }
    pending := c.pending.map kick }

/-- A reply that will not be delivered completes STALE (R310, R319). -/
def State.dropReply (s : State) (p : Packet) : State :=
  match p.kind with
  | .place _ _ _ _ _ _ (some c) => s.complete c { status := 0x22 }
  | _ => s

/-- The parked and held items of a context discarded: a RESOLVE that waits for one completes NOT_FOUND, and a reply STALE (R310, R318, R331). -/
def State.discardItems (s : State) (c : Nat) : State :=
  let x := s.ctx c
  let wait := x.parked.filterMap (·.cmd)
    ++ s.quays.flatMap (fun q => q.2.chans.flatMap fun h => h.2.copies.flatMap fun k => if k.kick.ctx = c then k.flight.filterMap (·.resolve) else [])
    ++ s.dies.flatMap fun d => d.2.colls.flatMap fun o => if o.ctx = c then o.nodes.filterMap (·.resolve) else []
  let s1 := wait.foldl (fun t k => t.complete k { status := 0x21 }) s
  let places := (x.parked.filterMap fun p => match p.item with
    | .place q => some q
    | _ => none) ++ x.ranks.flatMap fun r => r.2.held
  (places.foldl State.dropReply s1).updCtx c fun y =>
    { y with parked := [], ranks := Tab.mapVals (fun _ r => { r with held := [] }) y.ranks }

/-- Everything of a member context stopped and taken from its cores and engines (R400 step 2). -/
def State.clearMember (s : State) (c : Nat) : State :=
  let s1 := ((((s.nextGen c).discardItems c).staleTraffic c).dropMonitors c).dropServices c
  let cores := (s1.ctx c).cores.map Prod.snd
  let s2 := ((cores.map gangOf).eraseDups).foldl (fun t g => t.freeGang c g) s1
  let s3 := cores.foldl (fun t p => (t.freeCore c p).updCore p fun k => { k with owner := some c }) s2
  { s3 with slates := Tab.mapVals (fun _ x => if x.ctx = c then { x with draws := [], nth := [] } else x) s3.slates }

/-- Two images are of one page or sub-block of a job. -/
def PageImage.names (p q : PageImage) : Bool := p.ctx == q.ctx && p.va == q.va && p.rank == q.rank

/-- A page or sub-block has been written since the record point of a retained snapshot: since that of the latest, or before that of a later one, which
does not enter it by reference (R397, R400 step 3). -/
def State.writtenSince (s : State) (j : Job) (x : Snapshot) (p : PageImage) : Bool :=
  j.written.contains (s.imageHome p) || j.written.contains p.home
    || ((j.snaps.dropWhile (·.n != x.n)).drop 1).any fun y => y.pages.any fun q => q.names p && !q.same

/-- Homes that every job counts as written (R397). -/
def State.markWritten (s : State) (hs : List Nat) : State :=
  { s with jobs := Tab.mapVals (fun _ y => { y with written := hs.foldl (fun w h => insNat h w) y.written }) s.jobs }

/-- The pages and sub-blocks of a job rewritten from the store; those that had been written since are written once more (R397, R400 step 3). -/
def State.putImages (s : State) (j : Nat) (x : Snapshot) : State :=
  (x.pages.foldl State.putImage s).markWritten ((x.pages.filter (s.writtenSince (s.job j) x)).map s.imageHome)

/-- The ROOT-class pages of a job as they stand, each frame once. -/
def State.rootPages (s : State) (j : Nat) : List PageImage :=
  ((s.members j).flatMap fun c =>
    ((s.ctx c).snapFrames.filter fun f => homeKind f.1 == Home.hbm && ((s.ctx c).leaf f.2).any fun q => q.cls == .root).map fun f =>
      ({ home := f.1, size := 65536, ctx := c, va := f.2, data := s.plainRange (s.imageKey c f.2 f.1) f.1 (f.1 + 65536), pois := [], same := false
         rank := none } : PageImage)).foldl (fun l p => if l.any (·.home == p.home) then l else l ++ [p]) []

/-- The root slots of a job as they stand lose the references of the seals that they hold (R400 step 4). -/
def State.dropSlots (s : State) (j : Nat) : State :=
  (s.rootsOf (s.rootPages j)).foldl (fun t r => if r.2.2.2 then t else t.caDec r.2.1 r.2.2.1) s

/-- The bytes of a ROOT-class page as a rollback leaves them: the recorded seals in their slots, and null in every other (R400 step 4). -/
def Snapshot.slotsOf (x : Snapshot) (p : PageImage) : List (Nat × Byte) :=
  match x.pages.find? (·.names p) with
  | none => []
  | some q =>
    (x.roots.filter fun r => decide (q.home ≤ r.1) && decide (r.1 < q.home + q.size)).flatMap fun r =>
      (upFrom (p.home + (r.1 - q.home)) 16).zip (toBytes 16 r.2.2.1)

/-- The root slots of a job set to the seals recorded, each with a reference unless its entry carries NOREF; a slot that has no entry is null, among
them those of pages that became root pages afterwards (R400 step 4). -/
def State.putSlots (s : State) (j : Nat) (x : Snapshot) : State :=
  let s1 := (s.rootPages j).foldl (fun t p => t.putImage { p with
    data := x.slotsOf p
    pois := if x.pages.any (·.names p) then poisRange t.poison p.home (p.home + p.size) else [] }) s
  let s2 := s1.markWritten (((s.rootPages j).filter fun p => !(x.pages.any (·.names p))).map (·.home))
  x.roots.foldl (fun t r => if r.2.2.2 then t else t.caInc r.2.1 r.2.2.1) s2

/-- A recorded service slot put back at the quay core that serves its context now, behind those that wait for one (R330 step 5, R400 step 5). A handler
that sleeps on a berth there is woken where the berth satisfies it (R213). -/
def State.putService (s : State) (r : SvcRecord) : State :=
  let q := quayOf ((s.ctx r.th.ctx).rank r.th.retRank).phys
  let s1 := match r.sleeps with
    | some (b, i, w) => s.updCore (quayCore q) fun c =>
        let d := c.updBerth b fun x => { x with waiters := x.waiters.take i ++ w :: x.waiters.drop i }
        (d.settle true (d.berth b).waiters.length b).wakeBars true (d.berth b).waiters.length b
    | none => s
  ((s1.wakeCore (quayCore q)).updQuay q fun z => { z with svcBack := z.svcBack ++ [{ r with sleeps := none }] }).backToSlots 16 q

/-- A trapped context that waited for a service slot sent again as a trap-entry packet of a colour (R330, R400). -/
def State.resendTrap (s : State) (colour : Bool) (th : Thread) : State :=
  s.sendAs 16384 colour th.ctx th.retRank th.retRank (.context 2 th)

/-- A launch that the restored state does not hold: it completes CANCELLED where a command made it (R400). -/
def State.cancelLost (s : State) (n : Nat) : State :=
  let x := s.launch n
  let s1 := { s with launches := Tab.del n s.launches }
  match x.src with
  | .queue cmd _ => s1.complete cmd
      { status := 3, errcount := x.errcount, dispatched := x.dispatched, exited := x.exited, detail := x.detail }
  | .spawn .. => s1

/-- The cores that have moved since a snapshot, for a context of its job (R329, R400 step 5). -/
def State.movedSince (s : State) (x : Snapshot) (c : Nat) : Moved :=
  (x.cores.filter fun p => p.1 == c).map fun p => (p.2.phys, ((s.ctx c).rank p.2.rank).phys)

/-- The recorded cores restored to the cores that the rank tables name now (R329, R400 step 5). -/
def State.rollCores (s : State) (x : Snapshot) : State :=
  x.cores.foldl (fun t p =>
    let core := ((t.ctx p.1).rank p.2.rank).phys
    let m := t.spadOf core
    t.restoreCore { p.2 with spad := m.1, spois := m.2, core := { p.2.core with board := [], owner := some p.1 } } core) s

/-- A restored channel in its lighter, with the ranges that its copies have on their kicking cores' scoreboards (R243, R400 step 5). -/
def State.rollChan (s : State) (x : Snapshot) (h : Nat × Nat × Chan) : State :=
  match h.2.2.owner with
  | none => s
  | some c =>
    let y := h.2.2.rolled (s.ctx c).gen (s.movedSince x c)
    let s1 := s.updQuay h.1 fun q => { q with chans := Tab.set h.2.1 y q.chans }
    ((y.copies.filter fun k => !k.bare && decide (k.fail.all fun f => f.1 ≠ 3)).foldl (fun t k => t.updCore k.kick.core fun d =>
      { d with board := d.board ++ [{ quay := h.1, serial := k.kick.serial, lo := k.t.range.1, hi := k.t.range.2 }] }) s1).settleLighter h.1 h.2.1

/-- The participants of restored collective operations whose accesses had not gone through try them anew (R318, R400 step 5). -/
def State.rollColls (s : State) (l : List (Nat × CollOp)) : State :=
  let s1 := l.foldl (fun t o => t.updDie o.1 fun d => { d with colls := d.colls ++
    [{ o.2 with nodes := o.2.nodes.map fun n => { n with waits := false, asked := [], resolve := none } }] }) s
  l.foldl (fun t o => (o.2.nodes.filter fun n => !n.finished && (n.out.isSome || !n.loaded)).foldl (fun u n =>
    u.collTry o.1 o.2.ctx o.2.opid n.node) t) s1

/-- The packets whose end a launch waits for, counted anew (R298, R400). -/
def pendingIn (ps : List Packet) (l : Nat) : Nat :=
  ps.countP fun p => match p.kind with
    | .place _ _ _ _ _ n none => n == l
    | .chan _ _ _ _ _ n => n == l
    | _ => false

/-- ROLLBACK of a job to a retained snapshot (R400). The recorded packets go ahead of every later one of their rank, whoever has sent them, as those do
that a rank in transit has held (R201). -/
def State.rollback (s : State) (j : Nat) (x : Snapshot) : State :=
  let ms := s.members j
  let s1 := ms.foldl State.clearMember s
  let s4 := ((s1.dropSlots j).putImages j x).putSlots j x
  let s5 := (x.services.foldl State.putService (x.chans.foldl (fun t h => t.rollChan x h) (s4.rollCores x)))
  let s6 := (x.svcQueues.foldl (fun t q => t.updCore (quayCore q.1) fun c =>
    { c with pq := c.pq ++ q.2.1, pubs := joinPubs c.pq.length c.pubs q.2.2 }) s5).rollColls x.colls
  let s7 := x.slates.foldl (fun t r => t.updSlate r.i fun _ => r.slate.rolled) s6
  let s7m := x.monitors.eraseDups.foldl (fun t m => t.incEach m.1 [(m.2.1, m.2.2)]) s7
  let s8 := x.svcWaiting.foldl (fun t th => t.resendTrap (t.colour th.ctx (.frontEnd 0)) th) s7m
  let held := x.parked.filterMap fun p => match p.2.item with
    | .place q => some q
    | _ => none
  let ps := (x.packets ++ held).map fun (p : Packet) => { p with gen := (s8.ctx p.ctx).gen, colour := s8.colour p.ctx (.frontEnd 0), fwd := some s8.cycle }
  let s10 := { s8 with net := ps ++ s8.net }
  let lost := (s10.launches.filter fun p => ms.contains p.2.ctx && !(x.launches.any fun q => q.1 == p.1)).map Prod.fst
  let s11 := lost.foldl State.cancelLost s10
  let s12 := x.launches.foldl (fun t p =>
    { t with launches := Tab.set p.1 { p.2.startWdog t.time with pendingPlace := pendingIn ps p.1 } t.launches }) s11
  ms.foldl (fun t c => t.updCtx c fun y => { y with snapgen := x.n, rollcnt := (y.rollcnt + 1) % 2 ^ 32, stopped := false }) s12

/-- A ROLLBACK of a job decided: the reason of a refusal, or the state (R391, R400). -/
def State.rollbackRequest (s : State) (j n : Nat) : Except Nat State :=
  let jb := s.job j
  if jb.recording.isSome || (s.members j).any (fun c => (s.ctx c).state != 1) then .error 2
  else match jb.snaps.find? fun x => x.n == n && x.state == 2 with
    | none => .error 4
    | some x => if x.pages.all (s.imageOk j) && s.storeOk j x then .ok (s.rollback j x) else .error 5

/-- The word that a refused request answers (R391). -/
def refusalWord (r : Nat) : Word := BitVec.ofNat 64 (2 ^ 63 + r)

/-- SNAP (R391, R392, R402). -/
def execSnap (h : Hdr) (f : SF) (s : State) : Out :=
  issue (.snap h f) h 0x76 0 8 s fun th => do
    supOnly (.snap h f) th
    aloneM
    modS fun s => s.publishB s.here 1
    let s ← getS
    let c := s.ctx th.ctx
    if !c.member then writeX f.d (clean (refusalWord 1))
    else match s.snapRequest c.job (dieOf s.here) (some (th.ctx, s.issuerRank th s.here, f.imm.toNat % 2048)) with
      | .error r => writeX f.d (clean (refusalWord r))
      | .ok (n, t) => do
        setS t
        writeX f.d (clean (BitVec.ofNat 64 n))

/-- STATE of a snapshot number (R393). -/
def Job.stateOf (j : Job) (n : Nat) : Nat :=
  match j.snaps.find? fun x => x.n == n with
  | some x => x.state
  | none => if j.failed = some n then 3 else 0

/-- What SNAPQ reads (R393). -/
def Job.word (j : Job) (n : Nat) : Word :=
  BitVec.ofNat 64 ((j.snaps.countP (·.state == 2)) * 2 ^ 48 + (if n < 2 ^ 32 then j.stateOf n else 0) * 2 ^ 32 + j.latest)

/-- SNAPQ (R391, R393). -/
def execSnapq (h : Hdr) (f : SF) (s : State) : Out :=
  issue (.snapq h f) h 0x76 1 8 s fun th => do
    supOnly (.snapq h f) th
    aloneM
    modS fun s => s.publishB s.here 1
    let s ← getS
    let c := s.ctx th.ctx
    let a := srcA f th
    if !c.member then writeX f.d (clean (refusalWord 1))
    else writeX f.d { v := (s.job c.job).word a.v.toNat, p := a.p }

/-- ROLLBACK (R391, R400). -/
def execRollback (h : Hdr) (f : SF) (s : State) : Out :=
  issue (.rollback h f) h 0x76 2 8 s fun th => do
    supOnly (.rollback h f) th
    aloneM
    modS fun s => s.publishB s.here 1
    let s ← getS
    let c := s.ctx th.ctx
    if !c.member then writeX f.d (clean (refusalWord 1))
    else match s.rollbackRequest c.job ((srcA f th).v.toNat % 2 ^ 32) with
      | .error r => writeX f.d (clean (refusalWord r))
      | .ok t => do
        setS t
        goneM

/-- ERR written for a host request of a job, and its MSI-X message (R387). -/
def State.jobAnswer (s : State) (j err : Nat) : State :=
  let s1 := s.updJob j fun x => { x with err := err }
  match s.members j with
  | c :: _ => { s1 with msix := (s.ctx c).fqvec :: s1.msix }
  | [] => s1

/-- A host SNAP of a job (R387). -/
def State.hostSnap (s : State) (j : Nat) : State :=
  if (s.members j).isEmpty then s.jobAnswer j 1
  else match s.snapRequest j 0 none with
    | .error r => s.jobAnswer j r
    | .ok (n, t) => (t.updJob j fun x => { x with num := n }).jobAnswer j 0

/-- A host ROLLBACK of a job to NUM (R387). -/
def State.hostRollback (s : State) (j : Nat) : State :=
  if (s.members j).isEmpty then s.jobAnswer j 1
  else match s.rollbackRequest j (s.job j).num with
    | .error r => s.jobAnswer j r
    | .ok t => t.jobAnswer j 0

/-- JOB_SNAP_REQUEST (R387). -/
def execJobSnapRequest (j : Nat) (s : State) : Out := .next (s.hostSnap j)

/-- JOB_ROLLBACK_REQUEST (R387). -/
def execJobRollbackRequest (j : Nat) (s : State) : Out := .next (s.hostRollback j)

/-- CTXJOB_WRITE (R386). -/
def execCtxjobWrite (c : Nat) (v : Word) (s : State) : Out :=
  let x := s.ctx c
  let j := v.toNat % 256
  .next (if (s.job x.job).recording.isSome || (s.job j).recording.isSome then s
    else s.updCtx c fun y => { y with member := v.getLsbD 8, job := j })

/-- SNAPSHOT_DIE_START (R389). -/
def execSnapshotDieStart (j die : Nat) (s : State) : Out := .next (s.startDie j die)

/-- SNAPSHOT_RECORD (R390). -/
def execSnapshotRecord (j : Nat) (a : SnapAgent) (s : State) : Out := .next (s.recordAgent j a)

/-- The clappers of a die sent, once its agents have recorded and its old-colour traffic has drained (R395). -/
def State.clap (s : State) (j d : Nat) : State :=
  match (s.job j).recording with
  | none => s
  | some r =>
    if s.dieRecorded j d r && !(r.sent.any fun p => p.1 == d) && s.oldPackets j d r == 0 then
      (s.drainOld j d (r.n % 2 == 1)).updJob j fun y => y.updRec fun x =>
        { x with sent := x.sent ++ (d, d) :: (x.dies.filter (· != d)).map fun e => (d, e) }
    else s

/-- CLAPPER (R395). -/
def execClapper (j die : Nat) (s : State) : Out := .next (s.clap j die)

/-- A clapper that reaches a die (R395). -/
def State.hearClapper (s : State) (j d from_ : Nat) : State :=
  match (s.job j).recording with
  | none => s
  | some r =>
    if r.sent.contains (from_, d) && from_ != d && !r.clappers.contains (from_, d) then
      s.updJob j fun y => y.updRec fun x => { x with clappers := x.clappers ++ [(from_, d)] }
    else s

/-- CLAPPER_ARRIVAL (R395). -/
def execClapperArrival (j die source : Nat) (s : State) : Out := .next (s.hearClapper j die source)

/-- Every die of a job has completed its channel recording (R399). -/
def State.snapReady (s : State) (j : Nat) : Bool :=
  match (s.job j).recording with
  | none => false
  | some r => r.dies.all fun d => s.dieComplete j d r && r.sent.any fun p => p.1 == d

/-- SNAPSHOT_COMPLETE (R399). -/
def execSnapshotComplete (j : Nat) (s : State) : Out := .next (if s.snapReady j then s.endSnap j else s)

/-- What a snapshot owes next (R389, R390, R395, R399). -/
def State.snapOwes (s : State) (j : Nat) : Option Move :=
  match (s.job j).recording with
  | none => none
  | some r =>
    match r.dies.find? fun d => !r.started.contains d with
    | some d => some (.event (.snapshotDieStart j d))
    | none =>
      match (r.dies.flatMap (s.jobAgents j)).find? fun a => !r.recorded.contains a && match a with
          | .core p => (s.jobCores j).any fun x => x.2.2 == p && ((s.ctx x.1).rank x.2.1).state == 1
          | .quayCore q => (s.jobCores j).all fun x => quayOf x.2.2 != q || (s.ctx x.1).state == 1
          | _ => true with
      | some a => some (.event (.snapshotRecord j a))
      | none =>
        match r.dies.find? fun d => !(r.sent.any fun p => p.1 == d) && s.dieRecorded j d r && s.oldPackets j d r == 0 with
        | some d => some (.event (.clapper j d))
        | none =>
          match r.sent.find? fun p => p.1 != p.2 && !r.clappers.contains p with
          | some p => some (.clapper j p.2 p.1)
          | none => if s.snapReady j then some (.event (.snapshotComplete j)) else none

end Sys2Proof.Machine
end

