-- ==== Sys2Proof/Machine/Net.lean ====
section
/-!
DEFINITION. The arrival of packets: the order between a sender and a rank, ranks that have moved, generations, and what each kind of packet does
(R103, R194 to R197, R200 to R202, R215, R216, R219, R220, R226, R244, R271, R319, R327, R370).
-/

namespace Sys2Proof.Machine

/-- What becomes of a packet that has its turn. -/
inductive Fate where
  /-- it waits: for an earlier packet, a marker, a rank in motion or room -/
  | waits
  /-- its generation is not its context's (R319) -/
  | stale
  /-- its rank is ABSENT (R202) -/
  | lost
  /-- its rank is IN_TRANSIT or SAVED -/
  | held
  /-- it is taken by a physical core -/
  | core (phys : Nat)
  /-- it is taken by an engine of a die -/
  | engine (die : Nat)
  deriving DecidableEq, Repr

/-- A packet of a CA engine's cascade, which is of no context (R370). -/
def Packet.ofNoContext (p : Packet) : Bool := decide (4096 ≤ p.ctx)

/-- The packets in flight of one sender to one rank keep their order (R216), and so do those of one sender to one engine, of whatever context
(R378). -/
def firstOfPair : List Packet → Nat → Bool
  | [], _ => false
  | _ :: _, 0 => true
  | p :: t, n + 1 => (match t[n]? with
    | some q => !(p.src == q.src && (p.ctx == q.ctx || decide (2 ^ 24 ≤ p.rank)) && p.rank == q.rank)
    | none => false) && firstOfPair t n

/-- A packet that was held for its rank has to go first: one that arrived before it, or before it was sent (R201). A packet that waits for room
where it is going holds back only its own sender's. -/
def State.behindForwarded (s : State) (n : Nat) (p : Packet) : Bool :=
  (s.net.take n).any fun q => q.fwd.any fun t => q.ctx == p.ctx && q.rank == p.rank && (p.fwd.isSome || decide (t ≤ p.cycle)) && match q.kind with
    | .chan .. => false
    | .context .. => match p.kind with
      | .context .. => true
      | _ => false
    | _ => true

/-- A sending core's flush marker has come by every path of the links that it is sent down, path 0 among them (R244). Which paths those are is the
route table's (log entry 35). -/
def State.markersIn (s : State) (core n : Nat) : Bool :=
  (upFrom 0 64).all fun p => (p != 0 && !Config.markerPath p) || s.markers.contains (core, p, n)

/-- The fate of the packet at a position of the network. A packet to its sender's own core takes effect no sooner than in the next cycle
(R216). -/
def State.fate (s : State) (n : Nat) (p : Packet) : Fate :=
  if p.src < 4096 ∧ p.rank < 2 ^ 24 ∧ p.cycle = s.cycle ∧ p.src = ((s.ctx p.ctx).rank p.rank).phys then .waits
  else if !firstOfPair s.net n || s.behindForwarded n p || (p.marker.any fun m => !s.markersIn p.src m) then .waits
  else if p.rank ≥ 2 ^ 24 then
    if !p.ofNoContext && p.gen ≠ (s.ctx p.ctx).gen then .stale
    else .engine (if p.rank ≥ 2 ^ 25 then (p.rank - 2 ^ 25) / 16 else p.rank - 2 ^ 24)
  else if p.gen ≠ (s.ctx p.ctx).gen then .stale
  else
    let e := (s.ctx p.ctx).rank p.rank
    if e.state = 0 then .lost
    else if e.state = 1 then
      match p.kind with
      | .chan b .. => if p.doomed ∨ ((s.core e.phys).berth b).kind ≠ 1 then .core e.phys
                      else if ((s.core e.phys).berth b).ringFull then .waits else .core e.phys
      | .context k _ => if k = 2 ∨ (s.core e.phys).mayAdmit then .core e.phys else .waits
      | _ => .core e.phys
    else if e.state = 2 then .held
    else match p.kind with
      | .inc .. => .held
      | .context .. => .held
      | _ => if e.held.length < 448 then .held else .waits

/-- The packet at a position with its fate, if it is one that a kind of event delivers. -/
def State.packetAt (s : State) (n : Nat) (kind : PKind → Bool) : Option (Packet × Fate) :=
  match s.net[n]? with
  | none => none
  | some p => if kind p.kind then some (p, s.fate n p) else none

/-- The network without a packet. -/
def State.unsend (s : State) (n : Nat) : State := { s with net := dropNth n s.net }

/-- A dropped or discarded packet counted in a front end's or quay's error log as advisory non-fatal (R202, R319). -/
def State.discard (s : State) (p : Packet) : State := s.advise 0 p.ctx 0 (BitVec.ofNat 64 p.rank)

/-- What a packet of a task leaves behind when it is not delivered: its launch counts an error completion, or its command an outcome
(R219, R226, R299, R319). -/
def State.dropPacket (s : State) (p : Packet) (stale : Bool) : State :=
  let lose := fun (l : Nat) => s.tellFront p.ctx (s.launch l).die (((s.job (s.ctx p.ctx).job).recording).all fun r => p.colour == (r.n % 2 == 1)) fun t =>
    t.dropError l p.rank
  match p.kind with
  | .place _ _ _ _ _ l c => match c with
    | some c => s.complete c { status := if stale then 0x22 else 0x20 }
    | none => if stale then s.placeOver l else (lose l).placeOver l
  | .chan _ _ _ _ _ l => if stale then s.placeOver l else (lose l).placeOver l
  | _ => s

/-- An increment of the berth of a SAVED rank, applied in the saved image (R215). -/
def State.incSaved (s : State) (ctx rank b : Nat) (o : Option Origin) : State :=
  match (s.ctx ctx).save with
  | none => s
  | some a =>
    match a.cores.find? (·.rank == rank) with
    | none => s
    | some x =>
      let r := x.core.increment false rank b o
      let s1 := s.updCtx ctx fun c => { c with save := some { a with
        cores := a.cores.map fun y => if y.rank = rank then { y with core := r.core } else y } }
      let s2 := r.out.foldl (fun t p => t.sendFrom 16384 (.frontEnd 0) ctx rank p.1 p.2) s1
      (List.replicate r.dropped ()).foldl (fun t _ => t.advise 0 ctx 0 (BitVec.ofNat 64 rank)) s2

/-- A packet for a rank in motion or saved kept for it (R201, R202, R215, R327). -/
def State.hold (s : State) (p : Packet) : State :=
  let e := (s.ctx p.ctx).rank p.rank
  let keep := fun (t : State) => t.updCtx p.ctx fun c => c.updRank p.rank fun r => { r with held := r.held ++ [p] }
  if e.state = 3 then
    match p.kind with
    | .inc b o => s.incSaved p.ctx p.rank b o
    | .context .. => s.updCtx p.ctx fun c =>
        { c with save := c.save.map fun a => { a with late := a.late ++ [(p.rank, p)] } }
    | _ => keep s
  else keep s

/-- An abort has left the network: kicks of its core that waited behind it go on (R216, R271). -/
def State.letKicks (s : State) (p : Packet) : State :=
  match p.kind with
  | .abort .. => if p.src < 4096 then s.wakeOverlap p.src else s
  | _ => s

/-- A packet of the new colour starts the snapshot of a die that it reaches (R389). -/
def State.meetDie (s : State) (p : Packet) (die : Nat) : State :=
  s.startAt p.ctx p.colour die

/-- Once the packets that were forwarded to a rank have all arrived, what waited for them is to be tried again (R201). -/
def State.endForward (s : State) (p : Packet) : State :=
  if p.fwd.isSome ∧ !s.forwarding p.ctx p.rank then s.updCtx p.ctx fun c => { c with stir := true } else s

/-- A packet is a trapped context's: its quay's service pipeline takes it, which is never paired (R104, R413). -/
def Packet.isTrap (p : Packet) : Bool :=
  match p.kind with
  | .context 2 _ => true
  | _ => false

/-- A packet at its turn: dropped, kept, or taken by what it reaches, which records it for its job's snapshot first, and for its pair's interval
(R389, R394, R413). -/
def State.deliverPacket (s : State) (n : Nat) (kind : PKind → Bool) (take : State → Packet → Nat → State) : State :=
  match s.packetAt n kind with
  | none => s
  | some (p, f) =>
    match f with
    | .waits => s
    | .stale => ((((s.unsend n).discard p).dropPacket p true).letKicks p).endForward p
    | .lost => (((s.unsend n).discard p).dropPacket p false).endForward p
    | .held => (((s.unsend n).meetDie p (dieOf ((s.ctx p.ctx).rank p.rank).phys)).hold p).endForward p
    | .engine d =>
      take (if p.rank ≥ 2 ^ 25 then (s.unsend n).seePacket p (.lighter (p.rank - 2 ^ 25))
        else if p.ofNoContext then s.unsend n else (s.unsend n).meetDie p d) p d
    | .core c =>
      let s1 := (s.unsend n).seePacket p (p.reaches c)
      let s2 := if s1.isPaired c && !p.isTrap then s1.updCore c fun k => { k with pair := { k.pair with inbound := k.pair.inbound ++ [p] } } else s1
      (take s2 p c).endForward p

/-- A berth increment at its core (R212, R215); a gated core's increment goes to its quay core's berth shadow. -/
def State.takeInc (s : State) (p : Packet) (core : Nat) : State :=
  match p.kind with
  | .inc b o =>
    if (s.core core).gated then
      (s.updQuay (quayOf core) fun q => { q with shadow := q.shadow ++ [(core, p)] }).updCore core fun c =>
        { c with wake := c.wake.or (some s.time) }
    else s.incBerth core p.ctx b o
  | _ => s

/-- Increments that are no barrier's. -/
def isInc : PKind → Bool
  | .inc .. => true
  | _ => false

/-- The packet at a position is an increment of a BARRIER berth. -/
def State.toBarrier (s : State) (n : Nat) : Bool :=
  match s.net[n]? with
  | some p => (match p.kind with
    | .inc b _ => ((s.core ((s.ctx p.ctx).rank p.rank).phys).berth b).kind == 3
    | _ => false)
  | none => false

/-- BERTH_INCREMENT_ARRIVAL (R215). -/
def execBerthIncrementArrival (n : Nat) (s : State) : Out :=
  .next (if s.toBarrier n then s else s.deliverPacket n isInc State.takeInc)

/-- BARRIER_ARRIVAL (R220). -/
def execBarrierArrival (n : Nat) (s : State) : Out :=
  .next (if s.toBarrier n then s.deliverPacket n isInc State.takeInc else s)

/-- A packet that is no increment wakes a gated core before it acts there (R432). -/
def State.nudge (s : State) (core : Nat) : State := s.wakeCore core

/-- A release at its berth (R220). -/
def State.takeRelease (s : State) (p : Packet) (core : Nat) : State :=
  match p.kind with
  | .release b => (s.nudge core).afterBerth core p.ctx (((s.nudge core).core core).takeRelease true p.rank b)
  | _ => s

/-- BARRIER_RELEASE (R220). -/
def execBarrierRelease (n : Nat) (s : State) : Out :=
  .next (s.deliverPacket n (fun k => match k with
    | .release _ => true
    | _ => false) State.takeRelease)

/-- A trapped context at its quay core (R103 to R105): behind those that wait in their cores' interfaces, else in a free service slot, else in
the queue, with the refresh of its arrival (R195); where the queue is full it waits in its own core's interface. -/
def State.takeTrap (s : State) (p : Packet) (core : Nat) : State :=
  match p.kind with
  | .context _ th =>
    let q := quayOf core
    let x := s.quay q
    if !x.svcWait.isEmpty || decide (48 ≤ x.svcQueue.length) then
      (s.nudge core).updQuay q fun y => { y with svcWait := y.svcWait ++ [(core % 32, th)] }
    else
      let t := s.nudge (quayCore q)
      if x.svcBack.isEmpty && x.svcQueue.isEmpty && x.svc.any fun y => y.slot.th.isNone then (t.enterSvc q th).refreshB (quayCore q)
      else (t.updQuay q fun y => { y with svcQueue := y.svcQueue ++ [th] }).refreshB (quayCore q)
  | _ => s

/-- SERVICE_ARRIVAL (R103). -/
def execServiceArrival (n : Nat) (s : State) : Out :=
  .next (s.deliverPacket n (fun k => match k with
    | .context 2 _ => true
    | _ => false) State.takeTrap)

/-- What a launch's initial context finds at its core: its V registers zero, the array reset where it has access, PAIRST by its gang
(R27, R141, R291). -/
def State.welcome (s : State) (core : Nat) (th : Thread) : State × Thread :=
  let s1 := s.updCore core fun c => (upFrom th.vbase th.vq).foldl (fun k r => k.setV r 0 0) c
  let s2 := if th.array then s1.updCore core fun c => { c with arr := {} } else s1
  (s2, th)

/-- PAIRST of a context on a core (R27, R417), written anew at every arrival there (DESIGN CHOICE, log entry 51). -/
def Thread.pairedAs (th : Thread) (paired : Bool) : Thread :=
  if bits 9 8 th.status.toNat = 3 then th else { th with status := setBits 9 8 (b2n paired) th.status }

/-- A context at its core: it joins a slot or the queue, with its refresh, in the next cycle (R195, R197, R199). -/
def State.takeContext (s : State) (p : Packet) (core : Nat) : State :=
  match p.kind with
  | .context k th =>
    let r := if k = 0 then (s.nudge core).welcome core th else (s.nudge core, th)
    let t := r.2.pairedAs (s.isPaired core)
    r.1.updCore core fun c => { c with ni := c.ni ++ [{ p with kind := .context k t }] }
  | _ => s

/-- CONTEXT_ARRIVAL (R195). -/
def execContextArrival (n : Nat) (s : State) : Out :=
  .next (s.deliverPacket n (fun k => match k with
    | .context m _ => m != 2
    | _ => false) State.takeContext)

/-! Placements (R219, R226, R316, R317) -/

/-- The fault record of a placement (R317). -/
def placeRecord (p : Packet) (berth code : Nat) (a : Word) : List Byte :=
  fqBytes 2 code 0 (p.rank % 2 ^ 24) a (toBytes 4 (p.origin % 2 ^ 24) ++ toBytes 2 berth ++ toBytes 2 0 ++ rep 8 0)

/-- What a placement does with an access that does not go through: it waits, parks with a page request or a record, or the packet is dropped
(R219, R316, R317). `asked` is the page whose request has already been answered. -/
def State.placeFault (s : State) (core : Nat) (p : Packet) (berth : Nat) (f : EFault) (a : Word) (asked : Option Nat) (cmd : Option Cmd) : State :=
  let item := ParkedItem.place p
  let record := placeRecord p berth f.code a
  let wait := fun (t : State) => t.updCtx p.ctx fun c =>
    { c with parked := c.parked ++ [{ n := none, item := item, bytes := record, pri := asked.map fun k => (dieOf core, k), again := true, cmd := cmd }] }
  match f with
  | .cause _ => (s.dropPacket p false).resolved cmd
  | .absent => s.park p.ctx item record cmd
  | .miss => wait s
  | .ats _ => wait s
  | .denied iova w => if asked = some iova then s.park p.ctx item record cmd else s.askPri (placeEng core p.ctx) item iova w record cmd

/-- A message or reply placed, published and counted in (R219); `walk` is granted to a retry. -/
def State.placeAt (s : State) (p : Packet) (core : Nat) (asked : Option Nat) (cmd : Option Cmd) : State :=
  match p.kind with
  | .place b dest data pois scope l c =>
    let e := placeEng core p.ctx
    (match State.eRun e (some core) true true true (pieces (BitVec.ofNat 64 dest) data.length) s with
      | (.ok hs, t) =>
        let t1 := (t.eStores e scope hs (data.zip (pois ++ rep data.length false))).incBerth core p.ctx b none
        ((match c with
          | some c => t1.complete c { status := 0 }
          | none => t1.placeOver l)).resolved cmd
      | (.error (f, a), t) => t.placeFault core p b f a asked cmd)
  | _ => s

/-- A placement that has parked tried again at its rank's core; while the rank is in motion or saved it stays parked for it, and where the rank is
gone it is dropped (R201, R202, R219). -/
def State.placeAgain (s : State) (p : Packet) (record : List Byte) (asked : Option Nat) (cmd : Option Cmd) : State :=
  let e := (s.ctx p.ctx).rank p.rank
  if e.state = 1 then s.placeAt p e.phys asked cmd
  else if e.state = 0 then ((s.discard p).dropPacket p false).resolved cmd
  else s.updCtx p.ctx fun c =>
    { c with parked := c.parked ++ [{ n := none, item := .place p, bytes := record, pri := asked.map fun k => (dieOf e.phys, k), again := true, cmd := cmd }] }

/-- MESSAGE_PLACEMENT (R219); a store that was held for its rank is performed in its turn (R201). -/
def execMessagePlacement (n : Nat) (s : State) : Out :=
  .next (s.deliverPacket n (fun k => match k with
    | .place .. => true
    | .write _ => true
    | _ => false) fun t p core => match p.kind with
      | .write e => (t.nudge core).landWrite e core
      | _ => (t.nudge core).placeAt p core none none)

/-- The 16 header bytes of a ring slot (R225). -/
def slotHeader (len : Nat) (trunc : Bool) (origin seq : Nat) : List Byte :=
  toBytes 4 len ++ toBytes 1 (b2n trunc) ++ toBytes 3 0 ++ toBytes 4 (origin % 2 ^ 24) ++ toBytes 4 seq

/-- A channel message in the next slot of its ring (R225, R226). -/
def State.takeChan (s : State) (p : Packet) (core : Nat) : State :=
  match p.kind with
  | .chan b len data _ scope l =>
    let x := (s.core core).berth b
    if x.kind = 1 ∧ !p.doomed then
      let size := 16 * (bits 47 41 x.cfg.toNat + 1)
      let bytes := slotHeader len (decide (size < len)) p.origin x.widx ++ data.take size
      let e := placeEng core p.ctx
      let s1 := (s.nudge core).eStore e scope (spadHome core (slotOffset x.cfg x.widx)) (bytes.map fun c => (c, false))
      let s2 := s1.updCore core fun c => c.updBerth b fun y => { y with widx := (y.widx + 1) % 2 ^ 32 }
      (s2.incBerth core p.ctx b none).placeOver l
    else (s.advise (dieOf core) p.ctx (quayCore (quayOf core)) (BitVec.ofNat 64 b)).dropPacket p false
  | _ => s

/-- CHANNEL_LANDING (R226). -/
def execChannelLanding (n : Nat) (s : State) : Out :=
  .next (s.deliverPacket n (fun k => match k with
    | .chan .. => true
    | _ => false) State.takeChan)

/-- An abort at its lighter; kicks of its core that wait behind it go on (R271). -/
def State.takeAbort (s : State) (p : Packet) : State :=
  match p.kind with
  | .abort q c => (s.abortChan q c p.ctx).letKicks p
  | _ => s

/-- LIGHTER_ABORT (R271). -/
def execLighterAbort (n : Nat) (s : State) : Out :=
  .next (s.deliverPacket n (fun k => match k with
    | .abort .. => true
    | _ => false) fun t p _ => t.takeAbort p)

/-- CA_DECREMENT_ARRIVAL (R370). -/
def execCaDecrementArrival (n : Nat) (s : State) : Out :=
  .next (s.deliverPacket n (fun k => match k with
    | .caDec .. => true
    | _ => false) fun t p _ => match p.kind with
      | .caDec d x => t.caDec d x
      | _ => t)

/-- FLUSH_MARKER_ARRIVAL (R244): the marker of a sending core counts as received, and packets of that core that carry its number no longer wait for it.
The package is alone, so no other one sends markers of its own (log entry 35). -/
def execFlushMarkerArrival (p : MarkerPath) (marker : Nat) (s : State) : Out :=
  let m := (p.core, p.path, marker)
  .next { s with markers := if s.markers.contains m then s.markers else s.markers ++ [m] }

end Sys2Proof.Machine
end

