-- ==== Sys2Proof/Machine/Launch.lean ====
section
/-!
DEFINITION. Launch records: parsing, the checks in their order, placement, initial contexts, and the order of the
front ends' events (R205, R283 to R297).
-/

namespace Sys2Proof.Machine

/-- The front end of a die at work for a context. -/
def frontEng (d ctx : Nat) : Eng := { quay := none, die := d, who := 16384 + d, agent := .frontEnd d, ctx := ctx }

/-- The reason codes of R205. -/
def rRECORD : Nat := 1
def rDEPTH : Nat := 2
def rDOMAIN : Nat := 3
def rSCOPE : Nat := 4
def rOVERSIZE : Nat := 5
def rPRIV : Nat := 6
def rPLACEMENT : Nat := 7

/-- A little-endian field of a record. -/
def recField (b : List Byte) (off n : Nat) : Nat := ofBytes ((b.drop off).take n)

/-- A level entry (R285). -/
def levelOf (n : Nat) : Level := { scope := bits 37 36 n, domain := bits 34 32 n, extent := bits 31 0 n }

/-- The level entries and reserved bits of R285 are legal: fields, order of domains, zeros beyond NLEV. -/
def levelsOk (nlev : Nat) (es : List Nat) : Bool :=
  let on := es.take nlev
  (es.drop nlev).all (· == 0) && on.all (fun e => bits 63 38 e == 0 && !bit 35 e && bits 34 32 e != 7 && bits 31 0 e != 0)
    && (on.zip (on.drop 1)).all fun p => decide (bits 34 32 p.1 ≤ bits 34 32 p.2)

/-- The 128 bytes of a record decoded (R284); in a command slot byte 127 is the generation byte (R308). `legal` holds what the
fields kept do not show: reserved bits and zeros. -/
def recOf (host : Bool) (b : List Byte) : LaunchRec :=
  let f := recField b
  let kind := f 0 1
  let nlev := f 1 1
  let fl := f 2 1
  let ndep := f 5 1 / 16
  let es := (upFrom 0 8).map fun i => f (16 + 8 * i) 8
  let deps := [f 120 2, f 122 2, f 124 2, if host then f 126 1 else f 126 2]
  { kind := kind, nlev := nlev, super := bit 0 fl, array := bit 1 fl, indirect := bit 2 fl, fixed := bit 3 fl, vq := f 3 1, xregs := f 4 1
    nbuf := f 5 1 % 16, ndep := ndep, nstg := f 6 1, wdog := f 7 1, nberths := f 8 2, spad := f 10 2, ltag := f 12 2
    levels := (es.take nlev).map levelOf, entry := BitVec.ofNat 64 (f 80 8), arg := BitVec.ofNat 64 (f 88 8)
    place := BitVec.ofNat 64 (f 96 8), stages := BitVec.ofNat 64 (f 104 8), icount := BitVec.ofNat 64 (f 112 8), deps := deps.take ndep
    legal := decide (kind ≤ 1) && fl / 16 == 0 && f 14 2 == 0 && decide (ndep ≤ 4) && (deps.drop ndep).all (· == 0)
      && decide (nlev ≤ 8) && levelsOk nlev es }

/-- The product of the extents of the levels of one domain (R287, R288). -/
def LaunchRec.extentOf (r : LaunchRec) (dom : Nat) : Nat := (r.levels.filter fun l => l.domain == dom).foldl (fun n l => n * l.extent) 1

/-- T of R287. -/
def LaunchRec.threads (r : LaunchRec) : Nat := if r.kind = 1 then 1 else r.extentOf 6

/-- The outermost domain; a stage counts as a CORE level (R292). -/
def LaunchRec.outer (r : LaunchRec) : Nat := if r.kind = 1 then 5 else (r.levels.head?.map (·.domain)).getD 5

/-- The tasks' own domain (R288). -/
def LaunchRec.own (r : LaunchRec) : Nat := if r.kind = 1 then 5 else (r.levels.getLast?.map (·.domain)).getD 5

/-- The memory scope of the record (R285): the widest among its levels or stages. -/
def LaunchRec.memScope (r : LaunchRec) : Nat :=
  (if r.kind = 1 then r.stageTab.map (·.scope) else r.levels.map (·.scope)).foldl max 0

/-- The level scope of a task (R285, R292). -/
def LaunchRec.taskScope (r : LaunchRec) (stage : Nat) : Nat :=
  if r.kind = 1 then ((r.stageTab[stage]?).map (·.scope)).getD 0 else (r.levels.getLast?.map (·.scope)).getD 0

/-- Every class narrower than level 0's domain stays within its bound (R288). -/
def LaunchRec.bounded (r : LaunchRec) : Bool :=
  [(2, 8), (3, 16), (4, 4), (5, 8)].all fun p => decide (p.1 ≤ r.outer) || decide (r.extentOf p.1 ≤ p.2)

/-- The limits of R284, R285, R287 and R288 that need no table; BERTHS is a resource (R287). -/
def LaunchRec.limits (r : LaunchRec) (spawn : Bool) : Bool :=
  r.legal && [0, 4, 8, 16, 32].contains r.vq && decide (r.nbuf ≤ 8) && decide (r.wdog ≤ 31)
    && r.entry.toNat % 4 == 0 && (if r.indirect then r.icount.toNat % 4 == 0 else r.icount == 0)
    && (!r.fixed || decide (r.place.toNat < 2 ^ 24)) && !(spawn && (r.fixed || r.nbuf != 0 || r.ndep != 0))
    && (if r.kind = 1 then
          r.nlev == 0 && decide (1 ≤ r.nstg) && decide (r.nstg ≤ 16) && r.entry == 0 && r.arg == 0 && r.stages.toNat % 16 == 0
            && !r.indirect
        else decide (1 ≤ r.nlev) && r.nstg == 0 && r.stages == 0 && r.bounded && !(r.array && decide (1 < r.threads)))

/-- A stage entry (R292). -/
def stageOf (b : List Byte) : Stage :=
  { entry := BitVec.ofNat 64 (recField b 0 8), arg := BitVec.ofNat 64 (recField b 8 8), ntask := recField b 16 2, scope := recField b 18 1 }

/-- A stage entry is legal (R292). -/
def stageOk (b : List Byte) : Bool :=
  recField b 0 8 % 4 == 0 && decide (1 ≤ recField b 16 2) && decide (recField b 16 2 ≤ 4096) && decide (recField b 18 1 < 4)
    && recField b 19 13 == 0

/-- A channel entry (R293). -/
def chanOf (b : List Byte) : ChanEntry :=
  { from_ := recField b 0 1, to_ := recField b 1 1, lgn := recField b 2 1, dsz := recField b 3 1, sberth := recField b 4 2
    aberth := recField b 6 2, base := recField b 8 2, lgi := recField b 10 1 }

/-- The limits of a channel entry (R223, R293). -/
def ChanEntry.ok (c : ChanEntry) (r : LaunchRec) (tab : List Stage) : Bool :=
  let n := fun s => ((tab[s]?).map (·.ntask)).getD 0
  decide (c.from_ < c.to_) && decide (c.to_ < r.nstg) && n c.from_ == n c.to_ && decide (c.lgn ≤ 13) && decide (c.dsz < 128)
    && decide (c.base < 2 ^ 14) && decide (16 * c.base + 2 ^ c.lgn * (16 + 16 * (c.dsz + 1)) ≤ 262144)
    && decide (c.sberth < 2048) && decide (c.aberth < 2048) && decide (c.sberth < r.nberths) && decide (c.aberth < r.nberths)
    && decide (c.lgi ≤ c.lgn)

/-- No berth index appears twice at one task's core (R293). -/
def berthsDistinct (nstg : Nat) (cs : List ChanEntry) : Bool :=
  (upFrom 0 nstg).all fun s =>
    let bs := (cs.filter fun c => c.to_ == s).map (·.sberth) ++ (cs.filter fun c => c.from_ == s).map (·.aberth)
    bs.eraseDups.length == bs.length

/-- The stage table read and checked (R292, R293): the record with its tables, or none where a limit breaks. -/
def withTables (r : LaunchRec) (b : List Byte) : Option LaunchRec :=
  let nch := recField b 0 1
  let ss := (upFrom 0 r.nstg).map fun i => (b.drop (16 + 32 * i)).take 32
  let cs := (upFrom 0 nch).map fun i => (b.drop (16 + 32 * r.nstg + 16 * i)).take 16
  let tab := ss.map stageOf
  let chans := cs.map chanOf
  if decide (nch ≤ 64) && recField b 1 15 == 0 && ss.all stageOk && cs.all (fun c => recField c 11 5 == 0) && chans.all (·.ok r tab)
      && berthsDistinct r.nstg chans then
    some { r with stageTab := tab, chanTab := chans }
  else none

/-- What a validation step answers. -/
inductive Verdict (α : Type) where
  | ok (a : α)
  | bad (reason resource : Nat)
  /-- a host page that it reads waits for an ATS result -/
  | wait

/-- Step 1 of R286: the limits, with the stage table read through the context's translation; a table that cannot be read breaks them
(log entry 31). -/
def State.checkRecord (s : State) (die ctx : Nat) (spawn : Bool) (r : LaunchRec) : Verdict LaunchRec × State :=
  if !r.limits spawn then (.bad rRECORD 0, s)
  else if r.kind = 0 then (.ok r, s)
  else
    match s.eRead (frontEng die ctx) none true 16 r.stages with
    | (.error (.ats _, _), t) => (.wait, t)
    | (.error _, t) => (.bad rRECORD 0, t)
    | (.ok b, t) =>
      let nch := recField (bytesOf b) 0 1
      match t.eRead (frontEng die ctx) none true (16 + 32 * r.nstg + 16 * min nch 64) r.stages with
      | (.error (.ats _, _), u) => (.wait, u)
      | (.error _, u) => (.bad rRECORD 0, u)
      | (.ok b, u) => match withTables r (bytesOf b) with
        | some r => (.ok r, u)
        | none => (.bad rRECORD 0, u)

/-- Steps 2 to 5 of R286: the reason of the first that fails, if any. -/
def LaunchRec.rights (r : LaunchRec) (src : LSource) : Option Nat :=
  match src with
  | .queue _ priv => if (r.super || r.array) && !priv then some rPRIV else none
  | .spawn _ _ _ _ _ nlev dom scope super array =>
    if 8 < nlev + r.nlev then some rDEPTH
    else if r.outer < dom then some rDOMAIN
    else if scope < r.memScope then some rSCOPE
    else if !super && (r.super || (r.array && !array)) then some rPRIV
    else none

/-- The resource that is oversize, if any (R287). -/
def LaunchRec.oversize (r : LaunchRec) : Option Nat :=
  let t := r.threads
  if 10 < r.xregs then some 1
  else if 32 < t * r.vq then some 2
  else if 256 < t * r.spad then some 3
  else if 16 < t then some 4
  else if 2048 < t * r.nberths then some 5
  else none

/-! Placement (R288, R289) -/

/-- The coordinate of a task (R192), outermost first. -/
def coordOf (k : Nat) (ls : List Level) : List Nat :=
  (ls.foldr (fun l (p : List Nat × Nat) => (p.2 % l.extent :: p.1, p.2 / l.extent)) ([], k)).1

/-- The mixed-radix index of a domain class (R288). -/
def classIndex (dom : Nat) (ls : List Level) (cs : List Nat) : Nat :=
  (ls.zip cs).foldl (fun n p => if p.1.domain = dom then n * p.1.extent + p.2 else n) 0

/-- The core offset of a coordinate: package, die, and place within the die (R288). -/
def offsetOf (ls : List Level) (cs : List Nat) : Nat × Nat × Nat :=
  let e := (ls.filter fun l => l.domain == 1).foldl (fun n l => n * l.extent) 1
  let ix := fun d => classIndex d ls cs
  (ix 0 * e + ix 1, ix 2, ix 3 * 32 + ix 4 * 8 + ix 5)

/-- The tasks of a GRID with their offsets, or none where there are more than any rank table has places for. -/
def gridTasks (ls : List Level) : Option (List (Nat × List Nat)) :=
  let n := ls.foldl (fun n l => n * l.extent) 1
  if 65536 < n then none else some ((upFrom 0 n).map fun k => (k, coordOf k ls))

/-- The 64 KiB granules of a buffer range that are present in a die's stacks (R289). -/
def granulesIn (c : Context) (die base len : Nat) : Nat :=
  (c.ptes.map fun p =>
    if p.present && p.cls != .host && len != 0 then
      let lo := max (base / 65536 * 65536) p.va
      let hi := min ((base + len + 65535) / 65536 * 65536) (p.va + 2 ^ p.lgs)
      if lo < hi then
        let a := max (p.frame + (lo - p.va)) (die * dieHbm)
        let b := min (p.frame + (hi - p.va)) ((die + 1) * dieHbm)
        (b - a) / 65536
      else 0
    else 0).sum

/-- The die with the highest count of granules, the lower on ties (R289). -/
def bestDie (c : Context) (ranges : List (Nat × Nat)) : Nat :=
  let n := fun d => (ranges.map fun r => granulesIn c d r.1 r.2).sum
  (upFrom 1 7).foldl (fun b d => if n b < n d then d else b) 0

/-- Ranks of one instance of a domain (R288). -/
def instanceSize (dom : Nat) : Nat := if dom = 1 then 4096 else if dom = 2 then 512 else if dom = 3 then 32 else if dom = 4 then 8 else 1

/-- The first rank of the domain instance that holds a rank (R288). -/
def instanceBase (dom rank : Nat) : Nat := if dom = 0 then 0 else rank / instanceSize dom * instanceSize dom

/-- Contexts of a context id that a core holds: in its slots, its queue, its wait lists and its network interface. -/
def Core.contexts (c : Core) (ctx : Nat) : Nat :=
  let mine := fun (t : Thread) => t.ctx == ctx
  ((c.slots.take 16).countP fun x => x.th.any mine) + c.queue.countP mine + c.woke.countP (fun t => mine t.2) + c.rel.countP mine
    + (c.ni.countP fun p => match p.kind with
      | .context _ t => mine t
      | _ => false)
    + (c.berths.map fun p => p.2.waiters.countP fun w => mine w.th).sum

/-- Contexts of a context id that a quay holds at a core: at its quay core in service slots and the arrival queue, elsewhere those that wait in
the core's interface for the quay core (R103). -/
def Quay.contexts (q : Quay) (core ctx : Nat) : Nat :=
  let mine := fun (t : Thread) => t.ctx == ctx
  (if core % 32 = 31 then (q.svc.countP fun x => x.slot.th.any mine) + q.svcBack.countP (fun r => mine r.th) + q.svcQueue.countP mine else 0)
    + q.svcWait.countP fun p => p.1 == core % 32 && mine p.2

/-- Contexts on the cores of an instance, with the tasks that this launch has already placed there (R289). -/
def State.instanceLoad (s : State) (ctx base size : Nat) (placed : List TaskSpec) : Nat :=
  ((s.ctx ctx).ranks.map fun p =>
    if base ≤ p.1 ∧ p.1 < base + size ∧ p.2.state ≠ 0 then (s.core p.2.phys).contexts ctx + (s.quay (quayOf p.2.phys)).contexts p.2.phys ctx
    else 0).sum
    + placed.countP fun x => decide (base ≤ x.rank) && decide (x.rank < base + size)

/-- The instance of a domain on a die whose cores hold the fewest contexts, the lowest on ties, among those in the rank table (R289). -/
def State.pickInstance (s : State) (ctx die dom : Nat) (placed : List TaskSpec) : Nat :=
  let size := instanceSize dom
  let bases := (upFrom 0 (512 / size)).map fun i => die * 512 + i * size
  let here := bases.filter fun b => ((s.ctx ctx).rank b).state != 0
  match here with
  | [] => die * 512
  | b :: t => t.foldl (fun m x => if s.instanceLoad ctx x size placed < s.instanceLoad ctx m size placed then x else m) b

/-- The groups of a launch placed one after another, each at its own base (R289). -/
def State.placeGroups (s : State) (ctx die dom : Nat) (ls : List Level) : List Nat → List (Nat × List Nat) → List TaskSpec → List TaskSpec
  | [], _, acc => acc
  | g :: gs, ts, acc =>
    let base := s.pickInstance ctx die dom acc
    let mine := (ts.filter fun t => t.2.head? == some g).map fun t =>
      let o := offsetOf ls (0 :: t.2.drop 1)
      ({ taskid := BitVec.ofNat 64 t.1, rank := base + o.1 * 4096 + o.2.1 * 512 + o.2.2, stage := 0, thread := classIndex 6 ls t.2 } : TaskSpec)
    s.placeGroups ctx die dom ls gs ts (acc ++ mine)

/-- The tasks of a pipeline, its stages one after another from a base (R292). -/
def stageTasks (base : Nat) : Nat → List Stage → List TaskSpec
  | _, [] => []
  | s, st :: t =>
    (upFrom 0 st.ntask).map (fun i =>
      ({ taskid := BitVec.ofNat 64 (s * 2 ^ 16 + i), rank := base + i, stage := s, thread := 0 } : TaskSpec))
      ++ stageTasks (base + st.ntask) (s + 1) t

/-- The tasks of a launch with their ranks (R288, R289); none where there can be no place for them. The single base of a PIPELINE is the core of
the chosen die that R289 would give a group of the CORE level (log entry 31). -/
def State.placeTasks (s : State) (ctx : Nat) (src : LSource) (r : LaunchRec) (ranges : List (Nat × Nat)) : Option (List TaskSpec) :=
  let fixedBase : Option Nat := match src with
    | .spawn _ _ _ _ base _ _ _ _ _ => some base
    | .queue .. => if r.fixed then some r.place.toNat else none
  let die := bestDie (s.ctx ctx) ranges
  if r.kind = 1 then some (stageTasks (fixedBase.getD (s.pickInstance ctx die 5 [])) 0 r.stageTab)
  else (gridTasks r.levels).map fun ts =>
    match fixedBase with
    | some base => ts.map fun t =>
      let o := offsetOf r.levels t.2
      { taskid := BitVec.ofNat 64 t.1, rank := base + o.1 * 4096 + o.2.1 * 512 + o.2.2, stage := 0, thread := classIndex 6 r.levels t.2 }
    | none =>
      if r.outer ≤ 1 then ts.map fun t =>
        let o := offsetOf r.levels t.2
        { taskid := BitVec.ofNat 64 t.1, rank := o.1 * 4096 + (die + o.2.1) % 8 * 512 + o.2.2, stage := 0
          thread := classIndex 6 r.levels t.2 }
      else
        let e := (r.levels.head?.map (·.extent)).getD 1
        s.placeGroups ctx die r.outer r.levels (upFrom 0 e) ts []

/-- Every rank of a placement is in the context's rank table (R288). -/
def State.ranksPresent (s : State) (ctx : Nat) (ts : List TaskSpec) : Bool :=
  ts.all fun t => decide (t.rank < 2 ^ 24) && ((s.ctx ctx).rank t.rank).state != 0

/-- The bindings of a pipeline (R294): producer and consumer stage, rank, berth and configuration word of each binding event. -/
structure Binding where
  from_ : Nat
  to_ : Nat
  rank : Nat
  berth : Nat
  cfg : Word
  deriving DecidableEq, Repr

/-- The rank of task `i` of a stage. -/
def rankOfTask (ts : List TaskSpec) (stage i : Nat) : Nat :=
  ((ts.find? fun t => t.stage == stage && t.taskid.toNat % 2 ^ 16 == i).map (·.rank)).getD 0

/-- The binding events of a channel for one task pair (R223, R294): the consumer's SLOT berth, then the producer's ALLOW berth. -/
def pairBindings (ts : List TaskSpec) (c : ChanEntry) (i : Nat) : List Binding :=
  let p := rankOfTask ts c.from_ i
  let k := rankOfTask ts c.to_ i
  [{ from_ := c.from_, to_ := c.to_, rank := k, berth := c.sberth
     cfg := BitVec.ofNat 64 (2 ^ 62 + c.base * 2 ^ 48 + c.dsz * 2 ^ 41 + c.lgn * 2 ^ 37 + c.aberth * 2 ^ 24 + p) },
   { from_ := c.from_, to_ := c.to_, rank := p, berth := c.aberth
     cfg := BitVec.ofNat 64 (2 ^ 63 + c.lgi * 2 ^ 35 + c.sberth * 2 ^ 24 + k) }]

/-- Every binding event of a launch. -/
def bindingsOf (r : LaunchRec) (ts : List TaskSpec) : List Binding :=
  r.chanTab.flatMap fun c => (upFrom 0 (((r.stageTab[c.from_]?).map (·.ntask)).getD 0)).flatMap fun i => pairBindings ts c i

/-- The buffer ranges that a record names (R284): base and length of each. -/
def State.readRanges (s : State) (die ctx : Nat) (r : LaunchRec) : Verdict (List (Nat × Nat)) × State :=
  if r.fixed ∨ r.nbuf = 0 then (.ok [], s)
  else match s.eRead (frontEng die ctx) none true (16 * r.nbuf) r.place with
    | (.error (.ats _, _), t) => (.wait, t)
    | (.error _, t) => (.bad rRECORD 0, t)
    | (.ok b, t) => (.ok ((upFrom 0 r.nbuf).map fun i => (recField (bytesOf b) (16 * i) 8, recField (bytesOf b) (16 * i + 8) 8)), t)

/-- The count of an INDIRECT launch (R296): the record with level 0's extent replaced, and CLAMPED. -/
def State.readCount (s : State) (die ctx : Nat) (r : LaunchRec) : Verdict (LaunchRec × Bool) × State :=
  if r.indirect then
    match s.eRead (frontEng die ctx) none true 4 r.icount with
    | (.error (.ats _, _), t) => (.wait, t)
    | (.error _, t) => (.bad rRECORD 0, t)
    | (.ok b, t) =>
      let n := numOf b
      match r.levels with
      | [] => (.ok (r, false), t)
      | l :: ls => (.ok ({ r with levels := { l with extent := min n l.extent } :: ls }, decide (l.extent < n)), t)
  else (.ok (r, false), s)

/-- Steps 6 and 7 of R286 with the count of R296: the record, CLAMPED, and the tasks with their ranks. -/
def State.finishCheck (s : State) (die ctx : Nat) (src : LSource) (r : LaunchRec) : Verdict (LaunchRec × Bool × List TaskSpec) × State :=
  match s.readCount die ctx r with
  | (.wait, t) => (.wait, t)
  | (.bad a b, t) => (.bad a b, t)
  | (.ok (r, clamped), t) =>
    if (r.levels.any fun l => l.extent == 0) then (.ok (r, clamped, []), t)
    else match r.oversize with
      | some n => (.bad rOVERSIZE n, t)
      | none =>
        match t.readRanges die ctx r with
        | (.wait, u) => (.wait, u)
        | (.bad a b, u) => (.bad a b, u)
        | (.ok ranges, u) =>
          match u.placeTasks ctx src r ranges with
          | none => (.bad rPLACEMENT 0, u)
          | some ts => if u.ranksPresent ctx ts then (.ok (r, clamped, ts), u) else (.bad rPLACEMENT 0, u)

/-- A launch with its tasks placed: it binds and dispatches them. -/
def Launch.placed (x : Launch) (r : LaunchRec) (clamped : Bool) (ts : List TaskSpec) : Launch :=
  { x with
    rcd := r
    clamped := clamped
    phase := .dispatching
    todo := ts
    binds := (bindingsOf r ts).map fun b => (b.rank * 2048 + b.berth, b.from_ * 256 + b.to_, b.cfg) }

/-- STATUS at the start of a task (R27, R194, R291): level S or T, anchored where it holds registers or array access. -/
def startStatus (r : LaunchRec) (paired : Bool) : Word :=
  BitVec.ofNat 64 ((if r.super then 2 else 1) + b2n (r.vq != 0 || r.array) * 2 ^ 4 + b2n paired * 2 ^ 8)

/-- A task's initial context (R291). -/
def initialThread (n : Nat) (x : Launch) (nlev : Nat) (t : TaskSpec) (vbase : Nat) (paired : Bool) : Thread :=
  let r := x.rcd
  let st := r.stageTab[t.stage]?
  let entry := if r.kind = 1 then (st.map (·.entry)).getD 0 else r.entry
  let arg := if r.kind = 1 then (st.map (·.arg)).getD 0 else r.arg
  let x8 : Word := if r.spad = 0 then 0 else BitVec.ofNat 64 (0x00FFFFFFFFFC0000 + (t.thread + 1) * r.spad * 1024)
  { ctx := x.ctx, rank := t.rank, launch := n, taskid := t.taskid, pc := entry
    x := ((Vector.replicate 10 (0#64)).setIfInBounds 0 arg).setIfInBounds 8 x8
    status := startStatus r paired, vq := r.vq, vbase := vbase, array := r.array, nlev := nlev + r.nlev, domain := r.own
    scope := r.taskScope t.stage, rngkey := randomWord r.arg r.ltag 0 (t.taskid.toNat % 2 ^ 32), retRank := t.rank }

/-! The order of events (R283) -/

/-- The front end of a die has handled no event in this cycle. -/
def State.feFree (s : State) (die : Nat) : Bool := (s.die die).feAt != some s.cycle

/-- The CANCEL in slot HEAD of a queue is ready (R306). -/
def State.queueCancels (s : State) (q : Nat) : Bool :=
  let x := s.queue q
  let b := s.hdmRead (commandAt q x.head) 128
  x.armed && recField b 127 1 == x.egen && recField b 0 1 == 0x80

/-- A cancel is ready at a die's front end: one on its way to it or, at die 0, a command (R297, R306). -/
def State.cancelReady (s : State) (die : Nat) : Bool :=
  (s.launches.any fun p => p.2.cancels.any (·.die == die)) || (die == 0 && s.queues.any fun p => s.queueCancels p.1)

/-- A cancel that is ready at a die's front end has let a dispatch go first: no other goes before it (R283; DEDUCED, log entry 31). -/
def State.cancelNext (s : State) (die : Nat) : Bool :=
  (s.launches.any fun p => p.2.cancels.any fun c => c.die == die && c.waited) || (die == 0 && s.queues.any fun p => p.2.waited && s.queueCancels p.1)

/-- The tasks that run from a core's rank: those that a launch has dispatched there and that have not ended, with their launch. -/
def State.residents (s : State) (ctx rank : Nat) : List (Launch × TaskSpec) :=
  s.launches.flatMap fun p => if p.2.ctx = ctx then (p.2.live.filter fun t => t.rank == rank).map fun t => (p.2, t) else []

/-- The lowest aligned block of V registers that is free beside the quotas held (R26, R290). -/
def freeBlock (vq : Nat) (held : List (Nat × Nat)) : Option Nat :=
  if vq = 0 then some 0
  else ((upFrom 0 (32 / vq)).map (· * vq)).find? fun b => held.all fun h => decide (b + vq ≤ h.1) || decide (h.1 + h.2 ≤ b)

/-- The V block that a task would take at its core, if it fits there now (R290). -/
def State.fits (s : State) (x : Launch) (t : TaskSpec) : Option Nat :=
  let rs := s.residents x.ctx t.rank
  if x.rcd.array && rs.any fun r => r.1.rcd.array then none
  else freeBlock x.rcd.vq ((rs.filter fun r => r.1.rcd.vq != 0).map fun r => (r.2.vbase, r.1.rcd.vq))

/-- The tasks of a launch that are ready to be dispatched, with their V blocks: those of the highest stage left, its bindings made (R290, R294). A rank in
transit keeps none back: what is sent to it is held (R201). -/
def State.readyTasks (s : State) (x : Launch) : List (TaskSpec × Nat) :=
  let top := (x.todo.map (·.stage)).foldl max 0
  if x.phase ≠ .dispatching ∨ (s.ctx x.ctx).state ≠ 1 ∨ (x.binds.any fun b => b.2.1 / 256 == top || b.2.1 % 256 == top) then []
  else (x.todo.filter fun t => t.stage == top).filterMap fun t => (s.fits x t).map fun b => (t, b)

/-- The die whose front end dispatches a task. -/
def State.taskDie (s : State) (x : Launch) (t : TaskSpec) : Nat := dieOf ((s.ctx x.ctx).rank t.rank).phys

/-- The next task of a launch that can be dispatched, with its V block: on a die whose front end is free for it (R283). -/
def State.nextTask (s : State) (x : Launch) : Option (TaskSpec × Nat) :=
  (s.readyTasks x).find? fun t =>
    let d := s.taskDie x t.1
    s.feFree d && (s.die d).exits.isEmpty && !s.cancelNext d

/-- A launch has a task to dispatch now. -/
def State.canDispatch (s : State) (x : Launch) : Bool := (s.nextTask x).isSome

/-- A dispatch of a die's front end is ready that goes before a cancel (R283). -/
def State.dispatchReady (s : State) (die : Nat) : Bool :=
  !s.cancelNext die && s.launches.any fun p => (s.readyTasks p.2).any fun t => s.taskDie p.2 t.1 == die

/-- The front end of a die can take a cancel (R283). -/
def State.feCancels (s : State) (die : Nat) : Bool := s.feFree die && (s.die die).exits.isEmpty && !s.dispatchReady die

/-- The front end of a die is free for an event after a cancel in the order of R283. -/
def State.feAfterCancel (s : State) (die : Nat) : Bool := s.feCancels die && !s.cancelReady die

/-- The die whose front end makes the first binding of a launch, where its rank is ACTIVE (R294). -/
def State.bindDie (s : State) (x : Launch) : Option Nat :=
  match x.binds with
  | [] => none
  | (k, _, _) :: _ =>
    let e := (s.ctx x.ctx).rank (k / 2048)
    if x.phase = .dispatching ∧ e.state = 1 then some (dieOf e.phys) else none

/-- A binding event of a launch can be made: the front end of its die is free for it (R283, R294). -/
def State.canBind (s : State) (x : Launch) : Bool := (s.bindDie x).any s.feAfterCancel

/-- The front end of a die is free for a validation step (R283). -/
def State.feValidates (s : State) (die : Nat) : Bool := s.feAfterCancel die && !(s.launches.any fun p => s.bindDie p.2 == some die)

/-- A SPAWN of a die's core can be validated (R204, R283). -/
def State.feSpawns (s : State) (die : Nat) : Bool := s.feValidates die

/-- A launch is held by a front end. -/
def State.inFlight (s : State) (l : Nat) : Bool := (Tab.find l s.launches).isSome

/-- An earlier launch of the same queue has not left it (R309). -/
def State.heldBack (s : State) (l : Nat) (x : Launch) : Bool :=
  match x.src with
  | .queue cmd _ => s.launches.any fun p => decide (p.1 < l) && p.2.phase != .dispatching && match p.2.src with
      | .queue c _ => c.q == cmd.q
      | .spawn .. => false
  | .spawn .. => false

/-- A launch that waits on no dependence any more (R295). -/
def State.unheld (s : State) (x : Launch) : Bool := !x.waitsOn.any s.inFlight

/-- A launch has a validation step to make, and waits for no host page (R309). -/
def State.mayValidate (s : State) (l : Nat) (x : Launch) : Bool :=
  !((s.die x.die).pendAts.any fun p => p.1 == x.ctx) && match x.phase with
      | .reading => true
      | .counting => s.unheld x
      | .placed => s.unheld x && !s.heldBack l x
      | .refused => !s.heldBack l x
      | .dispatching => false

/-- A validation step can be made (R283). -/
def State.canValidate (s : State) (l : Nat) (x : Launch) : Bool := s.mayValidate l x && s.feValidates x.die

/-- The watchdog of a launch has run out (R301). -/
def State.hangs (s : State) (x : Launch) : Bool :=
  x.rcd.wdog != 0 && x.phase == .dispatching && !x.silent && match x.wdogFrom with
    | some t => decide (t + 2 ^ x.rcd.wdog * microUnits ≤ s.time)
    | none => false

/-- A watchdog tick can be taken: the last in the order of R283. -/
def State.canReport (s : State) (x : Launch) : Bool :=
  s.hangs x && s.feValidates x.die && !(s.launches.any fun p => p.2.die == x.die && s.mayValidate p.1 p.2)

/-- No event of R283 is ready at the front end of a die (R420). -/
def State.feIdle (s : State) (die : Nat) : Bool :=
  s.feValidates die && !(s.launches.any fun p => p.2.die == die && (s.mayValidate p.1 p.2 || s.hangs p.2))

end Sys2Proof.Machine
end

