-- ==== Sys2Proof/Machine/Tasks.lean ====
section
/-!
DEFINITION. Tasks: majors 0x60 and 0x61 (R198, R203 to R209).
-/

namespace Sys2Proof.Machine

/-- The checks and the read of SPAWN's record (R204): reach, alignment, class. Poison in a field that names a rank or holds an address kills the
task (R405); the rest of a poisoned record is used as its bytes (log entry 22). -/
def spawnRecord (th : Thread) (ea : Word) : M (List Byte) := do
  localRegion th ea
  let s ← getS
  require (s.peekClass th ea != some .device) cADDRESS ea
  require (ea.toNat % 128 == 0) cALIGN ea
  let as ← localRun th .read 128 128 ea
  let bs := (← readAccs true as).flatten
  let r := recOf false (bytesOf bs)
  if r.fixed || r.nbuf != 0 then cleanBytes bs 96 8 else pure ()
  if r.kind = 1 then cleanBytes bs 104 8 else pure ()
  if r.indirect then cleanBytes bs 112 8 else pure ()
  pure (bytesOf bs)

/-- EVAL of LAUNCH (R205). -/
def launchEval (reason resource : Nat) : Word := BitVec.ofNat 64 (reason + resource * 256)

/-- A validation's answer in a meaning: a failure traps LAUNCH, a host page not yet translated stalls (R205). -/
def verdictM {α : Type} (r : Verdict α × State) : M α :=
  match r.1 with
  | .ok a => do
    setS r.2
    pure a
  | .bad reason res => trapM cLAUNCH (launchEval reason res)
  | .wait => do
    setS r.2
    stallM .ats

/-- Where a launch spawned by a thread stands, `issuer` being the rank of the issuing core (R204, R288). -/
def spawnSource (th : Thread) (issuer : Nat) (parent : Launch) (imm : Nat) : LSource :=
  .spawn th.launch issuer (imm % 2048) (bit 11 imm) (instanceBase th.domain th.rank) th.nlev th.domain th.scope (th.priv == 2)
    parent.rcd.array

/-- A launch added to those that the front ends hold; its parent counts it, and a cancelled parent's child dispatches nothing
(R204, R297). -/
def State.addChild (s : State) (parent : Nat) (x : Launch) : State :=
  let p := s.launch parent
  let x1 := if p.cancelled then { x with todo := [], binds := [], cancelled := true } else x
  let s1 := s.updLaunch parent fun y => { y with children := y.children + 1 }
  { s1 with launches := Tab.set s.nextLaunch { x1 with order := s.nextLaunch } s1.launches, nextLaunch := s.nextLaunch + 1 }

/-- SPAWN (R204, R205). Its validation is a front-end event: it waits for those before it in the order of R283. -/
def execSpawn (h : Hdr) (f : EF) (s : State) : Out :=
  issue (.spawn h f) h 0x60 0 12 s fun th => do
    alignM th (.frontEnd (dieOf s.here))
    aloneM
    let ea ← cleanUse (eaOf th f.a f.b f.fl f.imm)
    let bs ← spawnRecord th ea
    let s ← getS
    let die := dieOf s.here
    let parent := s.launch th.launch
    let from_ := spawnSource th (s.issuerRank th s.here) parent f.tail.toNat
    let r ← verdictM (s.checkRecord die th.ctx true (recOf false bs))
    match r.rights from_ with
    | some reason => trapM cLAUNCH (launchEval reason 0)
    | none => do
      let s ← getS
      let fin ← verdictM (s.finishCheck die th.ctx from_ r)
      let s ← getS
      if s.feSpawns die then pure () else stallM .request
      modS fun s => s.publishB s.here r.memScope
      let s ← getS
      let x : Launch := { ctx := th.ctx, src := from_, die := die, wdogFrom := some s.time }
      setS ((s.feTakes die).addChild th.launch (x.placed fin.1 fin.2.1 fin.2.2))

/-- The task of the thread at a place ends by EXIT: the front end of its die counts it as its event of the cycle or, where it has had one, in a later cycle
(R206, R283). -/
def State.exitTask (s : State) (l : Loc) (th : Thread) : State :=
  let d := dieOf (locCore l)
  let new := s.hasRecorded th.ctx (locAgent l)
  if s.feFree d && (s.die d).exits.isEmpty then ((s.feTakes d).leaveTask l th).countEnd th.ctx th.task new .exited
  else (s.leaveTask l th).updDie d fun x => { x with exits := x.exits ++ [{ ctx := th.ctx, task := th.task, new := new }] }

/-- EXIT (R206). -/
def execExitI (h : Hdr) (f : SF) (s : State) : Out :=
  issue (.exitI h f) h 0x61 0 8 s fun _ => do
    aloneM
    let s ← getS
    match s.closeAll s.cur with
    | none => stallM .windowResult
    | some t =>
      match t.thread with
      | none => goneM
      | some th => do
        let core := t.here
        let t1 := (t.noteIssue t.cur).countInstr core
        let slice := t1.sliceCore t1.cur th
        let t2 := if th.array && t1.isJoined slice then t1.leaveGang slice else t1
        setS ((t2.publishB core th.scope).exitTask t2.cur th)
        goneM

/-- YIELD (R207): the thread is to rotate at its next boundary, where the run queue holds a context. -/
def execYield (h : Hdr) (f : SF) (s : State) : Out :=
  issue (.yield h f) h 0x61 1 8 s fun _ => modS fun s =>
    if s.cur.svc || (s.core s.here).queue.isEmpty then s else s.setSlot s.cur { s.curSlot with yielded := true }

/-- MIGRATE (R208). -/
def execMigrate (h : Hdr) (f : SF) (s : State) : Out :=
  issue (.migrate h f) h 0x61 2 8 s fun th => do
    let v ← cleanUse (src th f.a)
    require th.migrates cMIGRATE_DENIED v
    let s ← getS
    let e := (s.ctx th.ctx).rank (v.toNat % 2 ^ 24)
    let known := decide (v.toNat < 2 ^ 24) && e.state != 0
    if known && e.phys == s.here then pure ()
    else do
      require (!(e.state == 1 && !e.immig && e.phys != s.here)) cMIGRATE_DENIED v
      require known cADDRESS v
      departM v.toNat (th.after 8) true

/-- ANCHOR (R209). -/
def execAnchor (h : Hdr) (f : SF) (s : State) : Out :=
  issue (.anchor h f) h 0x61 3 8 s fun _ => modS fun s => s.updThread fun t => t.setMode true

/-- A task that R194 fixes as anchored: it holds V registers or array access. -/
def Thread.fixedHere (t : Thread) : Bool := t.vq != 0 || t.array

/-- MOBILE (R209). -/
def execMobile (h : Hdr) (f : SF) (s : State) : Out :=
  issue (.mobile h f) h 0x61 4 8 s fun th =>
    modS fun s => s.updThread fun t => (if th.fixedHere then t else t.setMode false).setP f.d.toNat (!th.fixedHere)

end Sys2Proof.Machine
end

