-- ==== Sys2Proof/Machine/Events.lean ====
section
/-!
DEFINITION. Events of cores, quays and dies: long operations, publishes, merge buffers, chunks, walks, requests that other agents serve, rotation
(R17, R172, R183, R198, R231, R233, R263, R266, R313, R340).
-/

namespace Sys2Proof.Machine

/-- The first window whose operation has not completed, completed (R17). -/
def completeFirst : List Window → List Window
  | [] => []
  | w :: t => if w.done then w :: completeFirst t else { w with done := true } :: t

/-- LONG_OPERATION_COMPLETE (R17). The latch holds its result from the issue on (log entry 4). -/
def execLongOperationComplete (l : Loc) (s : State) : Out :=
  .next (s.setSlot l { s.slot l with wins := completeFirst (s.slot l).wins })

/-- THREAD_ROTATION (R198). -/
def execThreadRotation (core slot : Nat) (s : State) : Out :=
  .next (if (s.core core).issuedAt = some s.cycle ∧ (upFrom 0 slot).all fun i => !(s.core core).rotationDue i then s.rotateSlot core slot else s)

/-- PUBLISH_COMPLETE (R231). A paired core's publishes leave at the end of its interval (R416). -/
def execPublishComplete (core : Nat) (s : State) : Out := .next (if s.isPaired core then s else s.completePublish core)

/-- MERGE_BUFFER_DRAIN (R233, R234): `level` 0 names a quay's buffer, 1 a die's, 2 the package's. -/
def execMergeBufferDrain (level unit line : Nat) (s : State) : Out :=
  .next (if level = 0 then (if (s.quay unit).merge.any (·.line == line) then s.drainQuay unit line else s)
    else if level = 1 then (if (s.die unit).merge.any (·.line == line) then s.drainDie unit line else s)
    else if s.pkgMerge.any (·.line == line) then s.drainPkg line else s)

/-- A channel sends: its context is neither being saved nor saved (R326). -/
def State.chanSends (s : State) (c : Chan) : Bool := c.owner.any fun o => (s.ctx o).state == 1 || (s.ctx o).state == 5

/-- A lighter as its scheduler sees it: the channels of contexts that are being saved or are saved send nothing, while their chunks in flight count
(R266, R326). -/
def State.sendingQuay (s : State) (q : Nat) : Quay :=
  let x := s.quay q
  { x with chans := x.chans.map fun c =>
      (c.1, if s.chanSends c.2 then c.2 else { c.2 with copies := c.2.copies.map fun k => { k with next := k.t.chunks } }) }

/-- The lighter after one send of the scheduler, the channels that do not send unchanged. -/
def State.sendChunk (s : State) (q : Nat) : State :=
  let y := (s.sendingQuay q).sendOne
  s.updQuay q fun z => { y with chans := z.chans.map fun c => (c.1, if s.chanSends c.2 then y.chan c.1 else c.2) }

/-- CHUNK_SEND (R266). -/
def execChunkSend (quay : Nat) (s : State) : Out := .next (s.sendChunk quay)

/-- CHUNK_LANDED (R263, R319): one chunk in flight lands. -/
def execChunkLanded (quay chan j : Nat) (s : State) : Out := .next (s.landChunk quay chan j)

/-- A slot whose thread of a context waits for something that `hit` admits issues again; `granted` says that its request is answered. -/
def Slot.wokenFrom (x : Slot) (ctx : Nat) (granted : Bool) (hit : Stall → Bool) : Slot :=
  if x.stall.any hit ∧ x.th.any (·.ctx == ctx) then { x with stall := none, granted := granted } else x

/-- The waiting threads of a die's cores and service pipelines woken (R313, R315). -/
def State.wakeDie (s : State) (d ctx : Nat) (granted : Bool) (hit : Stall → Bool) : State :=
  { s with
    cores := Tab.mapVals (fun k c => if dieOf k = d then { c with slots := c.slots.map fun x => x.wokenFrom ctx granted hit } else c) s.cores
    quays := Tab.mapVals (fun q y => if q / 16 = d then
      { y with svc := y.svc.map fun x => { x with slot := x.slot.wokenFrom ctx granted hit } } else y) s.quays }

/-- Waiting chunks of a die's lighters for a context tried again: those that wait for the walk of an address's granule, with their walk made, or those
that wait for the host. -/
def State.retryChunks (s : State) (d ctx : Nat) (walk : Option Nat) : State :=
  (s.waitingChunks d ctx walk).foldl (fun t w => t.retryChunk w fun x => { x with ready := true, walked := walk.or x.walked }) s

/-- Waiting participants of a die's collective operations tried again. -/
def State.retryColls (s : State) (d ctx : Nat) : State := (s.collWaiting d ctx).foldl (fun t w => t.collTry d ctx w.1 w.2) s

/-- Kicks of a die's lighters that wait, and copies whose end waits, tried again. -/
def State.retryKicks (s : State) (d : Nat) : State :=
  (s.quays.filter fun p => p.1 / 16 == d).foldl (fun t p => p.2.chans.foldl (fun t c => t.settleLighter p.1 c.1) t) s

/-- Placements that wait at a die's cores for a context tried again. -/
def State.retryPlaces (s : State) (d ctx : Nat) : State :=
  let here := fun (x : Parked) => x.again && match x.item with
    | .place p => dieOf ((s.ctx ctx).rank p.rank).phys == d
    | _ => false
  let items := (s.ctx ctx).parked.filter here
  let s1 := s.updCtx ctx fun c => { c with parked := c.parked.filter fun x => !here x }
  items.foldl (fun t x => match x.item with
    | .place p => t.placeAgain p x.bytes (x.pri.map Prod.snd) x.cmd
    | _ => t) s1

/-- Everything of a die and context that waits for the host tried again (R315, R316). -/
def State.retryAll (s : State) (d ctx : Nat) : State :=
  (((s.retryChunks d ctx none).retryColls d ctx).retryKicks d).retryPlaces d ctx

/-- A thread waits for the walk of a leaf granule (R313). -/
def Stall.walks (c : Context) (va : Nat) : Stall → Bool
  | .walk w => c.sameGranule va w
  | _ => false

/-- PAGE_WALK_COMPLETE (R313): the misses of a context on a die that have joined the walk of an address's leaf granule are settled. -/
def execPageWalkComplete (die ctx va : Nat) (s : State) : Out :=
  .next (((match (s.ctx ctx).leaf va with
    | some p => if p.present then s.updCtx ctx fun c => { c with ptes := markPte va false c.ptes } else s
    | none => s).wakeDie die ctx true (Stall.walks (s.ctx ctx) va)).retryChunks die ctx (some va))

/-- The instructions that another core's scratchpad serves (R172). -/
def remoteExec : Instr → Option (State → Out)
  | .ld h f => some (execLd h f)
  | .lds h f => some (execLds h f)
  | .st h f => some (execSt h f)
  | .vld h f => some (execVld h f)
  | .vlds h f => some (execVlds h f)
  | .vldg h f => some (execVldg h f)
  | .vst h f => some (execVst h f)
  | .vsts h f => some (execVsts h f)
  | .vstg h f => some (execVstg h f)
  | .wload h f => some (execWload h f)
  | .mma h f => some (execMma h f)
  | .mmaAcc h f => some (execMmaAcc h f)
  | _ => none

/-- REMOTE_SCRATCHPAD_ACCESS (R172). -/
def execRemoteScratchpadAccess (l : Loc) (s : State) : Out := s.serve l remoteExec

/-- The atomics (R182). -/
def atomExec : Instr → Option (State → Out)
  | .aadd h f => some (execAadd h f)
  | .aand h f => some (execAand h f)
  | .aor h f => some (execAor h f)
  | .axor h f => some (execAxor h f)
  | .amin h f => some (execAmin h f)
  | .amax h f => some (execAmax h f)
  | .aminu h f => some (execAminu h f)
  | .amaxu h f => some (execAmaxu h f)
  | .aswp h f => some (execAswp h f)
  | .acas h f => some (execAcas h f)
  | _ => none

/-- ATOMIC_PERFORMED (R183). -/
def execAtomicPerformed (l : Loc) (s : State) : Out := s.serve l atomExec

/-- The instructions that act at a slate (R340). -/
def slateExec : Instr → Option (State → Out)
  | .slr h f => some (execSlr h f)
  | .slw h f => some (execSlw h f)
  | .force h f => some (execForce h f)
  | .gset h f => some (execGset h f)
  | .accept h f => some (execAccept h f)
  | .kvput h f => some (execKvput h f)
  | .kvcommit h f => some (execKvcommit h f)
  | .draw h f => some (execDraw h f)
  | _ => none

/-- SLATE_REQUEST_AT_SLATE (R340). -/
def execSlateRequestAtSlate (l : Loc) (s : State) : Out := s.serve l slateExec

end Sys2Proof.Machine
end

