-- ==== Sys2Proof/Machine/FrontEnd.lean ====
section
/-!
DEFINITION. The front end's launch events: validation, bindings, dispatch, cancel, completion, the watchdog (R283 to R301).
-/

namespace Sys2Proof.Machine

/-- The launches of a context in flight under a tag (R295, R297). -/
def State.underTag (s : State) (ctx tag : Nat) : List Nat :=
  (s.launches.filter fun p => p.2.ctx == ctx && p.2.rcd.ltag == tag).map Prod.fst

/-- STATUS of a launch that ends (R299). -/
def Launch.endStatus (x : Launch) : Nat := if x.cancelled then 3 else x.firstErr.getD 0

/-- A launch leaves the front ends: a command's completion record, or a spawned launch's berth and its parent's count (R204, R298). -/
def State.finishLaunch (s : State) (l : Nat) (x : Launch) (status code : Nat) : State :=
  let s1 := { s with launches := Tab.del l s.launches }
  match x.src with
  | .queue cmd _ => s1.complete cmd
      { status := status, code := code, errcount := x.errcount, dispatched := x.dispatched, exited := x.exited, detail := x.detail }
  | .spawn parent rank b nb _ _ _ _ _ _ =>
    let s2 := s1.updLaunch parent fun y => { y with children := y.children - 1 }
    if nb then s2 else s2.sendFrom (16384 + x.die) (.frontEnd x.die) x.ctx rank rank (.inc b none)

/-- A launch that a command submitted leaves its queue, where it can: one that has been refused completes, one that has been placed binds and
dispatches its tasks (R286, R295, R309). -/
def State.leaveQueue (s : State) (l : Nat) : State :=
  match Tab.find l s.launches with
  | none => s
  | some x =>
    if s.heldBack l x then s
    else if x.phase = .refused then s.finishLaunch l x x.status x.code
    else if x.phase = .placed ∧ s.unheld x then s.updLaunch l fun y => { y with phase := .dispatching }
    else s

/-- A launch refused by validation, with its STATUS and CODE (R286, R299). -/
def State.refuse (s : State) (l status code : Nat) : State :=
  (s.updLaunch l fun y => { y with phase := .refused, status := status, code := code }).leaveQueue l

/-- Steps 6 and 7 of R286, with the count of R296. -/
def State.placeLaunch (s : State) (l : Nat) (x : Launch) (r : LaunchRec) : State :=
  match s.finishCheck x.die x.ctx x.src r with
  | (.wait, t) => t
  | (.bad reason res, t) => if reason = rOVERSIZE then t.refuse l 2 res else t.refuse l 1 reason
  | (.ok (r, clamped, ts), t) => (t.updLaunch l fun y => { y.placed r clamped ts with phase := .placed }).leaveQueue l

/-- A validation step of a launch that a command submitted (R286): every check at once, but that an INDIRECT launch is counted and placed when its
last dependence has retired (R296); and then its leaving the queue, in slot order (R295, R309). -/
def State.validate (s : State) (l : Nat) : State :=
  match Tab.find l s.launches with
  | none => s
  | some x =>
    match x.phase with
    | .reading =>
      (match s.checkRecord x.die x.ctx false x.rcd with
        | (.wait, t) => t
        | (.bad reason _, t) => t.refuse l 1 reason
        | (.ok r, t) => match r.rights x.src with
          | some reason => t.refuse l 1 reason
          | none =>
            let on := (r.deps.flatMap fun d => t.underTag x.ctx d).filter (· < l)
            let y := { x with rcd := r, phase := .counting, waitsOn := on }
            let u := t.updLaunch l fun _ => y
            if r.indirect && !on.isEmpty then u else u.placeLaunch l y r)
    | .counting => if s.unheld x then s.placeLaunch l x x.rcd else s
    | _ => s.leaveQueue l

/-- A berth configured by the front end as BCFG would (R294). Where its wait list is not empty, which BCFG would trap, the waiters stay and its head is
tested on the new COUNT (R213; DESIGN CHOICE, log entry 65). -/
def Core.bind (c : Core) (b : Nat) (cfg : Word) : Core :=
  let d := c.updBerth b fun x => { berthOf cfg with waiters := x.waiters }
  d.settle true (d.berth b).waiters.length b

/-- The cancels and commands of a die that a dispatch goes before now (R283). -/
def State.passCancels (s : State) (die : Nat) : State :=
  if s.cancelReady die then
    { s with
      launches := Tab.mapVals (fun _ x => { x with cancels := x.cancels.map fun c => if c.die = die then { c with waited := true } else c }) s.launches
      queues := if die = 0 then Tab.mapVals (fun q x => if s.queueCancels q then { x with waited := true } else x) s.queues else s.queues }
  else s

/-- The level count of the task that a launch comes from (R204). -/
def LSource.nlev : LSource → Nat
  | .queue .. => 0
  | .spawn _ _ _ _ _ n _ _ _ _ => n

/-- One task of a launch dispatched: its initial context is sent (R291). Where the front end of its core's die is not that which holds the launch, the two
have both recorded for a snapshot or neither has (R390; log entry 61). A front end has no rank: the packet's ORIGIN is the rank that it goes to (DESIGN CHOICE,
log entry 65). -/
def State.dispatchNext (s : State) (l : Nat) : State :=
  match Tab.find l s.launches with
  | none => s
  | some x =>
    match s.nextTask x with
    | none => s
    | some (t, b) =>
      let core := ((s.ctx x.ctx).rank t.rank).phys
      let d := dieOf core
      let th := initialThread l x x.src.nlev t b (s.isPaired core)
      let t1 := { t with vbase := b }
      let s1 := (((s.passCancels d).align x.ctx (.frontEnd d) (.frontEnd x.die)).updLaunch l fun y =>
        { y with
          todo := y.todo.filter fun k => k.taskid != t.taskid
          live := y.live ++ [t1]
          ranksUsed := insNat t.rank y.ranksUsed
          dispatched := y.dispatched + 1
          wdogFrom := if y.dispatched = 0 then some s.time else y.wdogFrom }).feTakes d
      s1.sendFrom (16384 + d) (.frontEnd d) x.ctx t.rank t.rank (.context 0 th)

/-- DISPATCH (R291). -/
def execDispatch (l : Nat) (s : State) : Out := .next (s.dispatchNext l)

/-- One binding event of a launch (R294). -/
def State.bindNext (s : State) (l : Nat) : State :=
  match Tab.find l s.launches with
  | none => s
  | some x =>
    match x.binds with
    | [] => s
    | (k, _, cfg) :: t =>
      if s.canBind x then
        let core := ((s.ctx x.ctx).rank (k / 2048)).phys
        let s1 := ((s.feTakes (dieOf core)).align x.ctx (.frontEnd (dieOf core)) (.core core)).align x.ctx (.frontEnd (dieOf core)) (.frontEnd x.die)
        ((s1.updLaunch l fun y => { y with binds := t }).doomWaiting core (k % 2048)).updCore core fun c => c.bind (k % 2048) cfg
      else s

/-- CHANNEL_BINDING (R294). -/
def execChannelBinding (l : Nat) (s : State) : Out := .next (s.bindNext l)

/-- LAUNCH_VALIDATION (R286). -/
def execLaunchValidation (l : Nat) (s : State) : Out :=
  .next (match Tab.find l s.launches with
    | none => s
    | some x => if s.canValidate l x then (s.feTakes x.die).validate l else s)

/-! Cancels with ABORT (R297) -/

/-- The copies that a task kicked end as an abort ends them, and so will its kicks that wait (R271, R297). -/
def State.abortCopies (s : State) (ctx : Nat) (k : TaskId) : State :=
  let mine := fun (x : Kick) => x.ctx == ctx && x.task == k
  s.quays.foldl (fun t p => p.2.chans.foldl (fun t c =>
    let ch := (t.quay p.1).chan c.1
    if ch.pending.any mine || ch.copies.any fun y => mine y.kick then
      let t1 := t.updQuay p.1 fun x => x.updChan c.1 fun y =>
        { y with pending := y.pending.map fun x => if mine x then { x with aborted := true } else x }
      ((ch.copies.filter fun y => mine y.kick).foldl (fun u y => u.stopCopy false p.1 c.1 y (2, 0, 0)) t1).settleLighter p.1 c.1
    else t) t) s

/-- The place whose thread is a task's, in a barrel or a service slot. -/
def State.placeOf (s : State) (ctx : Nat) (k : TaskId) : Option Loc :=
  match s.cores.findSome? fun p => (firstIdx (fun (x : Slot) => x.th.any (·.isOf ctx k)) (p.2.slots.take 16)).map fun i => (p.1, i) with
  | some (c, i) => some { svc := false, unit := c, slot := i }
  | none =>
    (s.quays.findSome? fun p => (firstIdx (fun (x : SvcSlot) => x.slot.th.any (·.isOf ctx k)) p.2.svc).map fun i => (p.1, i)).map fun x =>
      { svc := true, unit := x.1, slot := x.2 }

/-- The contexts of a task removed from every queue, wait list, packet and saved image (R297, R328). -/
def State.withoutTask (s : State) (ctx : Nat) (k : TaskId) : State :=
  let s1 := { s with
    cores := Tab.mapVals (fun _ c => c.withoutTask ctx k) s.cores
    quays := Tab.mapVals (fun _ q =>
      { q with svcBack := q.svcBack.filter (fun r => !r.th.isOf ctx k), svcQueue := q.svcQueue.filter (fun t => !t.isOf ctx k), svcWait := q.svcWait.filter fun p => !p.2.isOf ctx k }) s.quays
    net := s.net.filter fun p => !p.carries ctx k }
  s1.updCtx ctx fun c =>
    { c with
      ranks := Tab.mapVals (fun _ r => { r with held := r.held.filter fun p => !p.carries ctx k }) c.ranks
      save := c.save.map fun a =>
        { a with
          cores := a.cores.map fun x =>
            let y := x.core.withoutTask ctx k
            { x with core := { y with slots := y.slots.map fun z => if z.th.any (·.isOf ctx k) then {} else z } }
          services := a.services.filter fun r => !r.th.isOf ctx k
          svcWaiting := a.svcWaiting.filter fun t => !t.isOf ctx k
          late := a.late.filter fun p => !p.2.carries ctx k } }

/-- A gang's saved join state without a member, in a paired gang both cores of its pair (R141, R328, R413). -/
def Gang.without (x : Gang) (m : Nat) : Gang :=
  let mine := if x.paired then 3 * 2 ^ (m / 2 * 2) else 2 ^ m
  if bit m x.joined then
    if x.joined = mine then { paired := x.paired } else { x with joined := x.joined - mine, dissolving := true }
  else x

/-- What a saved image holds for a task of a rank removed, beside its contexts: a capture or sequence of its own, and, where it had array access, its
core's place in a gang (R328). -/
def SaveArea.withoutWork (a : SaveArea) (k : TaskId) (rank : Nat) (array : Bool) : SaveArea :=
  match a.cores.find? fun x => x.rank == rank with
  | none => a
  | some own =>
    { a with cores := a.cores.map fun x =>
        let c := if x.core.rpt.owner = some k then { x.core with rpt := {} } else x.core
        { x with core := c, gang := if array ∧ gangOf x.phys = gangOf own.phys then x.gang.without (own.phys % 8) else x.gang } }

/-- A task stopped where it runs (R297): at an instruction boundary, its windows closed, with nothing published. -/
def State.stopTask (s : State) (ctx : Nat) (k : TaskId) (core : Nat) (array : Bool) : State :=
  match s.placeOf ctx k with
  | some p =>
    let u := s.updGang (gangOf (locCore p)) fun g => { g with mma := g.mma.filter fun q => !(!p.svc && q.member == p.unit % 8 && q.slot == p.slot) }
    let r := (u.core (locCore p)).rpt
    let u1 := if r.running && r.owner == some k then u.endSequence (locCore p) else u
    let u2 := (u1.stopSlot p).emptySlot p
    if array then u2.abandonGang (if p.svc then core else p.unit) else u2
  | none =>
    let r := (s.core core).rpt
    let u := if r.running && r.owner == some k then s.endSequence core else s
    if array then u.abandonGang core else u

/-- A task ended by ABORT (R297): where it runs or, while its context is saved, in the saved image (R328). -/
def State.abortTask (s : State) (ctx : Nat) (t : TaskSpec) (l : Nat) : State :=
  let k : TaskId := { launch := l, taskid := t.taskid }
  let array := (s.launch l).rcd.array
  let s1 := if (s.ctx ctx).save.isSome then s.updCtx ctx fun c => { c with save := c.save.map fun a => a.withoutWork k t.rank array }
    else s.stopTask ctx k ((s.ctx ctx).rank t.rank).phys array
  let s2 := s1.withoutTask ctx k
  let s3 := { s2 with cores := Tab.mapVals (fun _ c => if c.rpt.owner == some k && !c.rpt.running then { c with rpt := {} } else c) s2.cores }
  ((s3.freeMonitors ctx k).taskDone l k .aborted).abortCopies ctx k

/-- The dies whose front ends a cancel of a launch has to reach: the one that holds it and, once it dispatches, those of its tasks' cores (R283). -/
def State.cancelDies (s : State) (x : Launch) : List Nat :=
  let at_ := fun (r : Nat) => dieOf ((s.ctx x.ctx).rank r).phys
  if x.phase = .dispatching then (x.die :: (x.todo ++ x.live).map (fun t => at_ t.rank) ++ x.binds.map fun b => at_ (b.1 / 2048)).eraseDups
  else [x.die]

/-- A launch counts as cancelled, and its cancel is on its way to front ends (R297). -/
def State.markCancel (s : State) (abort : Bool) (l : Nat) : State :=
  s.updLaunch l fun y =>
    { y with cancelled := true, cancels := y.cancels ++ (s.cancelDies y).map fun d => { die := d, at_ := s.cycle, abort := abort } }

/-- The cancel of a launch that a command of a cycle has sent takes effect at a die's front end (R283, R297): the tasks there that have not been dispatched
are discarded and, with ABORT, the others ended; the last die that it reaches does so for every task left. A launch not yet placed is discarded where it is
held. -/
def State.cancelAt (s : State) (die at_ l : Nat) : State :=
  match Tab.find l s.launches with
  | none => s
  | some x =>
    let mine := fun (c : CancelAt) => c.die == die && c.at_ == at_
    match x.cancels.find? mine with
    | none => s
    | some c =>
      let rest := x.cancels.filter fun k => !mine k
      let here := fun (r : Nat) => rest.isEmpty || dieOf ((s.ctx x.ctx).rank r).phys == die
      let s1 := s.updLaunch l fun y =>
        { y with
          cancels := rest, waitsOn := [], phase := .dispatching
          todo := if x.phase = .dispatching then y.todo.filter fun t => !here t.rank else []
          binds := if x.phase = .dispatching then y.binds.filter fun b => !here (b.1 / 2048) else [] }
      let gone := x.live.filter fun t => here t.rank && !s.dies.any fun d => d.2.exits.any fun e => e.task == { launch := l, taskid := t.taskid }
      if c.abort then gone.foldl (fun t k => t.abortTask x.ctx k l) s1 else s1

/-- One launch cancelled at every die at once. -/
def State.cancelOne (s : State) (abort : Bool) (l : Nat) : State :=
  match Tab.find l s.launches with
  | none => s
  | some x => (s.cancelDies x).foldl (fun t d => t.cancelAt d s.cycle l) (s.markCancel abort l)

/-- A launch and everything spawned from it, to at most `n` generations (R297). -/
def State.cancelTree : Nat → State → Nat → List Nat
  | 0, _, l => [l]
  | n + 1, s, l =>
    let kids := (s.launches.filter fun p => match p.2.src with
      | .spawn parent .. => parent == l
      | .queue .. => false).map Prod.fst
    l :: kids.flatMap fun k => State.cancelTree n s k

/-- A cancel of a context's launches under a tag as the front end of die 0 takes its command; it goes on to those of other dies. No line of descent is
longer than the number of launches (R297). -/
def State.cancelTag (s : State) (ctx tag : Nat) (abort : Bool) : State :=
  let ls := ((s.underTag ctx tag).flatMap fun l => State.cancelTree s.launches.length s l).eraseDups
  let t := ls.foldl (fun t l => t.markCancel abort l) s
  ls.foldl (fun t l => t.cancelAt 0 s.cycle l) t

/-- The cancel that has been on its way to a die for longest takes effect there, as an event of its front end (R283, R297). -/
def State.cancelDie (s : State) (die : Nat) : State :=
  match (s.launches.flatMap fun p => (p.2.cancels.filter (·.die == die)).map (·.at_)) with
  | [] => s
  | a :: t =>
    if s.feCancels die then
      let at_ := t.foldl min a
      s.launches.foldl (fun u p => u.cancelAt die at_ p.1) (s.feTakes die)
    else s

/-- The front end of a die counts the exit that has waited for longest, the first event in the order of R283. -/
def State.exitDie (s : State) (die : Nat) : State :=
  match (s.die die).exits with
  | [] => s
  | e :: t =>
    if s.feFree die then ((s.feTakes die).updDie die fun d => { d with exits := t }).countEnd e.ctx e.task e.new .exited else s

/-- Everything of a launch has ended (R298). -/
def Launch.ended (x : Launch) : Bool :=
  x.phase == .dispatching && x.todo.isEmpty && x.binds.isEmpty && x.live.isEmpty && x.children == 0 && x.pendingPlace == 0

/-- LAUNCH_COMPLETION (R298, R299). -/
def execLaunchCompletion (l : Nat) (s : State) : Out :=
  .next (match Tab.find l s.launches with
    | none => s
    | some x =>
      if x.ended then s.finishLaunch l x x.endStatus (if x.endStatus = 0 then b2n x.clamped else 0) else s)

/-- The lowest rank of a sink still running (R301). -/
def Launch.lowestSink (x : Launch) : Nat :=
  match (x.live.filter fun t => x.rcd.isSink t.stage).map (·.rank) with
  | [] => 0
  | a :: t => t.foldl min a

/-- The report of a watchdog that has run out (R301). -/
def State.reportHang (s : State) (l : Nat) : State :=
  match Tab.find l s.launches with
  | none => s
  | some x =>
    if s.hangs x then
      let s1 := s.updLaunch l fun y => { y with silent := true }
      match x.src with
      | .queue cmd _ => s1.hdmWrite (completionAt cmd.q cmd.slot)
          (({ status := 0x10, dispatched := x.dispatched, exited := x.exited, detail := BitVec.ofNat 64 (x.lowestSink % 2 ^ 24) }
            : Completion).bytes cmd.ltag)
      | .spawn .. => s1
    else s

/-- A watchdog tick (R283, R301). -/
def State.watchdogTick (s : State) (l : Nat) : State :=
  match Tab.find l s.launches with
  | none => s
  | some x => if s.canReport x then (s.feTakes x.die).reportHang l else s

/-- WATCHDOG_EXPIRY (R301). -/
def execWatchdogExpiry (l : Nat) (s : State) : Out := .next (s.watchdogTick l)

/-- The next event of the launches in the order of R283: a completion, an exit, a dispatch, a cancel, a binding, a validation, a watchdog tick. -/
def State.launchOwes (s : State) : Option Move :=
  match s.launches.find? fun p => p.2.ended with
  | some p => some (.event (.launchCompletion p.1))
  | none =>
    match s.dies.find? fun d => !d.2.exits.isEmpty && s.feFree d.1 with
    | some d => some (.exits d.1)
    | none =>
      match s.launches.find? fun p => s.canDispatch p.2 with
      | some p => some (.event (.dispatch p.1))
      | none =>
        match (s.launches.flatMap fun p => p.2.cancels.map (·.die)).find? s.feCancels with
        | some d => some (.cancels d)
        | none =>
          match s.launches.find? fun p => s.canBind p.2 with
          | some p => some (.event (.channelBinding p.1))
          | none =>
            match s.launches.find? fun p => s.canValidate p.1 p.2 with
            | some p => some (.event (.launchValidation p.1))
            | none => (s.launches.find? fun p => s.canReport p.2).map fun p => .watchdog p.1

end Sys2Proof.Machine
end

