-- ==== Sys2Proof/Machine/Queues.lean ====
section
/-!
DEFINITION. Work queues, control commands, completion-queue flushes, address translation services and the host's writes of them
(R302 to R319, R382, R383).
-/

namespace Sys2Proof.Machine

/-- The 128 bytes of a queue's slot HEAD. -/
def State.headBytes (s : State) (q : Nat) : List Byte := s.hdmRead (commandAt q (s.queue q).head) 128

/-- The command in slot HEAD is ready (R306). -/
def State.ready (s : State) (q : Nat) : Bool := (s.queue q).armed && fieldAt (s.headBytes q) 127 1 == (s.queue q).egen

/-- KIND of the command in slot HEAD (R308). -/
def State.headKind (s : State) (q : Nat) : Nat := fieldAt (s.headBytes q) 0 1

/-- The command in slot HEAD read: HEAD, TAKEN and EGEN step (R306). -/
def WorkQueue.advance (x : WorkQueue) : WorkQueue :=
  { x with
    waited := false
    head := (x.head + 1) % 16
    taken := (x.taken + 1) % 2 ^ 32
    egen := if x.head = 15 then (if x.egen = 255 then 1 else x.egen + 1) else x.egen }

/-- The command that slot HEAD holds. -/
def State.headCmd (s : State) (q : Nat) : Cmd :=
  { q := q, slot := (s.queue q).head, taken := (s.queue q).taken, ltag := fieldAt (s.headBytes q) 12 2 }

/-- Slot HEAD taken by a command of a kind: the command, its bytes and its context go to `f`. -/
def State.takeSlot (s : State) (q : Nat) (kind : Nat → Bool) (f : State → Cmd → List Byte → Nat → State) : State :=
  if s.ready q && kind (s.headKind q) then
    let t := s.hdmNote (s.queue q).ctx (commandAt q (s.queue q).head) 128
    f (t.updQueue q WorkQueue.advance) (t.headCmd q) (t.headBytes q) (t.queue q).ctx
  else s

/-- The bytes of a control command that it does not use are zero (R308); byte 127 is the generation byte. -/
def unusedZero (b : List Byte) (used : List (Nat × Nat)) : Bool :=
  (upFrom 0 127).all fun i =>
    i == 0 || i == 12 || i == 13 || used.any (fun u => decide (u.1 ≤ i) && decide (i < u.1 + u.2)) || b.getD i 0 == 0

/-- A control command completes with a status (R310). -/
def State.answer (s : State) (c : Cmd) (status : Nat) : State := s.complete c { status := status }

/-- LAUNCH_COMMAND (R308): a launch record, or a KIND that is no command. -/
def execLaunchCommand (q : Nat) (s : State) : Out :=
  .next (s.takeSlot q (fun k => !(decide (0x80 ≤ k) && decide (k ≤ 0x83))) fun t c b ctx =>
    if fieldAt b 0 1 ≤ 1 then
      let x : Launch := { ctx := ctx, src := .queue c (t.queue q).priv, rcd := recOf true b, order := t.nextLaunch }
      { t with launches := Tab.set t.nextLaunch x t.launches, nextLaunch := t.nextLaunch + 1 }
    else t.answer c 0x20)

/-- CANCEL (R297, R308), as an event of the front end of die 0, which has the host links (R1, R283). -/
def execCancel (q : Nat) (s : State) : Out :=
  .next (if s.feCancels 0 then s.takeSlot q (· == 0x80) fun t c b ctx =>
    if unusedZero b [(16, 1), (18, 2)] && decide (fieldAt b 16 1 ≤ 1) then
      ((t.feTakes 0).cancelTag ctx (fieldAt b 18 2) (fieldAt b 16 1 == 1)).answer c 0
    else (t.feTakes 0).answer c 0x20
  else s)

/-! RESOLVE (R318, R383) -/

/-- The entries of a die's translation cache for a context that do not grant everything dropped, so that a retry asks again. -/
def State.forgetDenied (s : State) (die ctx : Nat) : State :=
  s.updDie die fun x => { x with atc := x.atc.filter fun a => !(a.pasid == ctx && !(a.r && a.w)) }

/-- A participant that a RESOLVE waits for; `anew` says that it may ask for its pages again (R318, R383). -/
def State.resolving (s : State) (die ctx opid node : Nat) (cmd : Option Cmd) (anew : Bool) : State :=
  s.updDie die fun d => { d with colls := d.colls.map fun o => if o.opid = opid ∧ o.ctx = ctx then
    { o with nodes := o.nodes.map fun n => if n.node = node then { n with resolve := cmd, asked := if anew then [] else n.asked } else n } else o }

/-- Everything of a die and context that waits for the host tried again, the threads that wait for an engine's read among it (R315, R316). -/
def State.stir (s : State) (die ctx : Nat) : State := (s.wakeDie die ctx false (· == .ats)).retryAll die ctx

/-- RETRY of a parked item that has left the list (R318): the command waits for it (R383). -/
def State.retryItem (s : State) (ctx : Nat) (item : ParkedItem) (bytes : List Byte) (cmd : Option Cmd) : State :=
  match item with
  | .chunk q n serial j =>
    (s.forgetDenied (q / 16) ctx).retryChunk (q, n, serial, j) fun x => { x with parked := false, ready := true, asked := [], resolve := cmd }
  | .place p => (s.forgetDenied (dieOf ((s.ctx ctx).rank p.rank).phys) ctx).placeAgain p bytes none cmd
  | .coll die opid node =>
    ((s.forgetDenied die ctx).resolving die ctx opid node cmd true).collTry die ctx opid node
  | .read die who =>
    ((s.forgetDenied die ctx).updCtx ctx fun c =>
      { c with parked := c.parked ++ [{ n := none, item := .read die who, bytes := bytes, pri := none, again := true, cmd := cmd }] }).stir die ctx
  | .none => s

/-- FAIL of a parked item (R269, R318). -/
def State.failItem (s : State) (ctx : Nat) (item : ParkedItem) (bytes : List Byte) : State :=
  match item with
  | .chunk q n serial _ =>
    (match ((s.quay q).chan n).copies.find? fun c => c.kick.serial == serial with
      | some c => (s.stopCopy false q n c (1, fieldAt bytes 1 1, BitVec.ofNat 64 (fieldAt bytes 8 8))).settleLighter q n
      | none => s)
  | .place p => s.dropPacket p false
  | .coll die opid node =>
    let s1 := s.updDie die fun d => { d with colls := d.colls.map fun o => if o.opid = opid ∧ o.ctx = ctx then
      { o with nodes := o.nodes.map fun n => if n.node = node then { n with finished := true } else n } else o }
    (match (s1.die die).colls.find? fun o => o.opid == opid && o.ctx == ctx with
      | some o => s1.dropColl o
      | none => s1)
  | .read die who => (s.updDie die fun d => { d with refused := d.refused ++ [(ctx, who)] }).stir die ctx
  | .none => s

/-- RESOLVE of a record (R318). -/
def State.resolve (s : State) (c : Cmd) (ctx n : Nat) (fail : Bool) : State :=
  match (s.ctx ctx).parked.find? fun p => p.n == some n with
  | none => s.answer c 0x21
  | some p =>
    let s1 := s.updCtx ctx fun x => { x with parked := x.parked.filter fun y => y.n != some n }
    if fail then (s1.failItem ctx p.item p.bytes).answer c 0 else s1.retryItem ctx p.item p.bytes (some c)

/-- RESOLVE (R308, R318). -/
def execResolve (q : Nat) (s : State) : Out :=
  .next (s.takeSlot q (· == 0x81) fun t c b ctx =>
    if unusedZero b [(16, 8), (24, 1)] && decide (fieldAt b 24 1 ≤ 1) then t.resolve c ctx (fieldAt b 16 8) (fieldAt b 24 1 == 1)
    else t.answer c 0x20)

/-- RPC_REPLY (R308, R319): the reply goes to its rank as a packet with the generation that the command names. -/
def execRpcReply (q : Nat) (s : State) : Out :=
  .next (s.takeSlot q (· == 0x82) fun t c b ctx =>
    let len := fieldAt b 32 1
    let rank := fieldAt b 16 4
    if unusedZero b [(16, 17), (40, len)] && decide (rank < 2 ^ 24) && decide (fieldAt b 20 2 < 2048) && decide (len ≤ 80) && len % 8 == 0 then
      let phys := ((t.ctx ctx).rank rank).phys
      t.put { src := 16384, origin := rank, ctx := ctx, gen := fieldAt b 22 2, colour := t.colour ctx (.frontEnd 0), rank := rank, marker := none
              kind := .place (fieldAt b 20 2) (fieldAt b 24 8) ((b.drop 40).take len) [] (if dieOf phys = 0 then 1 else 2) t.nextLaunch (some c) }
    else t.answer c 0x20)

/-! INVAL (R314) -/

/-- A cached translation that an INVAL removes. -/
def TlbEntry.hit (e : TlbEntry) (ctx lo len : Nat) : Bool :=
  (e.ctx == ctx || e.pte.global) && decide (e.pte.va < lo + len) && decide (lo < e.pte.va + 2 ^ e.pte.lgs)

/-- The cores that run a context (R314). -/
def State.running (s : State) (ctx : Nat) : List Nat :=
  let ranks := ((s.ctx ctx).ranks.filter fun p => p.2.state == 1).map fun p => p.2.phys
  let svc := (s.quays.filter fun p => p.2.svc.any (fun x => x.slot.th.any (·.ctx == ctx)) || p.2.svcQueue.any (·.ctx == ctx)).map fun p => quayCore p.1
  (ranks ++ svc).eraseDups

/-- INVAL's effect (R314). -/
def State.invalidate (s : State) (ctx lo len : Nat) : State :=
  let keep := fun (l : List TlbEntry) => l.filter fun e => !e.hit ctx lo len
  let s1 := { s with
    cores := Tab.mapVals (fun _ c => { c with tlb := keep c.tlb }) s.cores
    quays := Tab.mapVals (fun _ q => { q with l2 := keep q.l2 }) s.quays }
  (s1.running ctx).foldl State.implicitSys s1

/-- INVAL (R308, R310, R314). -/
def execInval (q : Nat) (s : State) : Out :=
  .next (s.takeSlot q (· == 0x83) fun t c b ctx =>
    let va := fieldAt b 16 8
    let lgs := fieldAt b 24 1
    if !(t.queue q).priv then t.answer c 0x23
    else if unusedZero b [(16, 9)] && decide (16 ≤ lgs) && decide (lgs ≤ 56) && va % 2 ^ lgs == 0 then (t.invalidate ctx va (2 ^ lgs)).answer c 0
    else t.answer c 0x20)

/-! Flushes (R311, R312) -/

/-- The 16 bytes of a completion-queue entry (R311). -/
def CqEntry.bytes (e : CqEntry) (q : Nat) (phase : Bool) : List Byte :=
  toBytes 2 (q % 2 ^ 15 + b2n phase * 2 ^ 15) ++ toBytes 1 e.slot ++ toBytes 1 e.status ++ toBytes 2 e.ltag ++ toBytes 1 e.code ++ toBytes 1 0
    ++ toBytes 4 e.taken ++ toBytes 4 0

/-- A command of a queue is waiting or in flight: a launch, a reply under way or kept for its rank, or a RESOLVE (R312). -/
def State.queueBusy (s : State) (q : Nat) : Bool :=
  let mine := fun (c : Option Cmd) => c.any (·.q == q)
  let reply := fun (p : Packet) => match p.kind with
    | .place _ _ _ _ _ _ c => mine c
    | _ => false
  s.launches.any (fun p => match p.2.src with
    | .queue c _ => c.q == q
    | .spawn .. => false)
  || s.net.any reply
  || s.ctxs.any (fun p => (p.2.ranks.any fun r => r.2.held.any reply) || p.2.parked.any fun x => mine x.cmd || match x.item with
    | .place p => reply p
    | _ => false)
  || s.quays.any (fun p => p.2.chans.any fun c => c.2.copies.any fun k => k.flight.any fun x => mine x.resolve)
  || s.dies.any (fun p => p.2.colls.any fun o => o.nodes.any fun n => mine n.resolve)

/-- Entries of a queue that fit (R312). -/
def WorkQueue.room (x : WorkQueue) : Nat := 2 ^ x.lgc - (x.cqtail + 2 ^ 32 - x.cqhead) % 2 ^ 32

/-- A queue has to flush (R312). -/
def State.flushDue (s : State) (q : Nat) : Bool :=
  let x := s.queue q
  match x.held with
  | [] => false
  | e :: _ =>
    x.lgc != 0 && decide (0 < x.room)
      && (decide (x.cnt ≤ x.held.length) || decide (e.at_ + x.tmr * microUnits ≤ s.time) || (!s.ready q && !s.queueBusy q))

/-- Entries written one after another (R311). -/
def State.flushEntries (s : State) (q : Nat) : List CqEntry → State
  | [] => s
  | e :: t =>
    let x := s.queue q
    let s1 := s.homeWrite noContext false (hostHome (x.cqbase + 16 * (x.cqtail % 2 ^ x.lgc))) (e.bytes q x.phase) []
    let tail := (x.cqtail + 1) % 2 ^ 32
    State.flushEntries (s1.updQueue q fun y => { y with cqtail := tail, phase := if tail % 2 ^ x.lgc = 0 then !y.phase else y.phase }) q t

/-- A flush (R311, R312). -/
def State.flush (s : State) (q : Nat) : State :=
  if s.flushDue q then
    let x := s.queue q
    let s1 := s.flushEntries q (x.held.take x.room)
    { s1.updQueue q (fun y => { y with held := y.held.drop x.room }) with msix := x.vec :: s1.msix }
  else s

/-- COMPLETION_QUEUE_FLUSH (R312). -/
def execCompletionQueueFlush (q : Nat) (s : State) : Out := .next (s.flush q)

/-! Host writes (R304, R305, R317) -/

/-- A write of QCTL (R305). -/
def WorkQueue.setCtl (x : WorkQueue) (v : Nat) : WorkQueue :=
  let y := { x with ctx := if x.armed then x.ctx else bits 47 36 v, priv := bit 33 v }
  if bit 32 v then
    if x.armed then y else { y with armed := true, head := 0, taken := 0, egen := 1, cqtail := 0, phase := true }
  else { y with armed := false }

/-- A write of QCQ (R305). -/
def WorkQueue.setCq (x : WorkQueue) (v : Nat) : WorkQueue :=
  let g := bits 11 8 v
  { x with cqbase := v / 4096 * 4096 % 2 ^ 64, lgc := if g = 0 ∨ (4 ≤ g ∧ g ≤ 12) then g else x.lgc }

/-- A write of QINT (R305). -/
def WorkQueue.setInt (x : WorkQueue) (v : Nat) : WorkQueue :=
  { x with
    tmr := if bits 41 32 v = 0 then 8 else bits 41 32 v
    cnt := if bits 31 24 v = 0 then 1 else bits 31 24 v
    vec := bits 10 0 v }

/-- QCTL_WRITE (R305). -/
def execQctlWrite (q : Nat) (v : Word) (s : State) : Out := .next (s.updQueue q fun x => x.setCtl v.toNat)

/-- QCQ_WRITE (R305). -/
def execQcqWrite (q : Nat) (v : Word) (s : State) : Out := .next (s.updQueue q fun x => x.setCq v.toNat)

/-- QINT_WRITE (R305). -/
def execQintWrite (q : Nat) (v : Word) (s : State) : Out := .next (s.updQueue q fun x => x.setInt v.toNat)

/-- QCQH_WRITE (R312). -/
def execQcqhWrite (q : Nat) (v : Word) (s : State) : Out := .next (s.updQueue q fun x => { x with cqhead := v.toNat % 2 ^ 32 })

/-- FQHEAD_WRITE (R317). -/
def execFqheadWrite (c : Nat) (v : Word) (s : State) : Out :=
  .next (State.fqDrain (s.ctx c).parked.length (s.updCtx c fun x => { x with fqhead := v }) c)

/-- A write of host software to HDM (R304): bytes of the reserved part of the control region, and beyond the HBM, are dropped. -/
def State.hostWrite (s : State) (off : Nat) (data : List Byte) : State :=
  s.homePatch noContext false off ((data.zip (upFrom off data.length)).map fun p =>
    if (0x05000000 ≤ p.2 ∧ p.2 < 0x10000000) ∨ 8 * dieHbm ≤ p.2 then none else some (p.1, false))

/-- What host software reads from HDM (R304): the reserved part of the control region, and what lies beyond the HBM, read zero. A package that a fatal error
has stopped accepts no request (R412). -/
def State.hostRead (s : State) (off n : Nat) : Option (List Byte) :=
  if s.fatal then none else some <| (upFrom off n).map fun a => if (0x05000000 ≤ a ∧ a < 0x10000000) ∨ 8 * dieHbm ≤ a then 0 else (s.hdmRead a 1).headD 0

/-- A leaf's page lies in the HBM of the package, or on the host: another one names no memory (R1, R167; log entry 37). -/
def leafReal (p : Pte) : Bool := p.cls == .host || inHdm p.frame (2 ^ p.lgs)

/-- HOST_MEMORY_WRITE (R304, R314). A leaf that names no memory leaves its addresses unmapped. -/
def execHostMemoryWrite (w : HostWrite) (s : State) : Out :=
  .next (match w with
    | .bytes off data => s.hostWrite off data
    | .leaf ctx p => s.updCtx ctx fun c => 
        let kept := c.ptes.filter fun x => !(decide (x.va < p.va + 2 ^ p.lgs) && decide (p.va < x.va + 2 ^ x.lgs))
        { c with ptes := if leafReal p then p :: kept else kept })

/-! ATS and PRI (R315, R316, R382) -/

/-- ATS_TRANSLATION_COMPLETION (R315): the answer to a request in flight for a host page, with the size of the range that the host returns for
it. -/
def execAtsTranslationCompletion (die pasid : Nat) (range : AtsRange) (r w u : Bool) (s : State) : Out :=
  let k := range.iova / 4096 * 4096
  let size := range.size
  .next (if (s.die die).pendAts.contains (pasid, k) then
    (s.updDie die fun d =>
      { d with
        pendAts := d.pendAts.erase (pasid, k)
        atc := ({ pasid := pasid, iova := k / size * size, size := size, r := r, w := w, u := u }
                 :: d.atc.filter fun a => !(a.pasid == pasid && decide (a.iova < k / size * size + size) && decide (k / size * size < a.iova + a.size))).take 1024 }).stir
      die pasid
  else s)

/-- ATS_INVALIDATION_REQUEST (R315): every die removes its matching entries. -/
def execAtsInvalidationRequest (pasid iova size : Nat) (s : State) : Out :=
  .next { s with dies := Tab.mapVals (fun _ d =>
    { d with atc := d.atc.filter fun a => !(a.pasid == pasid && decide (a.iova < iova + size) && decide (iova < a.iova + a.size)) }) s.dies }

/-- A parked item that waits for a page response (R316). -/
def Parked.awaits (p : Parked) (die iova : Nat) : Bool := p.pri == some (die, iova) && !p.again

/-- A page response for a context's items, in the order in which they parked (R316, R382). -/
def State.pageResponse (s : State) (die ctx iova : Nat) (ok : Bool) : State :=
  let items := (s.ctx ctx).parked.filter fun p => p.awaits die iova
  let s1 := s.updCtx ctx fun c => { c with parked := c.parked.filter fun p => !p.awaits die iova }
  if ok then
    items.foldl (fun t p => match p.item with
      | .chunk q n serial j => t.retryChunk (q, n, serial, j) fun x => { x with parked := false, ready := true, resolve := p.cmd }
      | .place x => t.placeAgain x p.bytes (some iova) p.cmd
      | .coll d opid node => (t.resolving d ctx opid node p.cmd false).collTry d ctx opid node
      | .read d _ => (t.updCtx ctx fun c => { c with parked := c.parked ++ [{ p with again := true }] }).stir d ctx
      | .none => t) (s1.forgetAts die ctx iova)
  else items.foldl (fun t p => t.park ctx p.item p.bytes p.cmd) s1

/-- PRI_PAGE_RESPONSE (R316). -/
def execPriPageResponse (die pasid iova : Nat) (ans : PriAnswer) (s : State) : Out :=
  let k := iova / 4096 * 4096
  let mine := fun (p : PageReq) => p.die == die && p.pasid == pasid && p.iova == k
  .next (if s.pri.any mine then { s with pri := s.pri.filter fun p => !mine p }.pageResponse die pasid k (ans == PriAnswer.success)
  else s)

/-- The next event of the work queues: a command that is ready, then a flush that is due. -/
def State.queueOwes (s : State) : Option Instr :=
  match s.queues.find? fun p => s.ready p.1 with
  | some p =>
    let k := s.headKind p.1
    some (if k = 0x80 then .cancel p.1 else if k = 0x81 then .resolve p.1 else if k = 0x82 then .rpcReply p.1 else if k = 0x83 then .inval p.1
      else .launchCommand p.1)
  | none => (s.queues.find? fun p => s.flushDue p.1).map fun p => .completionQueueFlush p.1

end Sys2Proof.Machine
end

