-- ==== Sys2Proof/Machine/Contexts.lean ====
section
/-!
DEFINITION. Contexts: creation, pre-emption, resumption, teardown, loads, relocation, slate grants (R200, R201, R320 to R336).
-/

namespace Sys2Proof.Machine

/-- The descriptor in 256 bytes (R321). -/
def descOf (b : List Byte) : Desc :=
  let f := fieldAt b
  { cadom := f 2 2, nranks := f 4 4, ranktab := f 8 8, ptbase := f 16 8, stub := f 24 8, ttbase := f 32 8, ttcount := f 40 4, fqsize := f 44 4
    fqbase := f 48 8, savebase := f 56 8, savesize := f 64 8, image := f 72 8, rpcring := f 80 8, svrank := f 88 4 % 2 ^ 24, svberth := f 92 2 }

/-- The limits of a descriptor (R321). -/
def descOk (b : List Byte) : Bool :=
  let d := descOf b
  let pow2 := (upFrom 4 13).any fun k => d.fqsize == 2 ^ k
  decide (1 ≤ d.nranks) && decide (d.nranks ≤ 4096) && d.ranktab % 8 == 0 && d.ptbase % 65536 == 0 && d.stub % 4 == 0 && d.ttbase % 64 == 0
    && decide (d.ttcount ≤ 65536) && pow2 && d.fqbase % 32 == 0 && d.savebase % 65536 == 0 && fieldAt b 91 1 == 0 && decide (d.svberth < 2048)
    && (b.drop 94).all (· == 0)

/-- A rank-table entry from its word (R200). -/
def rankOfWord (n : Nat) : RankEntry := { state := bits 31 30 n, immig := bit 29 n, pkg := bits 27 16 n, phys := bits 11 0 n }

/-- The word of a rank-table entry (R200). -/
def RankEntry.word (e : RankEntry) : Nat := e.state % 4 * 2 ^ 30 + b2n e.immig * 2 ^ 29 + e.pkg % 4096 * 2 ^ 16 + e.phys % 4096

/-- The rank table as memory holds it (R200, R321). -/
def State.readRanks (s : State) (d : Desc) : Tab RankEntry :=
  (upFrom 0 d.nranks).map fun i => (i, rankOfWord (ofBytes (s.hdmRead (d.ranktab + 8 * i) 8)))

/-- The state of a context's rank entries set, in the front end's table and in memory (R200). -/
def State.setRanks (s : State) (c : Nat) (f : RankEntry → RankEntry) : State :=
  let s1 := s.updCtx c fun x => { x with ranks := Tab.mapVals (fun _ e => if e.state = 0 then e else f e) x.ranks }
  (s1.ctx c).ranks.foldl (fun t p => t.hdmWrite ((s1.ctx c).desc.ranktab + 8 * p.1) (toBytes 8 p.2.word)) s1

/-- The cores of a context's ranks marked as its own. All berths of a core that is given to it are PLAIN and zero (R210). -/
def State.ownCores (s : State) (c : Nat) : State :=
  (s.ctx c).cores.foldl (fun t p => t.updCore p.2 fun k =>
    if k.owner = some c then k else { k with owner := some c, berths := [] }) s

/-- A rank table gives a context a core that is degraded and that it does not have (R419). -/
def State.givesDegraded (s : State) (c : Nat) (ranks : Tab RankEntry) : Bool :=
  ranks.any fun r => r.2.state != 0 && (s.core r.2.phys).degraded && (s.core r.2.phys).owner != some c

/-- ERR written and one MSI-X message sent as a request ends (R324). -/
def State.ctxAnswer (s : State) (c err : Nat) : State :=
  let s1 := s.updCtx c fun x => { x with err := err }
  { s1 with msix := (s.ctx c).fqvec :: s1.msix }

/-- A request in a state that does not accept it (R324). -/
def State.ctxRefuse (s : State) (c err : Nat) : State := s.updCtx c fun x => { x with err := err }

/-- Creation (R320, R321): the descriptor is read, its GEN written, and the rank table read. One that names a degraded core leaves the context FREE with
ERR PLACEMENT (R419; DESIGN CHOICE, log entry 65). -/
def State.createCtx (s : State) (c : Nat) : State :=
  let a := (s.ctx c).ctxd.toNat / 256 * 256
  let s := s.hdmNote c a 256
  let b := s.hdmRead a 256
  if descOk b then
    let d := descOf b
    let s := s.hdmNote c d.ranktab (8 * d.nranks)
    if s.givesDegraded c (s.readRanks d) then s.ctxRefuse c 5
    else
    let g := ((s.ctx c).gen + 1) % 65536
    let s1 := (s.hdmWrite a (toBytes 2 g)).updCtx c fun x =>
      { x with ctxd := x.ctxd ||| 1#64, state := 1, err := 0, gen := g, desc := d, ranks := s.readRanks d, parked := [], fqtail := 0, fqhead := 0
               save := none, stopped := false, dueSave := none, stir := false }
    (s1.staleTraffic c).ownCores c
  else s.ctxRefuse c 4

/-- CONTEXT_CREATE (R320): a write of CTXD. -/
def execContextCreate (c : Nat) (v : Word) (s : State) : Out :=
  .next (if (s.ctx c).state = 0 then
    let s1 := s.updCtx c fun x => { x with ctxd := v &&& ~~~0xFF#64 }
    if v.getLsbD 0 then s1.createCtx c else s1
  else s)

/-- The descriptor read anew, at a resumption or a load (R322); one that breaks a limit leaves the one before (log entry 62). -/
def State.rereadDesc (s : State) (c : Nat) : State :=
  let s := s.hdmNote c ((s.ctx c).ctxd.toNat / 256 * 256) 256
  let b := s.hdmRead ((s.ctx c).ctxd.toNat / 256 * 256) 256
  if descOk b then s.updCtx c fun x => { x with desc := descOf b } else s

/-! Pre-emption (R325, R326) -/

/-- A core stopped, published at SYS scope and refreshed, which PHASECNT counts `n` times (R239, R326 steps 3 and 4). A paired core ends its
interval first (R415). -/
def State.quiesce (s : State) (core n : Nat) : State :=
  let s1 := s.wakeCore core
  let s2 := if s1.intervalOpen core then s1.endPair core else s1
  (((s2.stopCore core).publishNow core 3).refresh core).countPhase core n

/-- Contexts that stand in a core's interface go back to the network, to be held (R326 step 2). -/
def State.returnNi (s : State) (core : Nat) : State :=
  let ps := (s.core core).ni
  let s1 := s.updCore core fun c => { c with ni := [] }
  { s1 with net := ps ++ s1.net }

/-- The quay cores that run handlers of a context and are of none of its ranks. -/
def State.servingCores (s : State) (c : Nat) : List Nat :=
  ((s.quays.filter fun q => q.2.svc.any fun x => x.slot.th.any (·.ctx == c)).map fun q => quayCore q.1).filter fun p =>
    !(s.ctx c).cores.any fun x => x.2 == p

/-- The cores and service slots of a context stopped: MMAs are cut at a row, the threads stand at instruction boundaries, and captures are
discarded. Each core publishes and refreshes, those that only serve handlers of the context with them (R239, R273, R326 steps 3 and 4). -/
def State.haltCtx (s : State) (c : Nat) : State :=
  let cores := (s.ctx c).cores
  let s1 := cores.foldl (fun t p => if t.intervalOpen p.2 then t.endPair p.2 else t) s
  let s2 := cores.foldl (fun t p => t.cutMma p.2) s1
  let s3 := (s2.quays.map Prod.fst).foldl (fun t q => t.stopServices q c) s2
  let s4 := cores.foldl (fun t p => ((t.quiesce p.2 1).updCore p.2 Core.dropCapture).returnNi p.2) s3
  (s4.servingCores c).foldl (fun t p => ((t.publishNow p 3).refresh p).countPhase p 1) s4

/-- What buffers still hold for scratchpads of cores, carried there: the writes of engines that have published them (R233, R241). -/
def State.settleSpads (s : State) (cores : List Nat) : State :=
  let mine := fun (m : MergeLine) => homeKind m.line == Home.spad && cores.contains (spadCore m.line)
  let s1 := s.quays.foldl (fun t q => (q.2.merge.filter mine).foldl (fun u m => u.deliver q.1 3 m.line []) t) s
  let s2 := s1.dies.foldl (fun t d => (d.2.merge.filter mine).foldl (fun u m => u.deliverDie d.1 3 m.line []) t) s1
  (s2.pkgMerge.filter mine).foldl (fun t m => t.drainPkg m.line) s2

/-- Packets that were held for a rank forwarded in arrival order, ahead of those sent to it later (R201, R330 steps 6 and 8). -/
def State.forward (s : State) (ps : List Packet) : State :=
  { s with net := (ps.map fun p => { p with fwd := some s.cycle, gen := (s.ctx p.ctx).gen }) ++ s.net }

/-- The chunks and participants that waited for a context's ranks tried again. -/
def State.stirred (s : State) (c : Nat) : State := (upFrom 0 8).foldl (fun t d => (t.wakeDie d c false (· == .request)).retryAll d c) s

/-! Relocation (R201, R419) -/

/-- A home address in a scratchpad that has moved. -/
def movedHome (l : Moved) (h : Nat) : Nat :=
  if homeKind h = Home.spad then spadHome (movedTo l (spadCore h)) ((h - 2 ^ 48) % 2 ^ 18) else h

/-- A place in a scratchpad that has moved. -/
def Place.moved (l : Moved) : Place → Place
  | .remote h r => .remote (movedHome l h) r
  | p => p

/-- An operation that buffers hold for a scratchpad that has moved. -/
def QEntry.moved (l : Moved) (e : QEntry) : QEntry := { e with piece := movedHome l e.piece }

/-- The same for a line of a merge buffer. -/
def MergeLine.moved (l : Moved) (m : MergeLine) : MergeLine := { line := movedHome l m.line, ops := m.ops.map (QEntry.moved l) }

/-- Stores that cores and merge buffers hold for scratchpads that have moved, and pinned lines of them, name the new ones (R201). -/
def State.moveHomes (s : State) (l : Moved) : State :=
  let move := fun (c : Core) =>
    { c with
        pq := c.pq.map (QEntry.moved l)
        pins := c.pins.map fun p => { p with home := movedHome l p.home }
        slots := c.slots.map fun x => { x with wins := x.wins.map fun w =>
          { w with late := w.late.map fun (y : LateStore) => { y with place := y.place.moved l } } } }
  { s with
    cores := Tab.mapVals (fun _ c => move c) s.cores
    quays := Tab.mapVals (fun _ q => { q with merge := q.merge.map (MergeLine.moved l) }) s.quays
    dies := Tab.mapVals (fun _ d => { d with merge := d.merge.map (MergeLine.moved l) }) s.dies
    pkgMerge := s.pkgMerge.map (MergeLine.moved l) }

/-- RELOCATION_AROUND_DEFECTIVE_CORE (R201): the rank is IN_TRANSIT while its core's state goes to a free core, which the entry names once
the move is complete. A core of a joined or paired gang moves only with its gang, by a save. -/
def State.relocate (s : State) (c rank phys : Nat) : State :=
  let e := (s.ctx c).rank rank
  let l : Moved := [(e.phys, phys)]
  if e.state = 1 ∧ (s.ctx c).state = 1 ∧ phys < 4096 ∧ (s.core phys).owner.isNone ∧ !(s.core phys).degraded ∧ (s.gang (gangOf e.phys)).joined = 0
      ∧ (s.gang (gangOf e.phys)).arrived = 0 ∧ !(s.gang (gangOf e.phys)).paired ∧ !(s.gang (gangOf phys)).paired then
    let s1 := (((s.quiesce e.phys 0).returnNi e.phys).settleSpads [e.phys]).updCtx c fun x => x.updRank rank fun y => { y with state := 2, moving := some phys }
    let x := s1.coreRecord (· == c) c rank e.phys
    let s2 := (s1.freeCore c e.phys).restoreCore x phys
    let s3 := ((s2.updCore phys fun k => { k with owner := some c }).moveKicks c l).moveAgents c l
    s3.hdmWrite ((s3.ctx c).desc.ranktab + 8 * rank) (toBytes 8 ((s3.ctx c).rank rank).word)
  else s

/-- RELOCATION_AROUND_DEFECTIVE_CORE. -/
def execRelocationAroundDefectiveCore (ctx rank phys : Nat) (s : State) : Out := .next (s.relocate ctx rank phys)

/-- The end of a relocation (R201): the entry names the core that has taken the state, and held packets go before later ones. -/
def State.relocated (s : State) (c rank phys : Nat) : State :=
  let e := (s.ctx c).rank rank
  if e.state = 2 ∧ (s.ctx c).state = 1 ∧ e.moving = some phys then
    let s1 := (s.moveHomes [(e.phys, phys)]).updCtx c fun x => x.updRank rank fun y => { y with state := 1, phys := phys, held := [], moving := none }
    let s2 := s1.forward e.held
    (s2.hdmWrite ((s2.ctx c).desc.ranktab + 8 * rank) (toBytes 8 ((s2.ctx c).rank rank).word)).stirred c
  else s

/-- RANK_RELOCATION_COMPLETE (R201). -/
def execRankRelocationComplete (ctx rank phys : Nat) (s : State) : Out := .next (s.relocated ctx rank phys)

/-! The save (R325, R326) -/

/-- The moves of a context's ranks that are in progress come to their end (R201). -/
def State.endMoves (s : State) (c : Nat) : State :=
  (s.ctx c).ranks.foldl (fun t r => match r.2.moving with
    | some p => t.relocated c r.1 p
    | none => t) s

/-- PREEMPT begins (R326 steps 1 to 4): dispatch and watchdogs stop, every rank is IN_TRANSIT, the threads stop. -/
def State.startSave (s : State) (c err : Nat) : State :=
  let s1 := ((s.endMoves c).eachLaunch c fun x => x.stopWdog s.time).setRanks c fun e => { e with state := 2 }
  (s1.updCtx c fun x => { x with state := 2, reqErr := err }).haltCtx c

/-- PREEMPT (R324 to R326); `err` is the ERR that the save leaves. One that an error has asked for leaves that error's (R417, R422). -/
def State.preemptCtx (s : State) (c err : Nat) : State :=
  let x := s.ctx c
  if x.state ≠ 1 then s.ctxRefuse c 2
  else
    let t := s.updCtx c fun y => { y with dueSave := none }
    if x.desc.savesize < saveNeeds x.desc.nranks then t.ctxAnswer c 7 else t.startSave c (x.dueSave.getD err)

/-- The ACTIVE contexts that an error causes to be saved begin their saves (R417, R422). -/
def State.preemptDue (s : State) : State :=
  s.ctxs.foldl (fun t c => if (t.ctx c.1).state = 1 ∧ (t.ctx c.1).dueSave.isSome then t.preemptCtx c.1 0 else t) s

/-- PREEMPT (R326). -/
def execPreempt (c : Nat) (s : State) : Out := .next (s.preemptCtx c 0)

/-- A chunk of a context is in flight: it neither has landed nor is parked (R326 step 5). -/
def State.chunksFly (s : State) (c : Nat) : Bool :=
  s.quays.any fun q => q.2.chans.any fun h => h.2.copies.any fun k => k.kick.ctx == c && k.flight.any fun x => !x.parked

/-- What came for the ranks of a context while its save was in progress, as R327 has it for SAVED ranks, in arrival order (R202, R215). -/
def State.holdAgain (s : State) (c : Nat) : State :=
  let ps := (s.ctx c).ranks.flatMap fun r => r.2.held
  ps.foldl State.hold (s.updCtx c fun x => { x with ranks := Tab.mapVals (fun _ r => { r with held := [] }) x.ranks })

/-- PREEMPT ends once the chunks in flight have landed (R326 steps 5 to 7): the state goes to the save area, monitors and cores are freed. -/
def State.finishSave (s : State) (c : Nat) : State :=
  let cores := (s.ctx c).cores
  let s0 := s.settleSpads (cores.map Prod.snd)
  let own := fun (p : Nat) => cores.any fun x => x.2 == p
  let allQ := s0.quays.map Prod.fst
  let area : SaveArea :=
    { cores := cores.map fun p => s0.coreRecord (· == c) c p.1 p.2, services := allQ.flatMap fun q => s0.serviceRecords own q c
      svcWaiting := allQ.flatMap fun q => (s0.quay q).waitingOf c, freed := s0.monitorsOf c }
  let s1 := (s0.dropMonitors c).dropServices c
  let s2 := ((cores.map fun p => gangOf p.2).eraseDups).foldl (fun t g => t.freeGang c g) s1
  let s3 := (cores.foldl (fun t p => t.freeCore c p.2) s2).writeArea c area
  let s4 := (s3.updCtx c fun x => { x with save := some area, state := 3 }).setRanks c fun e => { e with state := 3 }
  (s4.holdAgain c).ctxAnswer c (s.ctx c).reqErr

/-! Resumption (R329, R330) -/

/-- A packet carries a context with array access. -/
def Packet.array (p : Packet) : Bool :=
  match p.kind with
  | .context _ t => t.array
  | _ => false

/-- A rank that must stay with those of its gang: it is joined or in a join, its gang is paired, or it holds array-access state, in its core or
in a context that is kept for it (R329). -/
def SaveArea.bound (a : SaveArea) (x : CoreRecord) (index : Nat) : Bool :=
  let mine := fun (th : Thread) => th.array
  bit index x.gang.joined || bit index x.gang.arrived || x.gang.paired || x.core.arr != {} || x.core.threads.any mine
    || a.services.any (fun r => r.th.array && r.th.retRank == x.rank) || a.svcWaiting.any (fun t => t.array && t.retRank == x.rank) || a.late.any fun p => p.1 == x.rank && p.2.array

/-- The placement of a resumption is legal (R329, R419): every saved rank has a core of its own, free and not degraded, and ranks bound together
in one gang come together in one gang, each on its index; a paired gang keeps its indices. The gang that a join comes to has no other join (DESIGN CHOICE,
log entry 65). -/
def State.placementOk (s : State) (new : Tab RankEntry) (a : SaveArea) : Bool :=
  let ps := (new.filter fun p => p.2.state != 0).map fun p => p.2.phys
  let at_ := fun (x : CoreRecord) => (Tab.get {} x.rank new).phys
  let held := fun (x : CoreRecord) => a.bound x (x.phys % 8)
  let keeps := fun (x : CoreRecord) => at_ x % 8 == x.phys % 8
  decide (ps.eraseDups.length = ps.length) && ps.all (fun p => decide (p < 4096) && (s.core p).owner.isNone && !(s.core p).degraded)
    && a.cores.all (fun x => (Tab.get {} x.rank new).state != 0 && (!x.gang.paired || keeps x))
    && a.cores.all (fun x => (x.gang.joined == 0 && x.gang.arrived == 0) || ((s.gang (gangOf (at_ x))).joined == 0 && (s.gang (gangOf (at_ x))).arrived == 0))
    && a.cores.all fun x => a.cores.all fun y =>
      !(x.rank != y.rank && held x && held y && gangOf x.phys == gangOf y.phys)
        || (gangOf (at_ x) == gangOf (at_ y) && keeps x && keeps y)

/-- A context kept for a SAVED rank released to its core: it joins the run queue behind the saved ones (R199, R202, R330 step 4). A launch's
first context finds its registers and array reset (R291), and a trapped one goes to its service slots (R103). -/
def State.release (s : State) (p : Packet) : State :=
  let core := ((s.ctx p.ctx).rank p.rank).phys
  match p.kind with
  | .context k th =>
    if k = 2 then s.resendTrap p.colour th
    else
      let r := if k = 0 then s.welcome core th else (s, th)
      r.1.updCore core fun c => { c with rel := c.rel ++ [r.2.pairedAs (s.isPaired core)] }
  | _ => s

/-- RESUME ends (R330 steps 2 to 8). -/
def State.finishResume (s : State) (c : Nat) (a : SaveArea) : State :=
  let base := (s.ctx c).desc.savebase
  let s1 := a.cores.foldl (fun t x =>
    let p := ((s.ctx c).rank x.rank).phys
    (t.restoreCore (s.loadBytes base a x) p).updCore p fun k => { k with owner := some c }) s
  let s2 := a.late.foldl (fun t p => t.release p.2) s1
  let s3 := a.services.foldl State.putService s2
  let s4 := (s3.updCtx c fun x => { x with save := none, state := 1 }).setRanks c fun e => { e with state := 1 }
  let quay := fun (th : Thread) => ((a.cores.find? fun x => x.rank == th.retRank).map fun x => quayOf x.phys).getD 0
  let s5 := (s.waitingFrom base a).foldl (fun t th => t.resendTrap (t.resentColour c (quay th)) th) s4
  let held := (s5.ctx c).ranks.flatMap fun p => p.2.held
  let s6 := (s5.updCtx c fun x => { x with ranks := Tab.mapVals (fun _ e => { e with held := [] }) x.ranks }).forward held
  ((s6.incEach c a.freed).eachLaunch c fun x => x.startWdog s.time).ctxAnswer c 0

/-- RESUME (R322, R324, R329, R330 step 1): the descriptor and the rank table are read, the placement is checked, and every entry is
IN_TRANSIT to the core that it names. -/
def State.resumeCtx (s : State) (c : Nat) : State :=
  match (s.ctx c).state == 3, (s.ctx c).save with
  | true, some a =>
    let s0 := s.rereadDesc c
    let s1 := s0.hdmNote c (s0.ctx c).desc.ranktab (8 * (s0.ctx c).desc.nranks)
    let old := (s.ctx c).ranks
    let new := s1.readRanks (s1.ctx c).desc
    if s.placementOk new a then
      let moved := a.cores.map fun x => (x.phys, (Tab.get {} x.rank new).phys)
      let s2 := s1.updCtx c fun x =>
        { x with state := 4, ranks := Tab.mapVals (fun r e => { e with held := (Tab.get {} r old).held }) new }
      (((s2.setRanks c fun e => { e with state := 2 }).ownCores c).moveKicks c moved).moveAgents c moved
    else s1.ctxAnswer c 5
  | _, _ => s.ctxRefuse c 2

/-- RESUME (R330). -/
def execResumeI (c : Nat) (s : State) : Out := .next (s.resumeCtx c)

/-! Teardown (R331) -/

/-- TEARDOWN begins (R324, R331): every launch is cancelled with ABORT and every channel aborted. -/
def State.teardownCtx (s : State) (c : Nat) : State :=
  if (s.ctx c).state ≠ 1 ∧ (s.ctx c).state ≠ 3 then s.ctxRefuse c 2
  else
    let ls := (s.launches.filter fun p => p.2.ctx == c).map Prod.fst
    let s1 := ls.foldl (fun t l => t.cancelOne true l) s
    let s2 := s1.quays.foldl (fun t p => p.2.chans.foldl (fun t h => if h.2.owner = some c then t.abortChan p.1 h.1 c else t) t) s1
    s2.updCtx c fun x => { x with state := 6 }

/-- TEARDOWN (R331). -/
def execTeardown (c : Nat) (s : State) : Out := .next (s.teardownCtx c)

/-- TEARDOWN ends once the chunks in flight have landed (R271, R331, R399): launches complete, items, monitors, slates and cores are freed. -/
def State.finishTeardown (s : State) (c : Nat) : State :=
  let ls := (s.launches.filter fun p => p.2.ctx == c).map Prod.fst
  let s1 := ls.reverse.foldl (fun t l =>
    match Tab.find l t.launches with
    | none => t
    | some x => t.finishLaunch l x x.endStatus 0) (s.discardItems c)
  let s2 := if (s1.ctx c).member ∧ (s1.job (s1.ctx c).job).recording.isSome then s1.failSnap (s1.ctx c).job else s1
  let s3 := (s2.dropMonitors c).dropServices c
  let cores := (s3.cores.filter fun p => p.2.owner == some c).map Prod.fst
  let s4 := ((cores.map gangOf).eraseDups).foldl (fun t g => t.freeGang c g) s3
  let s5 := cores.foldl (fun t p => t.freeCore c p) s4
  let s6 := { s5 with
    quays := Tab.mapVals (fun _ q => { q with chans := Tab.mapVals (fun _ (h : Chan) =>
      if h.owner = some c then { h with copies := [], pending := [] } else h) q.chans }) s5.quays
    dies := Tab.mapVals (fun _ d => { d with colls := d.colls.filter (·.ctx != c), exits := d.exits.filter (·.ctx != c) }) s5.dies
    slates := Tab.mapVals (fun _ x => if x.alloc ∧ x.ctx = c then {} else x) s5.slates }
  let s7 := s6.setRanks c fun e => { e with state := 0, held := [] }
  (s7.updCtx c fun x => { x with ctxd := x.ctxd &&& ~~~1#64, state := 0, ranks := [], parked := [], save := none, dueSave := none, stir := false }).ctxAnswer c 0

/-! Loads (R332 to R334) -/

/-- A role of an image (R332). -/
structure Role where
  segoff : Nat
  seglen : Nat
  segva : Nat
  spoff : Nat
  splen : Nat
  spdst : Nat
  deriving DecidableEq, Repr

/-- A placement entry (R332). -/
structure Placement where
  first : Nat
  last : Nat
  role : Nat
  deriving DecidableEq, Repr

/-- A role entry and whether its limits hold (R332). -/
def roleOf (b : List Byte) (len : Nat) : Role × Bool :=
  let f := fieldAt b
  let r : Role := { segoff := f 0 8, seglen := f 8 8, segva := f 16 8, spoff := f 24 8, splen := f 32 4, spdst := f 36 4 }
  (r, r.segoff % 64 == 0 && r.spoff % 64 == 0 && r.segva % 65536 == 0 && r.splen % 256 == 0 && decide (r.splen ≤ 262144) && r.spdst % 256 == 0
    && decide (r.spdst + r.splen ≤ 262144) && decide (r.segoff + r.seglen ≤ len) && decide (r.spoff + r.splen ≤ len) && (b.drop 40).all (· == 0))

/-- A placement entry and whether its limits hold (R332). -/
def placementOf (b : List Byte) (nroles : Nat) : Placement × Bool :=
  let f := fieldAt b
  ({ first := f 0 3, last := f 4 3, role := f 8 2 }, f 3 1 == 0 && f 7 1 == 0 && decide (f 0 3 ≤ f 4 3) && decide (f 8 2 < nroles)
    && (b.drop 10).all (· == 0))

/-- An image read and checked: its roles, placement and boot tree (rank and parent), or the ERR code (R332, R333, R334). -/
def State.readImage (s : State) (c : Nat) : Except Nat (List Role × List Placement × List (Nat × Nat) × List Byte) :=
  let a := (s.ctx c).desc.image
  let h := s.hdmRead a 64
  let f := fieldAt h
  let nroles := f 6 2
  let nplace := f 8 4
  let nnodes := f 12 4
  let len := f 40 8
  if !(f 0 4 == 0x4E595242 && f 4 2 == 1 && decide (1 ≤ nroles) && decide (nroles ≤ 256) && decide (1 ≤ nplace) && decide (nplace ≤ 4096)
      && decide (1 ≤ nnodes) && decide (nnodes ≤ 4096) && f 16 8 % 64 == 0 && f 24 8 % 64 == 0 && f 32 8 % 64 == 0
      && decide (f 16 8 + 64 * nroles ≤ len) && decide (f 24 8 + 16 * nplace ≤ len) && decide (f 32 8 + 8 * nnodes ≤ len) && (h.drop 48).all (· == 0)) then
    .error 4
  else
    let rs := (upFrom 0 nroles).map fun i => roleOf (s.hdmRead (a + f 16 8 + 64 * i) 64) len
    let ps := (upFrom 0 nplace).map fun i => placementOf (s.hdmRead (a + f 24 8 + 16 * i) 16) nroles
    let places := ps.map Prod.fst
    let apart := (upFrom 0 nplace).all fun i => (upFrom 0 i).all fun j =>
      match places[i]?, places[j]? with
      | some x, some y => decide (x.last < y.first) || decide (y.last < x.first)
      | _, _ => true
    if !(rs.all Prod.snd && ps.all Prod.snd && apart) then .error 4
    else
      let ranks := places.flatMap fun p => upFrom p.first (min (p.last + 1 - p.first) 4097)
      if ranks.any fun r => ((s.ctx c).rank r).state == 0 then .error 5
      else
        let ns := (upFrom 0 nnodes).map fun i => ofBytes (s.hdmRead (a + f 32 8 + 8 * i) 8)
        let nodes := ns.map fun n => (bits 23 0 n, bits 47 32 n)
        let ok := ns.all (fun n => bits 31 24 n == 0 && bits 63 48 n == 0) && (nodes.head?.map Prod.snd) == some 0xFFFF
          && (upFrom 1 (nnodes - 1)).all (fun i => decide (((nodes[i]?).map Prod.snd).getD 0xFFFF < i))
          && (nodes.map Prod.fst).eraseDups.length == nnodes && ranks.all (fun r => (nodes.map Prod.fst).contains r)
        if ok then .ok (rs.map Prod.fst, places, nodes, s.hdmRead a len) else .error 3

/-- The front end of die 0 as it loads an image. -/
def loadEng (c : Nat) : Eng := { quay := none, die := 0, who := 16384, agent := .frontEnd 0, ctx := c }

/-- What a page of an image's segment comes to. -/
inductive LoadPage where
  | home (h : Nat)
  /-- it waits for its host translation (R315) -/
  | waits
  | faults
  deriving DecidableEq, Repr

/-- A page translated for a load, write permission not checked (R167, R315, R334 step 1); one whose key slot is not VALID fails as for any engine (R428). -/
def State.loadPage (s : State) (c va : Nat) : LoadPage × State :=
  match (s.ctx c).leaf va with
  | none => (.faults, s)
  | some p =>
    if !p.present || p.cls == .reserved || !s.keyOk p.key then (.faults, s)
    else
      let t := s.updCtx c fun x => { x with ptes := markPte va true x.ptes }
      if p.cls = PageClass.host then
        match t.eHost (loadEng c) (p.frame + (va - p.va)) true with
        | (.ok (), u) => (.home (leafHome p va), u)
        | (.error (.ats _), u) => (.waits, u)
        | (.error _, u) => (.faults, u)
      else (.home (leafHome p va), t)

/-- A segment's bytes written through the context's translation, page by page, or the state in which a page faults (R334 step 1). -/
def State.putSegment (s : State) (c : Nat) : List (Nat × List Byte) → Except State State
  | [] => .ok s
  | (va, bs) :: t =>
    match s.loadPage c va with
    | (.home h, u) => State.putSegment (u.homeWrite c (u.colour c (.frontEnd 0)) h bs []) c t
    | (_, u) => .error u

/-- Bytes cut at 64-byte boundaries of their addresses. -/
def segPieces (va : Nat) (bs : List Byte) : List (Nat × List Byte) :=
  (upFrom 0 ((bs.length + 63) / 64)).map fun k => (va + 64 * k, (bs.drop (64 * k)).take 64)

/-- Every segment written, or the state in which a page was not present (R334). -/
def State.putSegments (s : State) (c : Nat) (file : List Byte) : List Role → Except State State
  | [] => .ok s
  | r :: t =>
    match s.putSegment c (segPieces r.segva ((file.drop r.segoff).take r.seglen)) with
    | .error u => .error u
    | .ok u => u.putSegments c file t

/-- The scratchpad image of a rank's role written at its core (R334 steps 2 and 3). -/
def State.putRole (s : State) (c : Nat) (file : List Byte) (roles : List Role) (places : List Placement) (rank : Nat) : State :=
  match places.find? fun p => decide (p.first ≤ rank) && decide (rank ≤ p.last) with
  | none => s
  | some p => match roles[p.role]? with
    | none => s
    | some r => s.homeWrite c (s.colour c (.frontEnd 0)) (spadHome ((s.ctx c).rank rank).phys r.spdst) ((file.drop r.spoff).take r.splen) []

/-- The rank table read anew, with what is held for its ranks; cores that it names no more are freed (R200, R322). -/
def State.rereadRanks (s : State) (c : Nat) : State :=
  let s := s.hdmNote c (s.ctx c).desc.ranktab (8 * (s.ctx c).desc.nranks)
  let old := (s.ctx c).ranks
  let s1 := s.updCtx c fun x => { x with ranks := Tab.mapVals (fun r e => { e with held := (Tab.get {} r old).held }) (s.readRanks (s.ctx c).desc) }
  let now := (s1.ctx c).cores.map Prod.snd
  let gone := (s1.cores.filter fun p => p.2.owner == some c && !now.contains p.1).map Prod.fst
  (gone.foldl (fun t p => t.freeCore c p) s1).ownCores c

/-- LOAD begins (R322, R324); a rank table that names a new core that is degraded ends it with ERR PLACEMENT (R419; DESIGN CHOICE, log entry 65). -/
def State.loadCtx (s : State) (c : Nat) : State :=
  if (s.ctx c).state ≠ 1 then s.ctxRefuse c 2
  else if s.launches.any fun p => p.2.ctx == c then s.ctxRefuse c 1
  else if s.givesDegraded c (s.readRanks ((s.rereadDesc c).ctx c).desc) then s.ctxAnswer c 5
  else ((s.rereadDesc c).rereadRanks c).updCtx c fun x => { x with state := 5 }

/-- LOAD (R334). -/
def execLoadI (c : Nat) (s : State) : Out := .next (s.loadCtx c)

/-- The pages of an image's segments that wait for a host translation: the requests are sent (R315). -/
def State.loadWaits (s : State) (c : Nat) (roles : List Role) : Bool × State :=
  (roles.flatMap fun r => (upFrom 0 ((r.seglen + 4095) / 4096)).map fun k => r.segva + 4096 * k).foldl
    (fun x va => match x.2.loadPage c va with
      | (.waits, u) => (true, u)
      | _ => x) (false, s)

/-- LOAD ends (R334). The boot tree orders the forwarding only; each node ends with its role's image. -/
def State.finishLoad (s : State) (c : Nat) : State :=
  let a := (s.ctx c).desc.image
  let s := s.hdmNote c a 64
  let s := s.hdmNote c (a + 64) (fieldAt (s.hdmRead a 64) 40 8 - 64)
  let answer := fun (t : State) (e : Nat) => (t.updCtx c fun x => { x with state := 1 }).ctxAnswer c e
  match s.readImage c with
  | .error e => answer s e
  | .ok (roles, places, nodes, file) =>
    let w := s.loadWaits c roles
    if w.1 then w.2
    else
      match s.putSegments c file roles with
      | .error t => answer t 6
      | .ok t =>
        let t1 := nodes.foldl (fun u n => u.putRole c file roles places n.1) t
        let t2 := (t1.ctx c).cores.foldl (fun u p =>
          ((u.refresh p.2).countImplicit p.2).updCore p.2 fun k => { k with ibuf := [] }) t1
        answer { t2 with fw := { t2.fw with quotes := ((c, shake256 file 64) :: t2.fw.quotes).take 64 } } 0

/-- A request in progress finishes, where what it waits for has come about (R324); a save that an error has asked for begins (R417, R422), and what waited
for forwarded packets is tried again (R201). -/
def State.finishRequest (s : State) (c : Nat) : State :=
  let x := s.ctx c
  if x.state = 2 then (if s.chunksFly c then s else s.finishSave c)
  else if x.state = 4 then
    (match x.save with
      | some a => ((s.finishResume c a).stirred c).recordResumed c a.services
      | none => s)
  else if x.state = 5 then s.finishLoad c
  else if x.state = 6 then (if s.chunksFly c then s else s.finishTeardown c)
  else if x.state = 1 ∧ x.dueSave.isSome then s.preemptCtx c 0
  else if x.state = 1 ∧ x.stir then (s.updCtx c fun y => { y with stir := false }).stirred c
  else s

/-- SLATE_GRANT (R336): OWNER is written and every other field takes its reset value. DRAWs that have arrived stay, and are checked again at their
lock (R345). -/
def execSlateGrant (i ctx : Nat) (s : State) : Out := .next (s.updSlate i fun x => { freshSlate ctx with draws := x.draws, nth := x.nth })

end Sys2Proof.Machine
end

