-- ==== Sys2Proof/Machine/Errors.lean ====
section
/-!
DEFINITION. Errors of the arrays, the scrubber, the error registers, and the end of a pair interval (R403 to R419).
-/

namespace Sys2Proof.Machine

/-- An X register, or the PC, STATUS or PRED, of a thread hit by an error beyond correction: the thread with the register poisoned, or none where
the error is fatal (R408 class 5). -/
def Thread.spoil (t : Thread) (r free : Nat) : Option Thread :=
  if r < 10 then some (t.setX r { v := BitVec.ofNat 64 free, p := true }) else none

/-- Operations held for a line of a merge buffer, their data lost. -/
def spoilLine (i free : Nat) (l : List MergeLine) : List MergeLine :=
  match l[i]? with
  | some m => setNth { m with ops := m.ops.map fun e => { e with op := e.op.spoil free } } i l
  | none => l

/-- A register of the thread at a place of a core hit (R408 class 5). -/
def State.spoilThread (s : State) (l : Loc) (r free : Nat) : State × Option Nat :=
  match (s.slot l).th with
  | none => (s, none)
  | some t => match t.spoil r free with
    | some t1 => (s.setSlot l { s.slot l with th := some t1 }, some 2)
    | none => ({ s with fatal := true }, some 3)

/-- A packet's register hit (R408 class 5). -/
def State.spoilPacket (s : State) (n r free : Nat) : State × Option Nat :=
  match s.net[n]? with
  | some p => (match p.kind with
    | .context k t => (match t.spoil r free with
      | some t1 => ({ s with net := setNth { p with kind := .context k t1 } n s.net }, some 2)
      | none => ({ s with fatal := true }, some 3))
    | _ => (s, none))
  | none => (s, none)

/-- A register hit of a context that waits at a core: in its run queue, on a wait list or about to join (R408 class 5). -/
def State.spoilQueued (s : State) (core n r free : Nat) : State × Option Nat :=
  match ((s.core core).threads.drop ((s.core core).slots.countP fun x => x.th.isSome))[n]? with
  | some u => (match u.spoil r free with
    | some t1 => (s.updCore core fun c => c.mapThreads fun t => if t.ctx = u.ctx ∧ t.task = u.task then t1 else t, some 2)
    | none => ({ s with fatal := true }, some 3))
  | none => (s, none)

/-- A register hit of a trapped context that waits at a quay for a service slot (R103, R408 class 5). -/
def State.spoilTrapped (s : State) (q n r free : Nat) : State × Option Nat :=
  match ((s.quay q).svcQueue ++ (s.quay q).svcWait.map Prod.snd)[n]? with
  | some u => (match u.spoil r free with
    | some t1 =>
      let f := fun (t : Thread) => if t.ctx = u.ctx ∧ t.task = u.task then t1 else t
      (s.updQuay q fun x => { x with svcQueue := x.svcQueue.map f, svcWait := x.svcWait.map fun p => (p.1, f p.2) }, some 2)
    | none => ({ s with fatal := true }, some 3))
  | none => (s, none)

/-- The first unit number of class 5 for contexts that wait at a core, by 16. -/
def queuedUnit : Nat := 512

/-- The first unit number of class 5 for contexts that wait for a service slot, by 16. -/
def trappedUnit : Nat := 65536

/-- The first unit number of class 5 for packets in flight, by 16. -/
def packetUnit : Nat := 131072

/-- The first unit number of class 8 for the second-level cache of a quay. -/
def l2Unit : Nat := 2 ^ 64

/-- The first unit number of class 8 for the address translation cache of a die. -/
def atcUnit : Nat := 2 ^ 65

/-- A translation discarded, to be walked again (R408 class 8). -/
def State.spoilTranslation (s : State) (core unit : Nat) : State :=
  if unit < l2Unit then s.updCore core fun c => { c with tlb := c.tlb.filter fun e => !pteCovers e.pte unit }
  else if unit < atcUnit then s.updQuay (quayOf core) fun q => { q with l2 := q.l2.filter fun e => !pteCovers e.pte (unit - l2Unit) }
  else s.updDie (dieOf core) fun d =>
    { d with atc := d.atc.filter fun e => !(decide (e.iova ≤ unit - atcUnit) && decide (unit - atcUnit < e.iova + e.size)) }

/-- The increment of R358, as the sampler of a slate sends it. -/
def State.notifyHost (s : State) (i ctx : Nat) : State :=
  let d := (s.ctx ctx).desc
  s.sendFrom (20480 + slateDie i) (.sampler (slateDie i)) ctx d.svrank d.svrank (.inc d.svberth none)

/-- The first unit number of the HBM array that is a sector of a content-addressed line, not a home address: 16 × the line's place + the sector. -/
def caUnit : Nat := 2 ^ 96

/-- A sector of a line's HBM copy hit: its bytes are lost and the line is delivered poisoned from now on (R371). -/
def State.spoilCa (s : State) (k : Nat) : State :=
  match s.ca[k / 16]? with
  | some l =>
    { s with
      ca := setNth { l with data := l.data.take (k % 16 * 32) ++ s.freeBytes 32 ++ l.data.drop (k % 16 * 32 + 32), pois := true } (k / 16) s.ca
      frees := s.frees + 32 }
  | none => s

/-- What contains an error beyond correction in a unit of an array: the state, and the class of its log entry where there is an error to log
(R408). The units: of memory, as `memUnit` has them, and from `caUnit` the sectors of content-addressed lines (R371); of class 3, accumulator lanes by 64 × row and, from 32768, weight elements; of class 4, lanes by
64 × register; of class 5, as `threadUnit` has them and, from `queuedUnit`, `trappedUnit` and `packetUnit`, contexts that wait and packets in flight; of
class 6, pinned lines, from 128 the phase queue, and from 192, 4096 and 32768 the lines of the quay's, the die's and the package's merge buffers; of
class 7, fetch frames; of class 8, virtual addresses in a core's cache and, from `l2Unit`, its quay's, and from `atcUnit` host addresses; of class 9, the registers of a slate and, from 8, its control fields; of class 10, the lines of the CA engines (log entry 15). -/
def State.strike (s : State) (array place unit : Nat) : State × Option Nat :=
  let v := Config.freeValue s.frees
  let t := { s with frees := s.frees + 1 }
  match array with
  | 0 => (if caUnit ≤ unit then s.spoilCa (unit - caUnit) else s.spoilMem unit, some 2)
  | 1 => (s.spoilMem (spadHome place (unit % 2 ^ 18)), some 2)
  | 2 => (s.spoilMem (quayHome place (unit % 2 ^ 23)), some 2)
  | 3 =>
    (t.updCore place fun c =>
      if unit < 32768 then
        let k := unit / 64
        let n := unit % 64
        let m : VReg := BitVec.ofNat 2048 ((2 ^ 32 - 1) * 2 ^ (32 * n))
        { c with arr := { c.arr with
            acc := Tab.set k ((Tab.get 0 k c.arr.acc &&& ~~~m) ||| (BitVec.ofNat 2048 (v % 2 ^ 32 * 2 ^ (32 * n)) &&& m)) c.arr.acc
            accp := Tab.set k (Tab.get 0 k c.arr.accp ||| (1#64 <<< n)) c.arr.accp } }
      else
        let r := (unit - 32768) / 64
        { c with arr := { c.arr with wpois := setNth (((c.arr.wpois[r]?).getD 0) ||| (1#64 <<< (unit % 64))) r c.arr.wpois } }, some 2)
  | 4 =>
    (t.updCore place fun c =>
      let m : VReg := BitVec.ofNat 2048 ((2 ^ 32 - 1) * 2 ^ (32 * (unit % 64)))
      c.setV (unit / 64 % 32) ((c.v (unit / 64 % 32) &&& ~~~m) ||| (BitVec.ofNat 2048 (v % 2 ^ 32 * 2 ^ (32 * (unit % 64))) &&& m))
        (c.vp (unit / 64 % 32) ||| (1#64 <<< (unit % 64))), some 2)
  | 5 =>
    if unit < 256 then t.spoilThread { svc := false, unit := place, slot := unit / 16 } (unit % 16) v
    else if unit < 512 then t.spoilThread { svc := true, unit := quayOf place, slot := unit / 16 % 16 } (unit % 16) v
    else if unit < trappedUnit then t.spoilQueued place ((unit - queuedUnit) / 16) (unit % 16) v
    else if unit < packetUnit then t.spoilTrapped (quayOf place) ((unit - trappedUnit) / 16) (unit % 16) v
    else t.spoilPacket ((unit - packetUnit) / 16) (unit % 16) v
  | 6 =>
    if unit < 192 then s.strikeHeld place unit
    else if unit < 4096 then (t.updQuay (quayOf place) fun q => { q with merge := spoilLine (unit - 192) v q.merge }, some 2)
    else if unit < 32768 then (t.updDie (dieOf place) fun d => { d with merge := spoilLine (unit - 4096) v d.merge }, some 2)
    else ({ t with pkgMerge := spoilLine (unit - 32768) v t.pkgMerge }, some 2)
  | 7 => (s.updCore place fun c => { c with ibuf := Tab.del unit c.ibuf }, some 0)
  | 8 => (s.spoilTranslation place unit, some 0)
  | 9 =>
    if unit < 8 then (t.updSlate place fun x => x.setS unit { v := BitVec.ofNat 64 v, p := true }, some 2)
    else ((s.updSlate place fun x => { x with stat := 2 }).notifyHost place (s.slate place).ctx, some 2)
  | 10 => ({ s with ca := match s.ca[unit]? with
      | some l => setNth { l with removed := true } unit s.ca
      | none => s.ca }, some 2)
  | 11 => ({ s with fatal := true }, some 3)
  | 12 => ({ s with fatal := true }, some 3)
  | _ => (s, none)

/-- The physical place of an array's unit, laid out as PHYS (R200, R409). -/
def State.errPlace (s : State) (array place unit : Nat) : Nat :=
  if array = 0 then 512 * (if caUnit ≤ unit then (match s.ca[(unit - caUnit) / 16]? with
    | some l => sealHome l.sl
    | none => 0) else min 7 (homeDie unit)) else if array = 2 then quayCore place else if array = 9 then 512 * slateDie place
  else if array = 10 ∨ array = 11 ∨ array = 12 then 512 * place else place

/-- ERRADDR of an array's unit where no access names it (R409): a unit of a scratchpad by its core's own aperture, one of shared memory by its quay's
window, and otherwise the unit's number (log entry 15). -/
def errAddr (array place unit : Nat) : Word :=
  BitVec.ofNat 64 (if array = 1 then 0x00FFFFFFFFFC0000 + unit % 2 ^ 18
    else if array = 2 then 0x00FD000000000000 + place % 128 * 2 ^ 23 + unit % 2 ^ 23 else unit)

/-- The context of an array's unit (R409): 0 where none holds it. -/
def State.unitCtx (s : State) (array place : Nat) : Nat :=
  if array = 9 then (s.slate place).ctx else if array = 0 ∨ array = 2 ∨ 10 ≤ array then 0 else (s.core place).owner.getD 0

/-- An error beyond correction contained, logged and reported (R403, R408, R411, R412). -/
def State.showError (s : State) (array place unit : Nat) : State :=
  let p := s.errPlace array place unit
  match s.strike array place unit with
  | (t, some cls) => t.logErr (min 7 (dieOf p)) array cls (s.unitCtx array place) p (errAddr array place unit)
  | (t, none) => t

/-- PATROL_SCRUB (R407): the sector that holds an HBM address is read; what can be corrected is, and `bad` says that this one cannot. -/
def execPatrolScrub (sector : Nat) (bad : Bool) (s : State) : Out :=
  let u := sector / 32 * 32
  .next (if caUnit ≤ sector then if bad then s.showError 0 0 sector else s
  else if homeKind u ≠ Home.hbm ∨ 8 * dieHbm ≤ u then s
  else if bad then
    ({ s.spoilMem u with latent := keepLatent u (rep 32 (some (0, false))) s.latent }).logErr (homeDie u) 0 2 0 (512 * homeDie u) (BitVec.ofNat 64 u)
  else s.readUnit 0 (512 * homeDie u) u u)

/-- ERRSEL_WRITE (R409). -/
def execErrselWrite (die : Nat) (v : Word) (s : State) : Out := .next (s.updDie die fun d => d.writeErrsel v)

/-- ERRINJ_WRITE (R410). -/
def execErrinjWrite (core : Nat) (v : Word) (s : State) : Out := .next (s.updCore core fun c => { c with errinj := errinjOf v })

/-! Pairs (R415, R417, R419) -/

/-- The end of a pair interval; the contexts of a pair that has failed are saved (R415 to R417). -/
def State.pairEnd (s : State) (core : Nat) : State := (s.endPair core).preemptDue

/-- A unit that each core of a pair has of its own (R413): not a service slot's, not a packet's or merge buffer's. -/
def pairedUnit (array unit : Nat) : Bool :=
  array == 1 || array == 3 || array == 4
    || (array == 5 && (decide (unit < 256) || (decide (queuedUnit ≤ unit) && decide (unit < trappedUnit))))
    || (array == 6 && decide (unit < 192))

/-- An error beyond correction in a paired core's own unit (R408, R413, R414). The model keeps the even core's state: there the unit is poisoned, and
results that its poison reaches differ from the other core's; the odd core's poison stands in no field, so the two differ at once (log entry 33). What the
odd core's error is, fatal, to be corrected or contained, is what it would be in the same unit of the even core. -/
def State.pairError (s : State) (array place unit : Nat) : State :=
  let even := place / 2 * 2
  let cls := (s.strike array even unit).2
  if place % 2 = 0 then
    let t := s.showError array even unit
    if cls = some 2 then t.updCore even fun c => { c with pair := { c.pair with struck := true } } else t
  else
    match cls with
    | none => s
    | some k =>
      let t := { s with fatal := s.fatal || k == 3 }.logErr (dieOf place) array k (s.unitCtx array even) place (errAddr array place unit)
      if k = 2 then t.updCore even fun c => { c with pair := { c.pair with upset := true } } else t

/-- UNCORRECTABLE_ERROR (R403, R408): `place` is a core, or the quay, slate or die that holds the array. In a paired gang an interval whose end
is due ends first: the error falls into the next (R415). -/
def execUncorrectableError (array place unit : Nat) (s : State) : Out :=
  let even := place / 2 * 2
  .next (if pairedUnit array unit && s.isPaired even then
    (if s.intervalDue even then s.pairEnd even else s).pairError array place unit
  else s.showError array place unit)

/-- PAIR_INTERVAL_END (R415). -/
def execPairIntervalEnd (core : Nat) (s : State) : Out := .next (s.pairEnd core)

end Sys2Proof.Machine
end

