-- ==== Sys2Proof/Machine/Power.lean ====
section
/-!
DEFINITION. Ageing, firmware, keys and power (R420 to R432), the writes of registers without a row of their own (R8), and the reset of the device
(R412).
-/

namespace Sys2Proof.Machine

/-! Margins (R420 to R423) -/

/-- The margin plan entry of a quay in the record in effect (R421). -/
def State.planOf (s : State) (q : Nat) : MarginPlan := (s.fw.active.plan[q]?).getD {}

/-- A quay re-planned after a sample (R421). -/
def Quay.replan (x : Quay) (p : MarginPlan) (slack : Nat) : Quay :=
  let y := { x with slack := slack }
  if slack < p.low then
    if y.offset < p.vmax then { y with offset := y.offset + 1, highrun := 0 } else { y with degraded := true, highrun := 0 }
  else if p.high < slack then
    if y.highrun = 5 then { y with highrun := 0, offset := if p.vmin < y.offset then y.offset - 1 else y.offset }
    else { y with highrun := y.highrun + 1 }
  else { y with highrun := 0 }

/-- A quay that has become degraded (R422): it goes on the list, the contexts that hold a rank on it are saved with ERR FAULT, and an
advisory entry is logged. -/
def State.degradeQuay (s : State) (q : Nat) : State :=
  let s1 := (upFrom (32 * q) 32).foldl (fun t p => t.updCore p fun c => { c with degraded := true }) s
  let s2 := { s1 with fw := { s1.fw with flash := { s1.fw.flash with degraded := insNat q s1.fw.flash.degraded } } }
  ((s2.saveHolders fun p => quayOf p == q).preemptDue).advise (q / 16) 0 (quayCore q) (BitVec.ofNat 64 q)

/-- The sample that 8 path-delay monitors give: the smallest slack, capped at 254 (R420). -/
def sampleOf (slacks : List Nat) : Nat := slacks.foldl min 254

/-- MARGIN_SAMPLE (R420, R421): the slack of each of a quay's 8 monitors in ps. A die samples its quays in increasing index, in a front-end cycle in which
no event of R283 is ready. -/
def execMarginSample (quay : Nat) (slacks : List Nat) (s : State) : Out :=
  let d := quay / 16
  .next (if (s.die d).marginNext = quay % 16 ∧ s.feIdle d then
    let x := (s.quay quay).replan (s.planOf quay) (sampleOf slacks)
    let s1 := ((s.feTakes d).updDie d fun y => { y with marginNext := (quay % 16 + 1) % 16 }).updQuay quay fun _ => x
    if x.degraded && !(s.quay quay).degraded then s1.degradeQuay quay else s1
  else s)

/-! Firmware (R424 to R427) -/

/-- Entries of a patch image from its bytes, and whether they are well formed (R424). -/
def patchEntries (b : List Byte) (n : Nat) : List (Nat × Word) × Bool :=
  let es := (upFrom 0 n).map fun e => (b.drop (64 + 16 * e)).take 16
  (es.map fun e => (fieldAt e 0 2, BitVec.ofNat 64 (fieldAt e 8 8)), es.all fun e => decide (fieldAt e 0 2 < 4096) && fieldAt e 2 6 == 0)

/-- A word of the control store that a die's front end runs from: that of a patch entry for its address, and otherwise the mask ROM's (R424). Of two
entries for one address the later one stands (DESIGN CHOICE, log entry 65). What the words make a front end do is in no rule. -/
def Firmware.controlWord (f : Firmware) (a : Nat) : Word :=
  match f.patches.reverse.find? (·.1 == a) with
  | some e => e.2
  | none => Config.controlRom a

/-- ERR of a firmware request (R425). -/
def State.fwErr (s : State) (e : Nat) : State := { s with fw := { s.fw with err := e } }

/-- PATCH (R424, R425): the checks in order, then every die's patch RAM is loaded. -/
def State.patchFw (s : State) : State :=
  let s := s.hdmNote 0 s.fw.fwaddr (64 + 16 * 256 + 114)
  let h := s.hdmRead s.fw.fwaddr 64
  let n := if fieldAt h 5 1 = 0 then 256 else fieldAt h 5 1
  let image := s.hdmRead s.fw.fwaddr (64 + 16 * n)
  let es := patchEntries image n
  if s.ctxs.any fun c => c.2.state != 0 then s.fwErr 1
  else if !(fieldAt h 0 4 == 0x48544150 && (h.drop 6).all (· == 0) && es.2) then s.fwErr 2
  else if fieldAt h 4 1 < s.fw.active.minSvn ∨ fieldAt h 4 1 < s.fw.svn then s.fwErr 3
  else if !Config.signatureOk (shake256 image 64) (s.hdmRead (s.fw.fwaddr + 64 + 16 * n) 114) then s.fwErr 4
  else { s with fw := { s.fw with err := 0, svn := fieldAt h 4 1, patches := es.1 } }

/-- PATCH (R425). -/
def execPatch (s : State) : Out := .next s.patchFw

/-- A signed count of one byte. -/
def signedByte (n : Nat) : Int := if n < 128 then n else (n : Int) - 256

/-- A margin plan entry (R421). -/
def planEntry (b : List Byte) : MarginPlan :=
  { low := fieldAt b 0 1, high := fieldAt b 1 1, vmin := signedByte (fieldAt b 2 1), vmax := signedByte (fieldAt b 3 1), init := signedByte (fieldAt b 4 1) }

/-- The numbers whose bits are set in a bitmap. -/
def bitmap (b : List Byte) : List Nat := (upFrom 0 (8 * b.length)).filter fun i => bit (i % 8) (b.getD (i / 8) 0).toNat

/-- The bytes of a configuration record before its signature: sequence number, identity digest, minimum SVN in 8 bytes, 128 plan entries, and the
degraded quays and gangs as bitmaps. R426 gives the parts and their order; their sizes and the bitmaps are the model's (log entry 16). -/
def configSize : Nat := 8 + 64 + 8 + 128 * 8 + 16 + 64

/-- A configuration record from its bytes, its signature among them (R426). -/
def configOf (b : List Byte) : ConfigRec :=
  { seqno := fieldAt b 0 8
    minSvn := fieldAt b 72 8
    plan := (upFrom 0 128).map fun q => planEntry ((b.drop (80 + 8 * q)).take 8)
    degraded := bitmap ((b.drop 1104).take 16)
    gangs := bitmap ((b.drop 1120).take 64)
    bytes := b }

/-- CONFIG (R426): an accepted record is stored in the flash, for the next reset. -/
def State.configFw (s : State) : State :=
  let s := s.hdmNote 0 s.fw.fwaddr (configSize + 114)
  let b := s.hdmRead s.fw.fwaddr configSize
  if (b.drop 8).take 64 ≠ Config.identityDigest ∨ fieldAt b 0 8 ≤ s.fw.flash.seqno then s.fwErr 5
  else if !Config.signatureOk (shake256 b 64) (s.hdmRead (s.fw.fwaddr + configSize) 114) then s.fwErr 4
  else { s with fw := { s.fw with err := 0, flash := configOf (b ++ s.hdmRead (s.fw.fwaddr + configSize) 114) } }

/-- CONFIG (R426). -/
def execConfig (s : State) : Out := .next s.configFw

/-- The contents of a patch RAM as bytes: its entries as the image gave them (R427; log entry 16). -/
def patchBytes (ps : List (Nat × Word)) : List Byte := ps.flatMap fun p => toBytes 8 p.1 ++ toBytes 8 p.2.toNat

/-- The signed part of a quote (R427). -/
def State.quoteBody (s : State) : List Byte :=
  s.hdmRead s.fw.fwaddr 64 ++ shake256 (patchBytes s.fw.patches) 64 ++ shake256 s.fw.active.bytes 64
    ++ toBytes 1 s.fw.quotes.length ++ rep 7 0
    ++ s.fw.quotes.reverse.flatMap fun q => toBytes 2 q.1 ++ rep 6 0 ++ q.2

/-- QUOTE (R427). -/
def State.quoteFw (s : State) : State :=
  let s := s.hdmNote 0 s.fw.fwaddr 64
  let b := s.quoteBody
  (s.hdmWrite (s.fw.fwaddr + 64) (b ++ (Config.identitySign (shake256 b 64) ++ rep 114 0).take 114)).fwErr 0

/-- QUOTE (R427). -/
def execQuote (s : State) : Out := .next s.quoteFw

/-- A write of FWCTL (R425). -/
def State.fwRequest (s : State) (req : Nat) : State :=
  if req = 1 then s.patchFw else if req = 2 then s.configFw else if req = 3 then s.quoteFw else s

/-! Keys (R428, R429) -/

/-- SLOT of KEYCTL after a write (R429). -/
def Firmware.selectSlot (f : Firmware) (slot : Nat) : Firmware := if 1 ≤ slot ∧ slot ≤ 127 then { f with keySlot := slot } else f

/-- LOAD of the selected key slot (R429). -/
def Firmware.loadKey (f : Firmware) : Firmware := { f with keys := Tab.set f.keySlot f.keydata f.keys, keydata := rep 8 0 }

/-- ERASE of the selected key slot (R429). -/
def Firmware.eraseKey (f : Firmware) : Firmware := { f with keys := Tab.del f.keySlot f.keys }

/-- KEY_LOAD (R429): a write of KEYCTL with REQ LOAD. -/
def execKeyLoad (slot : Nat) (s : State) : Out := .next { s with fw := (s.fw.selectSlot slot).loadKey }

/-- KEY_ERASE (R429): a write of KEYCTL with REQ ERASE. -/
def execKeyErase (slot : Nat) (s : State) : Out := .next { s with fw := (s.fw.selectSlot slot).eraseKey }

/-- A write of KEYCTL (R429). -/
def Firmware.writeKeyctl (f : Firmware) (v : Nat) : Firmware :=
  let g := f.selectSlot (bits 15 8 v)
  if bits 1 0 v = 1 then g.loadKey else if bits 1 0 v = 2 then g.eraseKey else g

/-! Power (R430 to R432) -/

/-- CAP as stored (R430). -/
def clampCap (v : Nat) : Nat := max 2400 (min 4400 v)

/-- PWRCTL_WRITE (R430). -/
def execPwrctlWrite (v : Word) (s : State) : Out := .next { s with fw := { s.fw with cap := clampCap (bits 15 0 v.toNat) } }

/-- CLK after a millisecond's average (R431). -/
def nextClk (f : Firmware) (watts : Nat) : Nat :=
  if f.cap < watts ∧ 12 < f.clk then f.clk - 1 else if watts + 100 < f.cap ∧ f.clk < 20 then f.clk + 1 else f.clk

/-- CLOCK_ADJUST (R431): `watts` is the package power averaged over the last 1 ms. -/
def execClockAdjust (watts : Nat) (s : State) : Out :=
  let w := watts % 2 ^ 16
  let atCap := decide (s.fw.cap < w) && s.fw.clk == 12
  let due := match s.fw.overAt with
    | none => true
    | some t => decide (t + 1000000 * microUnits ≤ s.time)
  let s1 := { s with fw := { s.fw with
    pwrnow := w, clk := nextClk s.fw w
    overAt := if atCap then (if due then some s.time else s.fw.overAt) else none } }
  .next (if atCap && due then s1.advise 0 0 0 (BitVec.ofNat 64 w) else s1)

/-- CORE_POWER_GATE (R432): a core that has been idle for 100 µs is gated. -/
def execCorePowerGate (core : Nat) (s : State) : Out :=
  let c := s.core core
  .next (if !c.gated && s.idleAt core && decide (c.idleFrom + 100 * microUnits ≤ s.time) then
    s.updCore core fun c => { c with gated := true, gateFrom := s.cycle, wake := none }
  else s)

/-- CORE_WAKE (R432): within 2 µs of the first packet. -/
def execCoreWake (core : Nat) (s : State) : Out := .next (if (s.core core).wake.isSome then s.wakeCore core else s)

/-! Registers of BAR0 (R8, R305, R317, R320, R323, R386, R387, R409, R423, R425, R429, R430) -/

/-- The registers of a job (R387). A JOBSIZE that is no multiple of 64 KiB is stored as it is written (DESIGN CHOICE, log entry 50). -/
def State.writeJob (s : State) (j reg : Nat) (v : Word) : State :=
  if reg = 0 then
    let s1 := s.updJob j fun x => { x with num := bits 47 16 v.toNat }
    if bits 2 0 v.toNat = 1 then s1.hostSnap j else if bits 2 0 v.toNat = 2 then s1.hostRollback j else s1
  else if reg = 8 then s.updJob j fun x => { x with store := v.toNat / 65536 * 65536 }
  else if reg = 16 then s.updJob j fun x => { x with size := v.toNat }
  else s

/-- A request of CTXCTL (R323, R324). -/
def State.ctxRequest (s : State) (c req : Nat) : State :=
  if req = 1 then s.preemptCtx c 0 else if req = 2 then s.resumeCtx c else if req = 3 then s.teardownCtx c else if req = 4 then s.loadCtx c else s

/-- Meanings that always go on, as a change of the state. -/
def nextOf (s : State) (o : Out) : State :=
  match o with
  | .next t => t
  | .fault _ => s
  | .refused _ => s

/-- A write of a register of BAR0, each field by its access code (R8). -/
def State.writeBar (s : State) (off : Nat) (v : Word) : State :=
  if 0x100000 ≤ off ∧ off < 0x100000 + 32 * 32768 then
    let q := (off - 0x100000) / 32
    let r := (off - 0x100000) % 32
    s.updQueue q fun x =>
      if r = 0 then x.setCtl v.toNat else if r = 8 then x.setCq v.toNat else if r = 16 then x.setInt v.toNat
      else if r = 24 then { x with cqhead := v.toNat % 2 ^ 32 } else x
  else if 0x200000 ≤ off ∧ off < 0x200000 + 64 * 4096 then
    let c := (off - 0x200000) / 64
    let r := (off - 0x200000) % 64
    if r = 8 then nextOf s (execFqheadWrite c v s) else if r = 16 then s.updCtx c fun x => { x with fqvec := bits 10 0 v.toNat } else s
  else if 0x300000 ≤ off ∧ off < 0x300000 + 16 * 4096 then
    let c := (off - 0x300000) / 16
    let r := (off - 0x300000) % 16
    if r = 0 then nextOf s (execContextCreate c v s) else if r = 8 then s.ctxRequest c (bits 2 0 v.toNat) else s
  else if 0x400000 ≤ off ∧ off < 0x400000 + 64 * 256 then s.writeJob ((off - 0x400000) / 64) ((off - 0x400000) % 64) v
  else if 0x410000 ≤ off ∧ off < 0x410000 + 8 * 4096 ∧ off % 8 = 0 then nextOf s (execCtxjobWrite ((off - 0x410000) / 8) v s)
  else if 0x500000 ≤ off ∧ off < 0x500000 + 32 * 8 ∧ off % 32 = 0 then s.updDie ((off - 0x500000) / 32) fun d => d.writeErrsel v
  else if off = 0x610000 then { s with fw := { s.fw with cap := clampCap (bits 15 0 v.toNat) } }
  else if 0x620000 ≤ off ∧ off < 0x620040 ∧ off % 8 = 0 then
    { s with fw := { s.fw with keydata := setNth v ((off - 0x620000) / 8) s.fw.keydata } }
  else if off = 0x620040 then { s with fw := s.fw.writeKeyctl v.toNat }
  else if off = 0x630000 then { s with fw := { s.fw with fwaddr := v.toNat / 64 * 64 } }
  else if off = 0x630008 then s.fwRequest (bits 2 0 v.toNat)
  else s

/-! What the host driver reads from BAR0 (R303, R305, R317, R320, R323, R386, R387, R409, R423, R425, R429, R430); no read changes anything. -/

/-- QCTL, QCQ, QINT or QCQH (R305). -/
def WorkQueue.word (x : WorkQueue) (reg : Nat) : Nat :=
  if reg = 0 then x.ctx * 2 ^ 36 + b2n x.priv * 2 ^ 33 + b2n x.armed * 2 ^ 32 + x.egen * 2 ^ 24 + x.head * 2 ^ 16 + x.taken % 2 ^ 16
  else if reg = 8 then x.cqbase + x.lgc * 2 ^ 8
  else if reg = 16 then x.tmr * 2 ^ 32 + x.cnt * 2 ^ 24 + x.vec
  else if reg = 24 then x.cqtail * 2 ^ 32 + x.cqhead
  else 0

/-- FQTAIL, FQHEAD or FQVEC of a context (R317). -/
def Context.fqWord (x : Context) (reg : Nat) : Nat :=
  if reg = 0 then x.fqtail.toNat else if reg = 8 then x.fqhead.toNat else if reg = 16 then x.fqvec else 0

/-- CTXD or CTXCTL of a context (R320, R323). -/
def Context.ctlWord (x : Context) (reg : Nat) : Nat :=
  if reg = 0 then x.ctxd.toNat else if reg = 8 then x.err * 2 ^ 12 + x.state * 2 ^ 5 else 0

/-- JOBCTL, JOBSTORE or JOBSIZE (R387). -/
def Job.regWord (x : Job) (reg : Nat) : Nat :=
  if reg = 0 then x.num * 2 ^ 16 + x.err * 2 ^ 12 else if reg = 8 then x.store else if reg = 16 then x.size else 0

/-- MARGIN of a quay (R423). -/
def State.marginWord (s : State) (q : Nat) : Nat :=
  let x := s.quay q
  b2n x.degraded * 2 ^ 32 + (x.offset % 256).toNat * 2 ^ 16 + x.highrun * 2 ^ 8 + x.slack

/-- The word of a register of BAR0, 0 where there is none and in fields that are write-only or reserved (R8). -/
def State.barWord (s : State) (off : Nat) : Word :=
  let at_ := fun (base stride n : Nat) => decide (base ≤ off) && decide (off < base + stride * n)
  BitVec.ofNat 64 (
    if at_ 0x100000 32 32768 then (s.queue ((off - 0x100000) / 32)).word ((off - 0x100000) % 32)
    else if at_ 0x200000 64 4096 then (s.ctx ((off - 0x200000) / 64)).fqWord ((off - 0x200000) % 64)
    else if at_ 0x300000 16 4096 then (s.ctx ((off - 0x300000) / 16)).ctlWord ((off - 0x300000) % 16)
    else if at_ 0x400000 64 256 then (s.job ((off - 0x400000) / 64)).regWord ((off - 0x400000) % 64)
    else if at_ 0x410000 8 4096 ∧ off % 8 = 0 then
      let x := s.ctx ((off - 0x410000) / 8)
      b2n x.member * 2 ^ 8 + x.job
    else if at_ 0x500000 32 8 then
      let d := s.die ((off - 0x500000) / 32)
      let r := (off - 0x500000) % 32
      (if r = 0 then d.errsel.toNat else if r = 8 then d.errinfo.toNat else if r = 16 then d.erraddr.toNat else 0)
    else if at_ 0x600000 8 128 ∧ off % 8 = 0 then s.marginWord ((off - 0x600000) / 8)
    else if off = 0x610000 then s.fw.pwrnow * 2 ^ 32 + s.fw.clk * 2 ^ 24 + s.fw.cap
    else if off = 0x620040 then b2n (Tab.find s.fw.keySlot s.fw.keys).isSome * 2 ^ 16 + s.fw.keySlot * 2 ^ 8
    else if off = 0x630000 then s.fw.fwaddr
    else if off = 0x630008 then s.fw.svn * 2 ^ 16 + s.fw.err * 2 ^ 12
    else 0)

/-- The value that a read of BAR0 gives; a package that a fatal error has stopped accepts no request (R412). -/
def State.readBar (s : State) (off : Nat) : Option Word := if s.fatal then none else some (s.barWord off)

/-- REGISTER_WRITE (R8): a register of BAR0, or a setting that the host driver makes through Dzitis: a DRR quantum (R266), the owner of a lighter
channel (R258), the size of a die's CA pool in lines, which its HBM bounds (R1, R369). -/
def execRegisterWrite (t : RegTarget) (v : Word) (s : State) : Out :=
  .next (match t with
    | .bar off => s.writeBar off v
    | .quantum q cls =>
      if 2048 ≤ v.toNat ∧ v.toNat ≤ 2 ^ 20 ∧ v.toNat % 2048 = 0 then s.updQuay q fun x => { x with quanta := setNth v.toNat cls x.quanta } else s
    | .channelOwner q c => s.updQuay q fun x => x.updChan c fun k => { k with owner := if v.getLsbD 12 then some (v.toNat % 4096) else none }
    | .caPool d => if 512 * v.toNat ≤ dieHbm then s.updDie d fun x => { x with caPool := v.toNat } else s)

/-- What HBM and the host hold at a home address stays over a reset of the device; what a scratchpad or shared memory holds does not (R412; log entry 66). -/
def keptOverReset (a : Nat) : Bool := homeKind a == Home.hbm || homeKind a == Home.host

/-- A job after a reset of the device: its registers at their reset values, its retained snapshots and what its pages have seen since as they were
(R412; log entry 66). -/
def Job.afterReset (j : Job) : Job := { latest := j.latest, snaps := j.snaps.filter (·.state == 2), written := j.written }

/-- DEVICE_RESET (R412): every piece of state takes its reset value; the configuration record in the flash comes into effect (R424, R426). HBM, with what it
holds of content-addressed lines and of retained snapshots, stays, so that the host driver may restore a job (DESIGN CHOICE, log entry 66); so do the
host's own memory, and what the model keeps for itself. -/
def execDeviceReset (s : State) : Out :=
  .next { State.resetWith s.fw.flash with
    mem := s.mem.filter fun c => keptOverReset c.1
    poison := s.poison.filter keptOverReset
    tags := s.tags.filter fun t => keptOverReset (32 * t.1)
    latent := s.latent.filter fun x => x.array == 0
    ca := s.ca
    jobs := (s.jobs.map fun p => (p.1, p.2.afterReset)).filter fun p => !(p.2 == {})
    nextLaunch := s.nextLaunch, schedule := s.schedule, prompt := s.prompt, frees := s.frees, serial := s.serial }

end Sys2Proof.Machine
end

