-- ==== Sys2Proof/Machine/Dispatch.lean ====
section
/-!
DEFINITION. One arm for every row of the opcode table, each a call of that row's meaning.
-/

namespace Sys2Proof.Machine

/-- The meaning of every instruction and event. -/
def exec (i : Instr) (s : State) : Host.Outcome State Fault Refusal :=
  match i with
  | .padParcel => Sys2Proof.Machine.execPadParcel s
  | .nop h f => Sys2Proof.Machine.execNop h f s
  | .add h f => Sys2Proof.Machine.execAdd h f s
  | .sub h f => Sys2Proof.Machine.execSub h f s
  | .andI h f => Sys2Proof.Machine.execAndI h f s
  | .orI h f => Sys2Proof.Machine.execOrI h f s
  | .xor h f => Sys2Proof.Machine.execXor h f s
  | .andn h f => Sys2Proof.Machine.execAndn h f s
  | .orn h f => Sys2Proof.Machine.execOrn h f s
  | .shl h f => Sys2Proof.Machine.execShl h f s
  | .shr h f => Sys2Proof.Machine.execShr h f s
  | .sar h f => Sys2Proof.Machine.execSar h f s
  | .rol h f => Sys2Proof.Machine.execRol h f s
  | .ror h f => Sys2Proof.Machine.execRor h f s
  | .minI h f => Sys2Proof.Machine.execMinI h f s
  | .maxI h f => Sys2Proof.Machine.execMaxI h f s
  | .minu h f => Sys2Proof.Machine.execMinu h f s
  | .maxu h f => Sys2Proof.Machine.execMaxu h f s
  | .mul h f => Sys2Proof.Machine.execMul h f s
  | .mulh h f => Sys2Proof.Machine.execMulh h f s
  | .mulhu h f => Sys2Proof.Machine.execMulhu h f s
  | .clz h f => Sys2Proof.Machine.execClz h f s
  | .ctz h f => Sys2Proof.Machine.execCtz h f s
  | .popc h f => Sys2Proof.Machine.execPopc h f s
  | .brev h f => Sys2Proof.Machine.execBrev h f s
  | .bswap h f => Sys2Proof.Machine.execBswap h f s
  | .div h f => Sys2Proof.Machine.execDiv h f s
  | .divu h f => Sys2Proof.Machine.execDivu h f s
  | .rem h f => Sys2Proof.Machine.execRem h f s
  | .remu h f => Sys2Proof.Machine.execRemu h f s
  | .addX h f => Sys2Proof.Machine.execAddX h f s
  | .subX h f => Sys2Proof.Machine.execSubX h f s
  | .andX h f => Sys2Proof.Machine.execAndX h f s
  | .orX h f => Sys2Proof.Machine.execOrX h f s
  | .xorX h f => Sys2Proof.Machine.execXorX h f s
  | .andnX h f => Sys2Proof.Machine.execAndnX h f s
  | .ornX h f => Sys2Proof.Machine.execOrnX h f s
  | .shlX h f => Sys2Proof.Machine.execShlX h f s
  | .shrX h f => Sys2Proof.Machine.execShrX h f s
  | .sarX h f => Sys2Proof.Machine.execSarX h f s
  | .rolX h f => Sys2Proof.Machine.execRolX h f s
  | .rorX h f => Sys2Proof.Machine.execRorX h f s
  | .minX h f => Sys2Proof.Machine.execMinX h f s
  | .maxX h f => Sys2Proof.Machine.execMaxX h f s
  | .minuX h f => Sys2Proof.Machine.execMinuX h f s
  | .maxuX h f => Sys2Proof.Machine.execMaxuX h f s
  | .mulX h f => Sys2Proof.Machine.execMulX h f s
  | .mulhX h f => Sys2Proof.Machine.execMulhX h f s
  | .mulhuX h f => Sys2Proof.Machine.execMulhuX h f s
  | .clzX h f => Sys2Proof.Machine.execClzX h f s
  | .ctzX h f => Sys2Proof.Machine.execCtzX h f s
  | .popcX h f => Sys2Proof.Machine.execPopcX h f s
  | .brevX h f => Sys2Proof.Machine.execBrevX h f s
  | .bswapX h f => Sys2Proof.Machine.execBswapX h f s
  | .cmpEq h f => Sys2Proof.Machine.execCmpEq h f s
  | .cmpNe h f => Sys2Proof.Machine.execCmpNe h f s
  | .cmpLt h f => Sys2Proof.Machine.execCmpLt h f s
  | .cmpLe h f => Sys2Proof.Machine.execCmpLe h f s
  | .cmpLtu h f => Sys2Proof.Machine.execCmpLtu h f s
  | .cmpLeu h f => Sys2Proof.Machine.execCmpLeu h f s
  | .pand h f => Sys2Proof.Machine.execPand h f s
  | .por h f => Sys2Proof.Machine.execPor h f s
  | .pxor h f => Sys2Proof.Machine.execPxor h f s
  | .pnot h f => Sys2Proof.Machine.execPnot h f s
  | .prd h f => Sys2Proof.Machine.execPrd h f s
  | .pwr h f => Sys2Proof.Machine.execPwr h f s
  | .sel h f => Sys2Proof.Machine.execSel h f s
  | .bfx h f => Sys2Proof.Machine.execBfx h f s
  | .bfxu h f => Sys2Proof.Machine.execBfxu h f s
  | .bfi h f => Sys2Proof.Machine.execBfi h f s
  | .lea h f => Sys2Proof.Machine.execLea h f s
  | .b h f => Sys2Proof.Machine.execB h f s
  | .j h f => Sys2Proof.Machine.execJ h f s
  | .call h f => Sys2Proof.Machine.execCall h f s
  | .jr h f => Sys2Proof.Machine.execJr h f s
  | .callr h f => Sys2Proof.Machine.execCallr h f s
  | .ret h f => Sys2Proof.Machine.execRet h f s
  | .vadd h f => Sys2Proof.Machine.execVadd h f s
  | .vsub h f => Sys2Proof.Machine.execVsub h f s
  | .vmul h f => Sys2Proof.Machine.execVmul h f s
  | .vfma h f => Sys2Proof.Machine.execVfma h f s
  | .vfms h f => Sys2Proof.Machine.execVfms h f s
  | .vfnma h f => Sys2Proof.Machine.execVfnma h f s
  | .vmin h f => Sys2Proof.Machine.execVmin h f s
  | .vmax h f => Sys2Proof.Machine.execVmax h f s
  | .vabs h f => Sys2Proof.Machine.execVabs h f s
  | .vneg h f => Sys2Proof.Machine.execVneg h f s
  | .vand h f => Sys2Proof.Machine.execVand h f s
  | .vor h f => Sys2Proof.Machine.execVor h f s
  | .vxor h f => Sys2Proof.Machine.execVxor h f s
  | .vshl h f => Sys2Proof.Machine.execVshl h f s
  | .vshr h f => Sys2Proof.Machine.execVshr h f s
  | .vsar h f => Sys2Proof.Machine.execVsar h f s
  | .vcmpEq h f => Sys2Proof.Machine.execVcmpEq h f s
  | .vcmpNe h f => Sys2Proof.Machine.execVcmpNe h f s
  | .vcmpLt h f => Sys2Proof.Machine.execVcmpLt h f s
  | .vcmpLe h f => Sys2Proof.Machine.execVcmpLe h f s
  | .vsel h f => Sys2Proof.Machine.execVsel h f s
  | .vcvt h f => Sys2Proof.Machine.execVcvt h f s
  | .vquant h f => Sys2Proof.Machine.execVquant h f s
  | .vdeq h f => Sys2Proof.Machine.execVdeq h f s
  | .vredSum h f => Sys2Proof.Machine.execVredSum h f s
  | .vredMax h f => Sys2Proof.Machine.execVredMax h f s
  | .vredMin h f => Sys2Proof.Machine.execVredMin h f s
  | .vredArgmax h f => Sys2Proof.Machine.execVredArgmax h f s
  | .vperm h f => Sys2Proof.Machine.execVperm h f s
  | .vbcast h f => Sys2Proof.Machine.execVbcast h f s
  | .vslup h f => Sys2Proof.Machine.execVslup h f s
  | .vsldn h f => Sys2Proof.Machine.execVsldn h f s
  | .viota h f => Sys2Proof.Machine.execViota h f s
  | .vmovx h f => Sys2Proof.Machine.execVmovx h f s
  | .vmovv h f => Sys2Proof.Machine.execVmovv h f s
  | .vdot8 h f => Sys2Proof.Machine.execVdot8 h f s
  | .vdoti8 h f => Sys2Proof.Machine.execVdoti8 h f s
  | .vrcp h f => Sys2Proof.Machine.execVrcp h f s
  | .vrsq h f => Sys2Proof.Machine.execVrsq h f s
  | .vsqrt h f => Sys2Proof.Machine.execVsqrt h f s
  | .vexp2 h f => Sys2Proof.Machine.execVexp2 h f s
  | .vlog2 h f => Sys2Proof.Machine.execVlog2 h f s
  | .gangJoin h f => Sys2Proof.Machine.execGangJoin h f s
  | .gangLeave h f => Sys2Proof.Machine.execGangLeave h f s
  | .wload h f => Sys2Proof.Machine.execWload h f s
  | .mma h f => Sys2Proof.Machine.execMma h f s
  | .mmaAcc h f => Sys2Proof.Machine.execMmaAcc h f s
  | .azero h f => Sys2Proof.Machine.execAzero h f s
  | .aswap h f => Sys2Proof.Machine.execAswap h f s
  | .aread h f => Sys2Proof.Machine.execAread h f s
  | .awrite h f => Sys2Proof.Machine.execAwrite h f s
  | .astat h f => Sys2Proof.Machine.execAstat h f s
  | .ld h f => Sys2Proof.Machine.execLd h f s
  | .lds h f => Sys2Proof.Machine.execLds h f s
  | .st h f => Sys2Proof.Machine.execSt h f s
  | .vld h f => Sys2Proof.Machine.execVld h f s
  | .vlds h f => Sys2Proof.Machine.execVlds h f s
  | .vldg h f => Sys2Proof.Machine.execVldg h f s
  | .vst h f => Sys2Proof.Machine.execVst h f s
  | .vsts h f => Sys2Proof.Machine.execVsts h f s
  | .vstg h f => Sys2Proof.Machine.execVstg h f s
  | .baddI32 h f => Sys2Proof.Machine.execBaddI32 h f s
  | .baddF32 h f => Sys2Proof.Machine.execBaddF32 h f s
  | .baddBf16 h f => Sys2Proof.Machine.execBaddBf16 h f s
  | .bminI32 h f => Sys2Proof.Machine.execBminI32 h f s
  | .bmaxI32 h f => Sys2Proof.Machine.execBmaxI32 h f s
  | .bminF32 h f => Sys2Proof.Machine.execBminF32 h f s
  | .bmaxF32 h f => Sys2Proof.Machine.execBmaxF32 h f s
  | .baxpyF32 h f => Sys2Proof.Machine.execBaxpyF32 h f s
  | .aadd h f => Sys2Proof.Machine.execAadd h f s
  | .aand h f => Sys2Proof.Machine.execAand h f s
  | .aor h f => Sys2Proof.Machine.execAor h f s
  | .axor h f => Sys2Proof.Machine.execAxor h f s
  | .amin h f => Sys2Proof.Machine.execAmin h f s
  | .amax h f => Sys2Proof.Machine.execAmax h f s
  | .aminu h f => Sys2Proof.Machine.execAminu h f s
  | .amaxu h f => Sys2Proof.Machine.execAmaxu h f s
  | .aswp h f => Sys2Proof.Machine.execAswp h f s
  | .acas h f => Sys2Proof.Machine.execAcas h f s
  | .phase h f => Sys2Proof.Machine.execPhase h f s
  | .phasePub h f => Sys2Proof.Machine.execPhasePub h f s
  | .phaseRef h f => Sys2Proof.Machine.execPhaseRef h f s
  | .watch h f => Sys2Proof.Machine.execWatch h f s
  | .unwatch h f => Sys2Proof.Machine.execUnwatch h f s
  | .spawn h f => Sys2Proof.Machine.execSpawn h f s
  | .exitI h f => Sys2Proof.Machine.execExitI h f s
  | .yield h f => Sys2Proof.Machine.execYield h f s
  | .migrate h f => Sys2Proof.Machine.execMigrate h f s
  | .anchor h f => Sys2Proof.Machine.execAnchor h f s
  | .mobile h f => Sys2Proof.Machine.execMobile h f s
  | .sendI h f => Sys2Proof.Machine.execSendI h f s
  | .waitI h f => Sys2Proof.Machine.execWaitI h f s
  | .arrive h f => Sys2Proof.Machine.execArrive h f s
  | .bar h f => Sys2Proof.Machine.execBar h f s
  | .bcfg h f => Sys2Proof.Machine.execBcfg h f s
  | .bread h f => Sys2Proof.Machine.execBread h f s
  | .bclr h f => Sys2Proof.Machine.execBclr h f s
  | .cput h f => Sys2Proof.Machine.execCput h f s
  | .cget h f => Sys2Proof.Machine.execCget h f s
  | .cgetRel h f => Sys2Proof.Machine.execCgetRel h f s
  | .btx h f => Sys2Proof.Machine.execBtx h f s
  | .btabort h f => Sys2Proof.Machine.execBtabort h f s
  | .repb h f => Sys2Proof.Machine.execRepb h f s
  | .repe h f => Sys2Proof.Machine.execRepe h f s
  | .repx h f => Sys2Proof.Machine.execRepx h f s
  | .coll h f => Sys2Proof.Machine.execColl h f s
  | .draw h f => Sys2Proof.Machine.execDraw h f s
  | .slr h f => Sys2Proof.Machine.execSlr h f s
  | .slw h f => Sys2Proof.Machine.execSlw h f s
  | .force h f => Sys2Proof.Machine.execForce h f s
  | .gset h f => Sys2Proof.Machine.execGset h f s
  | .accept h f => Sys2Proof.Machine.execAccept h f s
  | .kvput h f => Sys2Proof.Machine.execKvput h f s
  | .kvcommit h f => Sys2Proof.Machine.execKvcommit h f s
  | .seal h f => Sys2Proof.Machine.execSeal h f s
  | .sfetch h f => Sys2Proof.Machine.execSfetch h f s
  | .retain h f => Sys2Proof.Machine.execRetain h f s
  | .retainR h f => Sys2Proof.Machine.execRetainR h f s
  | .dropI h f => Sys2Proof.Machine.execDropI h f s
  | .swaproot h f => Sys2Proof.Machine.execSwaproot h f s
  | .copyout h f => Sys2Proof.Machine.execCopyout h f s
  | .snap h f => Sys2Proof.Machine.execSnap h f s
  | .snapq h f => Sys2Proof.Machine.execSnapq h f s
  | .rollback h f => Sys2Proof.Machine.execRollback h f s
  | .crr h f => Sys2Proof.Machine.execCrr h f s
  | .crw h f => Sys2Proof.Machine.execCrw h f s
  | .trap h f => Sys2Proof.Machine.execTrap h f s
  | .svc h f => Sys2Proof.Machine.execSvc h f s
  | .breakI h f => Sys2Proof.Machine.execBreakI h f s
  | .iflush h f => Sys2Proof.Machine.execIflush h f s
  | .eret h f => Sys2Proof.Machine.execEret h f s
  | .pair h f => Sys2Proof.Machine.execPair h f s
  | .unpair h f => Sys2Proof.Machine.execUnpair h f s
  | .longOperationComplete l => Sys2Proof.Machine.execLongOperationComplete l s
  | .threadRotation core slot => Sys2Proof.Machine.execThreadRotation core slot s
  | .serviceArrival n => Sys2Proof.Machine.execServiceArrival n s
  | .contextArrival n => Sys2Proof.Machine.execContextArrival n s
  | .berthIncrementArrival n => Sys2Proof.Machine.execBerthIncrementArrival n s
  | .messagePlacement n => Sys2Proof.Machine.execMessagePlacement n s
  | .barrierArrival n => Sys2Proof.Machine.execBarrierArrival n s
  | .barrierRelease n => Sys2Proof.Machine.execBarrierRelease n s
  | .channelLanding n => Sys2Proof.Machine.execChannelLanding n s
  | .publishComplete core => Sys2Proof.Machine.execPublishComplete core s
  | .mergeBufferDrain level unit line => Sys2Proof.Machine.execMergeBufferDrain level unit line s
  | .flushMarkerArrival path marker => Sys2Proof.Machine.execFlushMarkerArrival path marker s
  | .chunkSend quay => Sys2Proof.Machine.execChunkSend quay s
  | .chunkLanded quay chan j => Sys2Proof.Machine.execChunkLanded quay chan j s
  | .lighterAbort n => Sys2Proof.Machine.execLighterAbort n s
  | .collectivePartialArrival opid node child => Sys2Proof.Machine.execCollectivePartialArrival opid node child s
  | .sequenceInstruction core => Sys2Proof.Machine.execSequenceInstruction core s
  | .launchValidation l => Sys2Proof.Machine.execLaunchValidation l s
  | .channelBinding l => Sys2Proof.Machine.execChannelBinding l s
  | .dispatch l => Sys2Proof.Machine.execDispatch l s
  | .launchCompletion l => Sys2Proof.Machine.execLaunchCompletion l s
  | .launchCommand q => Sys2Proof.Machine.execLaunchCommand q s
  | .cancel q => Sys2Proof.Machine.execCancel q s
  | .resolve q => Sys2Proof.Machine.execResolve q s
  | .rpcReply q => Sys2Proof.Machine.execRpcReply q s
  | .inval q => Sys2Proof.Machine.execInval q s
  | .completionQueueFlush q => Sys2Proof.Machine.execCompletionQueueFlush q s
  | .drawLock slate => Sys2Proof.Machine.execDrawLock slate s
  | .caDecrementArrival n => Sys2Proof.Machine.execCaDecrementArrival n s
  | .snapshotDieStart j die => Sys2Proof.Machine.execSnapshotDieStart j die s
  | .snapshotRecord j a => Sys2Proof.Machine.execSnapshotRecord j a s
  | .snapshotComplete j => Sys2Proof.Machine.execSnapshotComplete j s
  | .clapper j die => Sys2Proof.Machine.execClapper j die s
  | .pageWalkComplete die ctx va => Sys2Proof.Machine.execPageWalkComplete die ctx va s
  | .rankRelocationComplete ctx rank phys => Sys2Proof.Machine.execRankRelocationComplete ctx rank phys s
  | .remoteScratchpadAccess l => Sys2Proof.Machine.execRemoteScratchpadAccess l s
  | .atomicPerformed l => Sys2Proof.Machine.execAtomicPerformed l s
  | .watchdogExpiry l => Sys2Proof.Machine.execWatchdogExpiry l s
  | .qctlWrite q v => Sys2Proof.Machine.execQctlWrite q v s
  | .qcqWrite q v => Sys2Proof.Machine.execQcqWrite q v s
  | .qintWrite q v => Sys2Proof.Machine.execQintWrite q v s
  | .qcqhWrite q v => Sys2Proof.Machine.execQcqhWrite q v s
  | .atsTranslationCompletion die pasid range r w u => Sys2Proof.Machine.execAtsTranslationCompletion die pasid range r w u s
  | .atsInvalidationRequest pasid iova size => Sys2Proof.Machine.execAtsInvalidationRequest pasid iova size s
  | .priPageResponse die pasid iova ans => Sys2Proof.Machine.execPriPageResponse die pasid iova ans s
  | .contextCreate c v => Sys2Proof.Machine.execContextCreate c v s
  | .preempt c => Sys2Proof.Machine.execPreempt c s
  | .resumeI c => Sys2Proof.Machine.execResumeI c s
  | .teardown c => Sys2Proof.Machine.execTeardown c s
  | .loadI c => Sys2Proof.Machine.execLoadI c s
  | .slateGrant slate ctx => Sys2Proof.Machine.execSlateGrant slate ctx s
  | .ctxjobWrite c v => Sys2Proof.Machine.execCtxjobWrite c v s
  | .jobSnapRequest j => Sys2Proof.Machine.execJobSnapRequest j s
  | .jobRollbackRequest j => Sys2Proof.Machine.execJobRollbackRequest j s
  | .uncorrectableError array unit index => Sys2Proof.Machine.execUncorrectableError array unit index s
  | .patrolScrub sector bad => Sys2Proof.Machine.execPatrolScrub sector bad s
  | .errselWrite die v => Sys2Proof.Machine.execErrselWrite die v s
  | .errinjWrite core v => Sys2Proof.Machine.execErrinjWrite core v s
  | .pairIntervalEnd core => Sys2Proof.Machine.execPairIntervalEnd core s
  | .marginSample quay slack => Sys2Proof.Machine.execMarginSample quay slack s
  | .patch => Sys2Proof.Machine.execPatch s
  | .config => Sys2Proof.Machine.execConfig s
  | .quote => Sys2Proof.Machine.execQuote s
  | .keyLoad slot => Sys2Proof.Machine.execKeyLoad slot s
  | .keyErase slot => Sys2Proof.Machine.execKeyErase slot s
  | .pwrctlWrite v => Sys2Proof.Machine.execPwrctlWrite v s
  | .clockAdjust watts => Sys2Proof.Machine.execClockAdjust watts s
  | .corePowerGate core => Sys2Proof.Machine.execCorePowerGate core s
  | .coreWake core => Sys2Proof.Machine.execCoreWake core s
  | .deviceReset => Sys2Proof.Machine.execDeviceReset s
  | .registerWrite t v => Sys2Proof.Machine.execRegisterWrite t v s
  | .relocationAroundDefectiveCore ctx rank phys => Sys2Proof.Machine.execRelocationAroundDefectiveCore ctx rank phys s
  | .slateRequestAtSlate l => Sys2Proof.Machine.execSlateRequestAtSlate l s
  | .caRequestAtHome l => Sys2Proof.Machine.execCaRequestAtHome l s
  | .clapperArrival j die source => Sys2Proof.Machine.execClapperArrival j die source s
  | .fqheadWrite c v => Sys2Proof.Machine.execFqheadWrite c v s
  | .hostMemoryWrite w => Sys2Proof.Machine.execHostMemoryWrite w s

end Sys2Proof.Machine
end

