-- ==== Sys2Proof/Machine/Latent.lean ====
section
/-!
DEFINITION. When a corrupted code word in a core's registers, its array or a slate shows: as an instruction reads the unit, or as a move reads it out of
where it stood (R408, R410; log entry 15).
-/

namespace Sys2Proof.Machine

/-- An operand field by the order of its format. -/
def opField (u : List Nat) (i : Nat) : Nat := u.getD (5 + i) 0

/-- The operand fields of format S or SL that name X registers read, by place: D, A, B (R42). -/
def xPlacesS (op fn : Nat) : List Nat :=
  if op = 0x01 ∨ op = 0x03 then (if fn < 19 then [1, 2] else [2])
  else if op ∈ [0x02, 0x04, 0x50, 0x58, 0x63] then [1, 2]
  else if op = 0x05 then (if fn = 5 then [1, 2] else [])
  else if op = 0x06 then (if fn = 3 then [0, 1, 2] else [1, 2])
  else if op = 0x0A then (if fn < 2 then [1] else [])
  else if op = 0x43 then (if fn = 2 ∨ fn = 3 then [1] else [])
  else if op ∈ [0x51, 0x56] then [0, 1, 2]
  else if op = 0x61 then (if fn = 2 then [1] else [])
  else if op = 0x6A then (if fn = 1 then [1, 2] else [])
  else if op = 0x76 then (if fn = 0 then [] else [1])
  else if op = 0x7A then (if fn = 0 then [1] else [])
  else if op ∈ [0x64, 0x79, 0x7C] then [1]
  else []

/-- The same for format E, whose C and F stand at the places 7 and 8. -/
def xPlacesE (op fn fl : Nat) : List Nat :=
  if op = 0x55 then [1, 2, 7] ++ if fn = 7 then [8] else []
  else if op = 0x62 then [1, 2, 7, 8]
  else if op = 0x65 then (if fn = 0 then [1, 2] else [1])
  else if op = 0x66 then (if fn = 0 then [1, 7] else if fl = 1 then [] else [8])
  else if op = 0x68 then (if fn = 0 then [1, 2] else [1])
  else if op = 0x70 then [1, 2, 7]
  else if op = 0x71 then (if fn = 0 then [1] else [1, 2])
  else if op = 0x73 then (if fn = 0 then [1, 2, 7, 8] else [1, 2])
  else if op = 0x74 then (if fn = 3 ∨ fn = 2 ∧ fl ≠ 1 then [1] else [1, 2])
  else if op ∈ [0x60, 0x6B, 0x72, 0x75] then [1, 2]
  else []

/-- The X registers that an instruction's word reads (R42, R46, R117, R119, R144). -/
def xCodes (w : Nat) : List Nat :=
  let op := bits 8 2 w
  match majorFormat op with
  | some .s => let u := unpack sWidths w; (xPlacesS op (opField u 4)).map (opField u) ++ if op = 0x0A ∧ opField u 4 = 2 then [9] else []
  | some .sl => let u := unpack slWidths w; (xPlacesS op (opField u 4)).map (opField u)
  | some .e =>
    let u := unpack eWidths w
    let v := u.take 12 ++ [opField u 7 % 16, opField u 7 / 16 % 16]
    (xPlacesE op (opField u 4) (opField u 5)).map (opField v)
  | some .v => let u := unpack vWidths w; [opField u 2, opField u 4]
  | some .m => let u := unpack mWidths w; [opField u 0, opField u 1] ++ if opField u 6 = 1 then [opField u 2] else []
  | none => []

/-- The V registers that an instruction's word reads, as it names them (R119 to R139, R160, R175, R178). -/
def vCodes (w : Nat) : List Nat :=
  let op := bits 8 2 w
  match majorFormat op with
  | some .s =>
    let u := unpack sWidths w
    if op = 0x43 ∧ opField u 4 = 3 then [opField u 5 % 32] else []
  | some .e =>
    let u := unpack eWidths w
    if op = 0x55 then [bits 6 2 (opField u 5)] else []
  | some .v =>
    let u := unpack vWidths w
    let fn := opField u 6
    let b := if opField u 2 = 10 then [opField u 3] else []
    if op = 0x20 then [opField u 1] ++ (if fn = 8 ∨ fn = 9 then [] else b) ++ (if 3 ≤ fn ∧ fn ≤ 5 then [opField u 0] else [])
    else if op = 0x21 ∨ op = 0x22 then opField u 1 :: b
    else if op = 0x26 then (if fn = 0 then [opField u 1, opField u 3] else if fn = 1 ∨ fn = 4 then [] else [opField u 1])
    else if op = 0x27 then [opField u 0, opField u 1, opField u 3]
    else if op = 0x53 then (if fn = 2 then [opField u 3] else [])
    else if op = 0x54 then opField u 0 :: if fn = 2 then [opField u 3] else []
    else [opField u 1]
  | _ => []

/-- An instruction of the thread at a place reads a unit of its core's array: a row of accumulators or, in an MMA, the weight plane (R148, R160). -/
def readsArray (a : ArrayState) (th : Thread) (i : Instr) (unit : Nat) : Bool :=
  let rows := fun (f : MF) => (upFrom 0 (f.rown.toNat + 1)).any fun r => unit / 64 == accKey a.role (f.rowb.toNat + r)
  match i with
  | .aread _ f => unit / 64 == accKey (if bit 0 f.fl.toNat then a.role else a.visible) (rowOf f th)
  | .mma .. => decide (32768 ≤ unit)
  | .mmaAcc _ f => decide (32768 ≤ unit) || rows f
  | _ => false

/-- An instruction of a thread, or a DRAW at its lock, reads a unit of a slate: S0 to S7, and from 8 its other fields (R339, R341 to R346, R351). -/
def readsSlate (th : Option Thread) (i : Instr) (slate unit : Nat) : Bool :=
  let at_ := fun (a : BitVec 4) => th.any fun t => (src t a).v.toNat == slate
  match i with
  | .slr _ f => at_ f.a && unit == f.imm.toNat
  | .force _ f => at_ f.a && decide (8 ≤ unit)
  | .gset _ f => at_ f.a && unit == 18
  | .accept _ f => at_ f.a && decide (8 ≤ unit)
  | .kvput _ f => at_ f.a && decide (8 ≤ unit)
  | .kvcommit _ f => at_ f.a && decide (8 ≤ unit)
  | .drawLock n => n == slate
  | _ => false

/-- An instruction at the current place reads a unit that holds a corrupted code word (R410). -/
def State.readsUnit (s : State) (i : Instr) (x : Upset) : Bool :=
  let w := (encode i).getD 0
  let here := x.place == s.here
  match s.thread with
  | none => x.array == 9 && readsSlate none i x.place x.unit
  | some th =>
    (x.array == 3 && here && readsArray (s.core s.here).arr th i x.unit)
      || (x.array == 4 && here && (vCodes w).any fun r => x.unit / 64 == th.vbase + r)
      || (x.array == 5 && here && (xCodes w).any fun r => decide (r ≤ 9) && x.unit == threadUnit s.cur r)
      || (x.array == 9 && readsSlate (some th) i x.place x.unit)

/-- A corrupted code word shows (R408, R410). -/
def State.showUpset (s : State) (x : Upset) : State :=
  let t := { s with latent := s.latent.erase x }
  let p := t.errPlace x.array x.place x.unit
  if x.kind = 1 then t.logErr (min 7 (dieOf p)) x.array 0 (t.unitCtx x.array x.place) p (errAddr x.array x.place x.unit)
  else t.showError x.array x.place x.unit

/-- The corrupted code words that an instruction reads show before it runs (R410). -/
def State.showReads (s : State) (i : Instr) : State := (s.latent.filter (s.readsUnit i)).foldl State.showUpset s

/-- The place whose registers a unit of class 5 below `queuedUnit` belongs to. -/
def threadPlace (core unit : Nat) : Loc :=
  if unit < 256 then { svc := false, unit := core, slot := unit / 16 } else { svc := true, unit := quayOf core, slot := unit / 16 % 16 }

/-- An agent has recorded for a snapshot between two states. -/
def State.recordedSince (s t : State) (a : SnapAgent) : Bool :=
  t.jobs.any fun j => j.2.recording.any fun r => r.recorded.any (sameCore a) && !((s.job j.1).recording.any fun q => q.recorded.any (sameCore a))

/-- A move from one state to another has read a corrupted code word out of its unit: the thread has left its slot, the core has been saved or has
recorded, or the entry has left the phase queue (R231, R325, R390, R410). -/
def Upset.readOut (s t : State) (x : Upset) : Bool :=
  let who := fun (u : State) => (u.slot (threadPlace x.place x.unit)).th.map fun th => (th.ctx, th.task)
  let core := (s.core x.place).owner != (t.core x.place).owner || s.recordedSince t (.core x.place)
  if x.array = 5 then decide (x.unit < queuedUnit) && (who s != who t || s.recordedSince t (locAgent (threadPlace x.place x.unit)))
  else if x.array = 3 ∨ x.array = 4 then core
  else if x.array = 6 then
    decide (128 ≤ x.unit) && match (s.core x.place).pq[x.unit - 128]? with
      | some e => !(t.core x.place).pq.contains e
      | none => false
  else if x.array = 9 then s.recordedSince t (.sampler (slateDie x.place))
  else false

/-- Where the unit of a corrupted code word stands after a move: pinned lines and queue entries shift; one that has been dropped is gone. -/
def Upset.after (s t : State) (x : Upset) : Option Upset :=
  if x.array = 6 ∧ x.unit < 128 then
    ((s.core x.place).pins[x.unit]?).bind fun p =>
      (firstIdx (fun (q : Pin) => q.home == p.home) (t.core x.place).pins).map fun i => { x with unit := i }
  else if x.array = 6 ∧ x.unit < 192 then
    ((s.core x.place).pq[x.unit - 128]?).bind fun e =>
      (firstIdx (fun (q : QEntry) => q == e) (t.core x.place).pq).map fun i => { x with unit := 128 + i }
  else some x

/-- A move made on a state with corrupted code words (R410): those that it reads out of their units show first. -/
def State.makeShown (s : State) (make : State → Out) : Out :=
  match make s with
  | .next t =>
    let u := (s.latent.filter (Upset.readOut s t)).foldl State.showUpset s
    (match make u with
      | .next v => .next { v with latent := v.latent.filterMap fun x => if u.latent.contains x then x.after u v else some x }
      | o => o)
  | o => o

end Sys2Proof.Machine
end

