-- ==== Sys2Proof/Machine/Owed.lean ====
section
/-!
DEFINITION. The moves of the package: what each presents, and which one is made where the schedule names none (log entry 3).
-/

namespace Sys2Proof.Machine

/-- The instructions whose requests other agents answer. -/
def requestExec (i : Instr) : Option (State → Out) := ((remoteExec i).or (atomExec i)).or ((slateExec i).or (caExec i))

/-- Issues of cores and service pipelines (R10, R103). -/
def State.issueMoves (s : State) : List Move :=
  (s.cores.filter fun c => (s.pick c.1).isSome).map (fun c => .issue c.1)
    ++ (s.quays.filter fun q => (s.pickSvc q.1).isSome).map fun q => .issueSvc q.1

/-- A move names units that the package has (R1). -/
def moveReal : Move → Bool
  | .issue core => isCore core
  | .issueSvc q => decide (q < 128)
  | .event i => i.isEvent && i.wf
  | .tick => true
  | .dropBuf core _ => isCore core
  | .dropTlb core _ => isCore core
  | .dropL2 q _ => decide (q < 128)
  | .clapper j d x => decide (j < 256) && decide (d < 8) && decide (x < 8)
  | .watchdog _ => true
  | .interval core => isCore core
  | .wake core => isCore core
  | .serve l => isLoc l
  | .relocated c _ p => decide (c < 4096) && isCore p
  | .request c => decide (c < 4096)
  | .rows core => isCore core
  | .exits d => decide (d < 8)
  | .cancels d => decide (d < 8)
  | .slip l _ _ => isLoc l

/-- What a move presents: an instruction or event to execute in a state, or the state that the move leaves. A cycle does not pass before every
core and service pipeline that can issue in it has issued, and before a pair has ended an interval that is due (R10, R12, R415). -/
def State.move (s : State) : Move → Except State (Instr × State)
  | .issue core =>
    (match s.pick core with
      | some i => (s.present { svc := false, unit := core, slot := i }).map fun p => (p.1, p.2.showReads p.1)
      | none => .error s)
  | .issueSvc q =>
    (match s.pickSvc q with
      | some i => (s.present { svc := true, unit := q, slot := i }).map fun p => (p.1, p.2.showReads p.1)
      | none => .error s)
  | .event i => .ok (i, s.showReads i)
  | .tick => .error (if s.issueMoves.isEmpty && !s.cores.any (fun c => s.intervalDue c.1) then s.tick else s)
  | .dropBuf core f => .error (s.updCore core fun c => { c with ibuf := Tab.del f c.ibuf })
  | .dropTlb core n => .error (s.updCore core fun c => { c with tlb := dropNth n c.tlb })
  | .dropL2 q n => .error (s.updQuay q fun x => { x with l2 := dropNth n x.l2 })
  | .clapper j d x => .error (s.hearClapper j d x)
  | .watchdog l => .error (s.watchdogTick l)
  | .interval core => .error (s.pairEnd core)
  | .wake core => .error (s.wakeCore core)
  | .relocated c r p => .error (s.relocated c r p)
  | .request c => .error (s.finishRequest c)
  | .rows core => .error (if (s.ctx (s.ownerOf core)).frozen then s else s.completeRows core)
  | .exits d => .error (s.exitDie d)
  | .cancels d => .error (s.cancelDie d)
  | .slip l odd flips => .error (s.slip l odd flips)
  | .serve l => .error (nextOf s (s.serve l requestExec))

/-- Only a device reset is taken after a fatal error (R412). -/
def moveAllowed (fatal : Bool) (m : Move) : Bool :=
  match m with
  | .event .deviceReset => true
  | _ => !fatal

/-- A next state with the cores recorded that the move has made record (R390, R394). -/
def recorded (o : Out) : Out :=
  match o with
  | .next t => .next t.recordDue
  | o => o

/-- What a move does: what it presents is executed. -/
def State.make (m : Move) (s : State) : Out :=
  match s.move m with
  | .ok (i, t) => recorded (exec i t)
  | .error t => recorded (.next t)

/-- One move made; one that names no unit of the package changes nothing. -/
def State.take (s : State) (m : Move) : Out :=
  if moveAllowed s.fatal m then
    if moveReal m then (if s.latent.isEmpty then s.make m else s.makeShown (State.make m)) else .next s
  else .fault .stoppedByFatalError

/-- A move that changes the state. -/
def State.moves (s : State) (m : Move) : Bool :=
  match s.take m with
  | .next t => decide (t ≠ s)
  | _ => false

/-- The event that delivers the packet at a position of the network (R195, R103, R215, R219, R220, R226, R271, R370). -/
def deliverEvent (s : State) (n : Nat) (p : Packet) : Instr :=
  match p.kind with
  | .context k _ => if k = 2 then .serviceArrival n else .contextArrival n
  | .inc .. => if s.toBarrier n then .barrierArrival n else .berthIncrementArrival n
  | .place .. => .messagePlacement n
  | .write _ => .messagePlacement n
  | .chan .. => .channelLanding n
  | .release _ => .barrierRelease n
  | .abort .. => .lighterAbort n
  | .caDec .. => .caDecrementArrival n

/-- The packets in flight, oldest first. -/
def State.packetMoves (s : State) : List Move :=
  (s.net.zip (upFrom 0 s.net.length)).map fun p => .event (deliverEvent s p.2 p.1)

/-- The places of a core's barrel, and of a quay's service pipeline. -/
def State.places (s : State) : List Loc :=
  (s.cores.flatMap fun c => (upFrom 0 16).map fun i => { svc := false, unit := c.1, slot := i })
    ++ s.quays.flatMap fun q => (upFrom 0 16).map fun i => { svc := true, unit := q.1, slot := i }

/-- Requests and walks that threads wait for (R172, R183, R313, R340, R369). -/
def State.requestMoves (s : State) : List Move :=
  s.places.filterMap fun l =>
    let x := s.slot l
    match x.stall, x.th with
    | some .request, some _ => some (.serve l)
    | some (.walk va), some t => some (.event (.pageWalkComplete (dieOf (locCore l)) t.ctx va))
    | _, _ => none

/-- What front ends, snapshot engines and pairs owe. -/
def State.controlMoves (s : State) : List Move :=
  s.launchOwes.toList ++ (s.queueOwes.map Move.event).toList ++ s.jobs.filterMap (fun j => s.snapOwes j.1)
    ++ (s.cores.filter fun c => s.intervalDue c.1).map (fun c => .interval c.1)
    ++ (s.ctxs.filter fun c => c.2.frozen || c.2.state == 5 || (c.2.state == 1 && (c.2.dueSave.isSome || c.2.stir))).map (fun c => .request c.1)
    ++ (s.cores.filter fun c => (s.rowprog c.1).getLsbD 10).map (fun c => .rows c.1)
    ++ (s.ctxs.filter fun c => c.2.state == 1).flatMap fun c => (c.2.ranks.filter fun r => r.2.state == 2).flatMap fun r =>
        r.2.moving.toList.map fun k => .relocated c.1 r.1 k

/-- Lines that merge buffers hold: each starts toward its home at once (R233). -/
def State.drainMoves (s : State) : List Move :=
  s.quays.flatMap (fun q => q.2.merge.map fun m => .event (.mergeBufferDrain 0 q.1 m.line))
    ++ s.dies.flatMap (fun d => d.2.merge.map fun m => .event (.mergeBufferDrain 1 d.1 m.line))
    ++ s.pkgMerge.map fun m => .event (.mergeBufferDrain 2 0 m.line)

/-- The walks that chunks in flight wait for (R263, R313). -/
def State.chunkWalks (s : State) : List Move :=
  if s.prompt then []
  else s.quays.flatMap fun q => q.2.chans.flatMap fun c => c.2.copies.flatMap fun k =>
    (k.flight.filter fun x => !x.ready && !x.parked).flatMap fun x => x.wait.toList.map fun va =>
      .event (.pageWalkComplete (q.1 / 16) k.kick.ctx va)

/-- What engines owe: publishes, drains, draws, sequences, copies, collective operations, and cores that wake. -/
def State.engineMoves (s : State) : List Move :=
  (s.cores.filter fun c => !c.2.pubs.isEmpty).map (fun c => .event (.publishComplete c.1))
    ++ s.drainMoves
    ++ (s.slates.filter fun x => x.2.readyGroup.isSome).map (fun x => .event (.drawLock x.1))
    ++ (s.cores.filter fun c => c.2.rpt.running).map (fun c => .event (.sequenceInstruction c.1))
    ++ s.quays.flatMap (fun q => .event (.chunkSend q.1) :: q.2.chans.flatMap fun c => c.2.copies.flatMap fun k => k.flight.map fun f =>
        .event (.chunkLanded q.1 c.1 f.j))
    ++ s.quays.flatMap (fun q => (q.2.chans.filter fun c => !c.2.copies.isEmpty || !c.2.pending.isEmpty).map fun c => .event (.chunkLanded q.1 c.1 0))
    ++ s.chunkWalks
    ++ s.dies.flatMap (fun d => d.2.colls.flatMap fun o => o.nodes.flatMap fun n =>
        [.event (.collectivePartialArrival o.opid (o.parents.getD n.node 0xFFFF) n.node)])
    ++ (s.cores.filter fun c => c.2.wake.isSome).map fun c => .wake c.1

/-- The move that is made when the schedule names none (log entry 3): the first that is owed and changes the state, else the first issue, else a
cycle passes. -/
def State.defaultMove (s : State) : Move :=
  match s.packetMoves.find? s.moves with
  | some m => m
  | none => match s.controlMoves.find? s.moves with
    | some m => m
    | none => match s.requestMoves.find? s.moves with
      | some m => m
      | none => match s.engineMoves.find? s.moves with
        | some m => m
        | none => (s.issueMoves.head?).getD .tick

/-- The next move and the state without it. -/
def State.nextMove (s : State) : Move × State :=
  match s.schedule with
  | m :: t => (m, { s with schedule := t })
  | [] => (s.defaultMove, s)

end Sys2Proof.Machine
end

