-- ==== Sys2Proof/Machine/Place.lean ====
section
/-!
DEFINITION. How a program comes to run in the model's tests: a context, a page of code and a task in slot 0 of core 0 (log entry 9).
-/

namespace Sys2Proof.Machine

/-- The virtual and home address of the code that `placeWord` lays down. -/
def codeBase : Nat := 0x10000000

/-- The page of code: 64 KiB, executable and writable, ORDINARY. -/
def codePage : Pte :=
  { va := codeBase, lgs := 16, present := true, write := true, exec := true, cls := .ordinary, key := 0, cow := false, dirty := false,
    accessed := false, tagEn := false, global := false, frame := codeBase }

/-- The task that runs the code: context 0, rank 0, level T, no quota, no array access. -/
def codeTask : Thread := { status := 1, pc := BitVec.ofNat 64 codeBase }

/-- One instruction laid down at the code page and a task placed before it, so that the next step runs it: everything that a context's
creation, a load and a launch would have made (R291, R320, R334). -/
def State.placeWord (s : State) (nbits w : Nat) : State :=
  let s1 := s.updCtx 0 fun c =>
    { c with state := 1, ranks := Tab.set 0 { state := 1, phys := 0 } c.ranks, ptes := codePage :: c.ptes }
  let s2 := { s1 with
    mem := s1.mem.writeN codeBase (toBytes 16 (w % 2 ^ nbits))
    net := []
    schedule := [.issue 0]
    fatal := false
    recent := [] }
  s2.updCore 0 fun c =>
    { c with slots := setNth { th := some codeTask } 0 c.slots, lastSlot := 15, issuedAt := none, gated := false, owner := some 0, ibuf := [],
             rpt := {} }

end Sys2Proof.Machine
end

