-- ==== Sys2Proof/Safety.lean ====
section
/-!
DEFINITION. The terms in which statements about the package are made: a thread about to run an instruction, a place whose trap entry can be taken, and
what a step keeps.
-/

namespace Sys2Proof

/-- The package still runs: no fatal error has stopped it (R412). -/
def Safe (s : Machine.State) : Prop := s.fatal = false

namespace Machine

/-- The current place, which lies on one of the package's 4,096 cores (R1), holds a thread whose guard is true and whose repetition capture or
sequence is not under way (R48, R273). -/
structure Runs (s : State) (th : Thread) (h : Hdr) : Prop where
  thread : s.thread = some th
  guard : guardOk h th = true
  free : (s.core s.here).rpt.owner ≠ some th.task
  here : s.here < 4096

/-- What every step keeps: memory in canonical form (the model's own, log entry 1), and the current place on one of the package's 4,096 cores
(R1). -/
structure Sound (s : State) : Prop where
  mem : s.mem.wf = true
  here : s.here < 4096

/-- What a core holds besides its slots, the record of its issues and what its pair interval makes of their results (R10, R29, R410, R414, R415). -/
def Core.rest (c : Core) : Core :=
  { c with slots := [], lastSlot := 0, issuedAt := none, instret := 0, errinj := 0, pair := { c.pair with retired := 0, alone := false, prints := [], upset := false } }

/-- What a quay holds besides its service slots and the record of their issues (R103). -/
def Quay.rest (q : Quay) : Quay := { q with svc := [], svcLast := 0, svcIssuedAt := none }

/-- What the package holds besides its cores, its quays, the record of the last issues (R11) and the errors injected (R410). -/
def State.rest (s : State) : State := { s with cores := [], quays := [], latent := [], recent := [] }

/-- `t` is `s` but for the slot of the current place and the record of an issue: every other place, every core's V registers, array state, berths,
queues and buffers, all of memory, the network, and the state of every engine and front end are the same. -/
structure Keeps (s t : State) : Prop where
  rest : t.rest = s.rest
  cores : ∀ n, (t.core n).rest = (s.core n).rest
  quays : ∀ n, (t.quay n).rest = (s.quay n).rest
  places : ∀ l, l ≠ s.cur → t.slot l = s.slot l

/-- An instruction of the current thread that goes on: its outcome is a next state that keeps `base` and in which the thread is `th`. -/
def Goes (base : State) (th : Thread) (o : Out) : Prop := ∃ t, o = .next t ∧ t.thread = some th ∧ Keeps base t

/-- As `Goes`, for an instruction that opens a window: it is the youngest of the place, and its latch holds `o` until it closes (R16, R17). -/
def Opens (s base : State) (th : Thread) (maj : Nat) (h : Hdr) (latch : List LatchWrite) (o : Out) : Prop :=
  ∃ t, o = .next t ∧ t.thread = some th ∧ Keeps base t
    ∧ ∃ w, t.curSlot.wins = s.curSlot.wins.map (fun x => { x with left := x.left - 1 }) ++ [w]
      ∧ w.major = maj ∧ w.left = h.la.toNat ∧ w.latch = latch ∧ w.late = []

/-- An instruction of `len` bytes whose effect is to write `w` to the X register that `code` names; code 10 discards (R83). -/
def WritesX (s : State) (th : Thread) (len : Nat) (code : BitVec 4) (w : PWord) (o : Out) : Prop :=
  Goes s { th.writeX code w with pc := th.pc + BitVec.ofNat 64 len } o

/-- An instruction of 8 bytes whose effect is to write `b` to predicate `i`; p0 ignores it (R25). -/
def WritesP (s : State) (th : Thread) (i : BitVec 4) (b : Bool) (o : Out) : Prop :=
  Goes s { th.setP i.toNat b with pc := th.pc + 8 } o

/-- A jump: the PC moves to `a` (R94 to R96). -/
def JumpsTo (s : State) (th : Thread) (a : Word) (o : Out) : Prop := Goes s { th with pc := a } o

/-! What vector instructions read and write (R115 to R122) -/

/-- Element `i` of a V register whose elements lie `k` lanes apart, `w` bits of it, and whether a lane of it is poisoned (R115, R403). -/
def held (c : Core) (r k w i : Nat) : Nat × Bool :=
  (((c.v r).extractLsb' (32 * k * i) w).toNat, (List.range k).any fun j => (c.vp r).getLsbD (k * i + j))

/-- Element `i` of `k` lanes is enabled by the mask of a vector instruction (R117). -/
def enabled (th : Thread) (f : VF) (k i : Nat) : Bool := if f.msk.toNat ≤ 9 then (th.xreg f.msk.toNat).v.getLsbD (k * i) else true

/-- The mask register is poisoned, and with it every element of the result (R404). -/
def maskDirty (th : Thread) (f : VF) : Bool := decide (f.msk.toNat ≤ 9) && (th.xreg f.msk.toNat).p

/-- The B operand of R119 for elements of `w` bits, `k` lanes apart. -/
def operandB (c : Core) (th : Thread) (f : VF) (k w i : Nat) : Nat × Bool :=
  if f.xs = 10 then held c (th.vbase + f.vb.toNat) k w i
  else if f.xs = 11 then ((f.imm.signExtend 64).toNat % 2 ^ w, false)
  else if f.xs.toNat ≤ 9 then ((th.xreg f.xs.toNat).v.toNat % 2 ^ w, (th.xreg f.xs.toNat).p)
  else (0, false)

/-- The V registers named lie within the thread's quota, and the thread stands on its core (R26, R114). -/
def Owns (th : Thread) (rs : List (BitVec 5)) : Prop := th.svc = false ∧ ∀ r ∈ rs, r.toNat < th.vq

/-- An instruction that writes fields of `step` bits of VD: enabled field `i` becomes `new i`, every other bit of VD stays, `acc` joins ACCSTAT
(R63), and the thread goes on as `th'`. -/
def WritesFields (s : State) (th th' : Thread) (vd : BitVec 5) (en : Nat → Bool) (step n : Nat) (acc : BitVec 32) (new : Nat → Nat) (o : Out) :
    Prop :=
  let r := th.vbase + vd.toNat
  let old := (s.core s.here).v r
  ∃ v p, Goes (s.updCore s.here fun c => { c.setV r v p with accstat := c.accstat ||| acc, accNew := c.accNew ||| acc }) th' o ∧
    (∀ i < n, en i = true → v.extractLsb' (step * i) step = BitVec.ofNat step (new i)) ∧
    (∀ b < 2048, (en (b / step) = false ∨ step * n ≤ b) → v.getLsbD b = old.getLsbD b)

/-- An instruction that writes the elements of VD that `en` names, `k` whole lanes each, with their poison; any other element keeps its value. -/
def WritesElems (s : State) (th : Thread) (f : VF) (k : Nat) (en : Nat → Bool) (new : Nat → Nat × Bool) (o : Out) : Prop :=
  let r := th.vbase + f.vd.toNat
  let c := s.core s.here
  ∃ v p, Goes (s.updCore s.here fun c => c.setV r v p) { th with pc := th.pc + 8 } o ∧
    (∀ i < 64 / k, v.extractLsb' (32 * k * i) (32 * k) =
      if en i then BitVec.ofNat (32 * k) (new i).1 else (c.v r).extractLsb' (32 * k * i) (32 * k)) ∧
    (∀ l < 64, p.getLsbD l = (maskDirty th f || if en (l / k) then (new (l / k)).2 else (c.vp r).getLsbD l))

/-- A node of the reduction tree of R134. -/
def redNode {α : Type} (comb : α → α → α) (leaf : Nat → Option α) : Nat → Nat → Option α
  | 0, i => leaf i
  | l + 1, i => match redNode comb leaf l (2 * i), redNode comb leaf l (2 * i + 1) with
    | some x, some y => some (comb x y)
    | some x, none => some x
    | none, y => y

/-! What loads and stores read and write (R164 to R180) -/

/-- Nothing but its own checks stands in the way of the current thread's accesses: no corrupted code word waits to show, no range is guarded, no
window is undecided or has an output to store, no monitor is armed, the gang is not paired, and the core's phase queue and snapshot cache are empty, as are the
merge buffers that stand before them, and every die of a snapshot under way has started. -/
structure Quiet (s : State) : Prop where
  latent : s.latent = []
  board : (s.core s.here).board = []
  late : ∀ w ∈ s.curSlot.wins, w.late = [] ∧ w.decided = true
  monitors : ∀ q, (s.quay q).monitors = []
  unpaired : s.isPaired s.here = false
  queue : (s.core s.here).pq = [] ∧ (s.core s.here).pubs = []
  pins : (s.core s.here).pins = []
  merge : (∀ q, (s.quay q).merge = []) ∧ (∀ d, (s.die d).merge = []) ∧ s.pkgMerge = []
  started : ∀ j r, (s.job j).recording = some r → ∀ d ∈ r.dies, d ∈ r.started

/-- The core's phase queue and the merge buffers before it are empty, and its gang is not paired: a publish has nothing to carry (R231, R233). -/
structure Flushed (s : State) : Prop where
  queue : (s.core s.here).pq = [] ∧ (s.core s.here).pubs = []
  merge : (∀ q, (s.quay q).merge = []) ∧ (∀ d, (s.die d).merge = []) ∧ s.pkgMerge = []
  unpaired : s.isPaired s.here = false

/-- The address of `n` aligned bytes at offset `off` of the core's own scratchpad, as a thread outside a service slot forms it (R164). -/
def OwnAt (th : Thread) (ea : Word) (off n : Nat) : Prop :=
  th.svc = false ∧ ea.toNat < 2 ^ 60 ∧ ea.toNat % 2 ^ 56 = 0x00FFFFFFFFFC0000 + off ∧ off + n ≤ 2 ^ 18 ∧ off % n = 0

/-- The address of `n` aligned bytes at offset `off` of a quay's shared memory (R164, R165). -/
def QuayAt (ea : Word) (q off n : Nat) : Prop :=
  ea.toNat < 2 ^ 60 ∧ ea.toNat % 2 ^ 56 = 0x00FD000000000000 + q * 2 ^ 23 + off ∧ q < 128 ∧ off + n ≤ 2 ^ 23 ∧ off % n = 0

/-- The address of `n` aligned bytes on an ORDINARY page without tags or key that the core's TLB holds, at home address `home` (R167, R313). -/
def PageAt (s : State) (th : Thread) (ea : Word) (p : Pte) (home n : Nat) : Prop :=
  ea.toNat < 0x00FC000000000000 ∧ cached th.ctx ea.toNat (s.core s.here).tlb = some p ∧ p.cls = .ordinary ∧ p.tagEn = false ∧ p.key = 0 ∧
    home = p.frame + (ea.toNat - p.va) ∧ home % n = 0 ∧ ea.toNat % n = 0

/-- Base of an address: an X register, zero, or the instruction's own address (R42, R169). -/
def baseOf (th : Thread) (a : BitVec 4) : PWord :=
  if a.toNat ≤ 9 then th.xreg a.toNat else if a = 12 then { v := th.pc, p := false } else { v := 0, p := false }

/-- The effective address of R169 and whether a register that it reads is poisoned. -/
def effective (th : Thread) (a b : BitVec 4) (fl : BitVec 8) (imm : BitVec 16) : PWord :=
  let x := baseOf th a
  if b.toNat ≤ 9 then { v := x.v + (th.xreg b.toNat).v * BitVec.ofNat 64 (2 ^ (fl.toNat % 4)), p := x.p || (th.xreg b.toNat).p }
  else if b = 10 then x
  else { v := x.v + imm.signExtend 64, p := x.p }

/-- An instruction that stores in the core's own scratchpad: memory becomes `m` and its poison follows, the jobs' view of what has been written with
it, the launches become `ls`, and nothing else changes but the thread. -/
def StoresOwn (s : State) (ls : Tab Launch) (th' : Thread) (m : Nat → Byte) (o : Out) : Prop :=
  ∃ mem po js, Goes { s with mem := mem, poison := po, jobs := js, launches := ls } th' o ∧ ∀ a, mem.read a = m a

/-- Element `i` of a vector access lies `k` lanes up in its register and has `n` bytes (R176). -/
def laneOf (ty n : Nat) (x : Nat) : Nat := if ty = 5 ∨ ty = 6 then ((BitVec.ofNat (8 * n) x).signExtend 32).toNat else x % 2 ^ (8 * n)

/-! What events find (R195 to R202, R216, R306, R319) -/

/-- The packet at a position of the network has its turn at a core: none of its sender to its rank goes before it, no packet that was held for a rank
does, it was not itself held, it waits for no marker, it is of its context's generation, its rank is ACTIVE on that core, which has not sent it in this cycle, its context is in
no job, and the core is neither paired nor gated. -/
structure Turn (s : State) (n : Nat) (p : Packet) (core : Nat) : Prop where
  here : s.net[n]? = some p
  marker : p.marker = none
  first : ∀ m < n, ∀ q, s.net[m]? = some q → ¬ (q.src = p.src ∧ q.ctx = p.ctx ∧ q.rank = p.rank)
  fwd : ∀ m ≤ n, ∀ q, s.net[m]? = some q → q.fwd = none
  cycle : p.src ≠ core ∨ p.cycle ≠ s.cycle
  doomed : p.doomed = false
  rank : p.rank < 2 ^ 24
  gen : p.gen = (s.ctx p.ctx).gen
  active : ((s.ctx p.ctx).rank p.rank).state = 1
  phys : ((s.ctx p.ctx).rank p.rank).phys = core
  job : (s.ctx p.ctx).member = false
  unpaired : s.isPaired core = false
  gated : (s.core core).gated = false

/-- As `Turn`, for a packet to an engine: its rank field holds the engine's number (R271, R370). -/
structure EngineTurn (s : State) (n : Nat) (p : Packet) : Prop where
  here : s.net[n]? = some p
  marker : p.marker = none
  first : ∀ m < n, ∀ q, s.net[m]? = some q → ¬ (q.src = p.src ∧ q.rank = p.rank)
  fwd : ∀ m < n, ∀ q, s.net[m]? = some q → q.fwd = none
  gen : p.ctx < 4096 → p.gen = (s.ctx p.ctx).gen
  job : (s.ctx p.ctx).member = false

/-- No engine has work in hand: no copy, no kick that waits, no collective operation, no parked item, no armed monitor. -/
structure Still (s : State) : Prop where
  chans : ∀ q ∈ s.quays, ∀ c ∈ q.2.chans, c.2.copies = [] ∧ c.2.pending = []
  colls : ∀ d ∈ s.dies, d.2.colls = []
  parked : ∀ c, (s.ctx c).parked = []
  monitors : ∀ q, (s.quay q).monitors = []

/-- A queue's next command stands in slot HEAD: the queue is armed, and the slot's 128 bytes `b` end with the queue's generation (R304, R306). -/
structure Offers (s : State) (q : Nat) (b : List Byte) : Prop where
  armed : (s.queue q).armed = true
  bytes : s.mem.readN (128 * (16 * q + (s.queue q).head)) 128 = b
  gen : (b.getD 127 0).toNat = (s.queue q).egen

/-- A field of `n` bytes, little-endian. -/
def field (b : List Byte) (off n : Nat) : Nat := ofBytes ((b.drop off).take n)

/-- The queue after slot HEAD has been taken (R306). -/
def taken (x : WorkQueue) : WorkQueue :=
  { x with
    waited := false
    head := (x.head + 1) % 16
    taken := (x.taken + 1) % 2 ^ 32
    egen := if x.head = 15 then (if x.egen = 255 then 1 else x.egen + 1) else x.egen }

/-- Slot HEAD of queue `q` is taken and its command completes with STATUS `st`: its record says so, the completion-queue entry is held where the queue
has one, and the rest of the state is `base`'s (R298, R306, R310). -/
def Answers (s base : State) (q : Nat) (st : Nat) (o : Out) : Prop :=
  let x := s.queue q
  let at_ := 0x04000000 + 32 * (16 * q + x.head)
  let ltag := ofBytes (s.mem.readN (128 * (16 * q + x.head) + 12) 2)
  ∃ t, o = .next t ∧ t.mem.readN at_ 4 = toBytes 1 st ++ [0] ++ toBytes 2 ltag ∧ t.mem.readN (at_ + 4) 28 = List.replicate 28 0 ∧
    (∀ a, ¬ (at_ ≤ a ∧ a < at_ + 32) → t.mem.read a = base.mem.read a) ∧
    t.queue q = { taken x with held := x.held ++
      if x.lgc = 0 then [] else [{ slot := x.head, status := st, ltag := ltag, code := 0, taken := x.taken, at_ := s.time }] } ∧
    t.cores = base.cores ∧ t.launches = base.launches ∧ t.net = base.net ∧ t.ctxs = base.ctxs

end Machine

end Sys2Proof
end

