-- ==== Sys2Proof/Certificates/Slice0/Obligations.lean ====
section
/-!
DEFINITION. The statements for the provers. Each is a definition under its own name; its docstring names the rules of the specification that it
states, or says that it rests on a choice of the model.
-/

open Sys2Proof Sys2Proof.Machine

/-- The binary operations of majors 0x01 and 0x03 (R83, R85): the operation of width w on the low w bits of the sources, sign- or zero-extended as
the table's Ext column says, and written to D; nothing else but the PC changes. A result is poisoned when a source is (R404). -/
def Obligations.IntegerBinary : Prop :=
  ∀ (s : State) (th : Thread) (h : Hdr) (f : SF) (g : SLF), Runs s th h →
    (let w := widthOf f.sz
     let a := srcA f th
     let b := srcB f th
     let x : BitVec w := a.v.setWidth w
     let y : BitVec w := b.v.setWidth w
     let n := y.toNat % w
     let S := fun (r : BitVec w) => (r.signExtend 64 : Word)
     let U := fun (r : BitVec w) => (r.setWidth 64 : Word)
     let two := fun (r : Word) (o : Out) => WritesX s th 8 f.d { v := r, p := a.p || b.p } o
     two (S (x + y)) (exec (.add h f) s) ∧
     two (S (x - y)) (exec (.sub h f) s) ∧
     two (S (x &&& y)) (exec (.andI h f) s) ∧
     two (S (x ||| y)) (exec (.orI h f) s) ∧
     two (S (x ^^^ y)) (exec (.xor h f) s) ∧
     two (S (x &&& ~~~y)) (exec (.andn h f) s) ∧
     two (S (x ||| ~~~y)) (exec (.orn h f) s) ∧
     two (S (x <<< n)) (exec (.shl h f) s) ∧
     two (U (x >>> n)) (exec (.shr h f) s) ∧
     two (S (x.sshiftRight n)) (exec (.sar h f) s) ∧
     two (S (x.rotateLeft n)) (exec (.rol h f) s) ∧
     two (S (x.rotateRight n)) (exec (.ror h f) s) ∧
     two (S (if x.sle y then x else y)) (exec (.minI h f) s) ∧
     two (S (if x.sle y then y else x)) (exec (.maxI h f) s) ∧
     two (U (if x.ule y then x else y)) (exec (.minu h f) s) ∧
     two (U (if x.ule y then y else x)) (exec (.maxu h f) s) ∧
     two (S (x * y)) (exec (.mul h f) s) ∧
     two (S (BitVec.ofInt w (x.toInt * y.toInt / 2 ^ w))) (exec (.mulh h f) s) ∧
     two (U (BitVec.ofNat w (x.toNat * y.toNat / 2 ^ w))) (exec (.mulhu h f) s)) ∧
    (let w := widthOf g.sz
     let a := srcImm th 0 g.a
     let b := srcBX g th
     let x : BitVec w := a.v.setWidth w
     let y : BitVec w := b.v.setWidth w
     let n := y.toNat % w
     let S := fun (r : BitVec w) => (r.signExtend 64 : Word)
     let U := fun (r : BitVec w) => (r.setWidth 64 : Word)
     let two := fun (r : Word) (o : Out) => WritesX s th 12 g.d { v := r, p := a.p || b.p } o
     two (S (x + y)) (exec (.addX h g) s) ∧
     two (S (x - y)) (exec (.subX h g) s) ∧
     two (S (x &&& y)) (exec (.andX h g) s) ∧
     two (S (x ||| y)) (exec (.orX h g) s) ∧
     two (S (x ^^^ y)) (exec (.xorX h g) s) ∧
     two (S (x &&& ~~~y)) (exec (.andnX h g) s) ∧
     two (S (x ||| ~~~y)) (exec (.ornX h g) s) ∧
     two (S (x <<< n)) (exec (.shlX h g) s) ∧
     two (U (x >>> n)) (exec (.shrX h g) s) ∧
     two (S (x.sshiftRight n)) (exec (.sarX h g) s) ∧
     two (S (x.rotateLeft n)) (exec (.rolX h g) s) ∧
     two (S (x.rotateRight n)) (exec (.rorX h g) s) ∧
     two (S (if x.sle y then x else y)) (exec (.minX h g) s) ∧
     two (S (if x.sle y then y else x)) (exec (.maxX h g) s) ∧
     two (U (if x.ule y then x else y)) (exec (.minuX h g) s) ∧
     two (U (if x.ule y then y else x)) (exec (.maxuX h g) s) ∧
     two (S (x * y)) (exec (.mulX h g) s) ∧
     two (S (BitVec.ofInt w (x.toInt * y.toInt / 2 ^ w))) (exec (.mulhX h g) s) ∧
     two (U (BitVec.ofNat w (x.toNat * y.toNat / 2 ^ w))) (exec (.mulhuX h g) s))

/-- The unary operations of majors 0x01 and 0x03 (R83, R85): leading zeros, trailing zeros and 1 bits counted, the bits reversed, and the bytes
reversed, of the low w bits of source B. -/
def Obligations.IntegerUnary : Prop :=
  ∀ (s : State) (th : Thread) (h : Hdr) (f : SF) (g : SLF), Runs s th h →
    (let w := widthOf f.sz
     let b := srcB f th
     let y : BitVec w := b.v.setWidth w
     let one := fun (r : Word) (o : Out) => WritesX s th 8 f.d { v := r, p := b.p } o
     (∃ n ≤ w, (∀ i < w, w - n ≤ i → y.getLsbD i = false) ∧ (n < w → y.getLsbD (w - 1 - n) = true)
       ∧ one (BitVec.ofNat 64 n) (exec (.clz h f) s)) ∧
     (∃ n ≤ w, (∀ i < n, y.getLsbD i = false) ∧ (n < w → y.getLsbD n = true) ∧ one (BitVec.ofNat 64 n) (exec (.ctz h f) s)) ∧
     one (BitVec.ofNat 64 ((List.range w).countP y.getLsbD)) (exec (.popc h f) s) ∧
     (∃ r : BitVec w, (∀ i < w, r.getLsbD i = y.getLsbD (w - 1 - i)) ∧ one (r.signExtend 64) (exec (.brev h f) s)) ∧
     (∃ r : BitVec w, (∀ j < w / 8, ∀ i < 8, r.getLsbD (8 * j + i) = y.getLsbD (8 * (w / 8 - 1 - j) + i))
       ∧ one (r.signExtend 64) (exec (.bswap h f) s))) ∧
    (let w := widthOf g.sz
     let b := srcBX g th
     let y : BitVec w := b.v.setWidth w
     let one := fun (r : Word) (o : Out) => WritesX s th 12 g.d { v := r, p := b.p } o
     (∃ n ≤ w, (∀ i < w, w - n ≤ i → y.getLsbD i = false) ∧ (n < w → y.getLsbD (w - 1 - n) = true)
       ∧ one (BitVec.ofNat 64 n) (exec (.clzX h g) s)) ∧
     (∃ n ≤ w, (∀ i < n, y.getLsbD i = false) ∧ (n < w → y.getLsbD n = true) ∧ one (BitVec.ofNat 64 n) (exec (.ctzX h g) s)) ∧
     one (BitVec.ofNat 64 ((List.range w).countP y.getLsbD)) (exec (.popcX h g) s) ∧
     (∃ r : BitVec w, (∀ i < w, r.getLsbD i = y.getLsbD (w - 1 - i)) ∧ one (r.signExtend 64) (exec (.brevX h g) s)) ∧
     (∃ r : BitVec w, (∀ j < w / 8, ∀ i < 8, r.getLsbD (8 * j + i) = y.getLsbD (8 * (w / 8 - 1 - j) + i))
       ∧ one (r.signExtend 64) (exec (.bswapX h g) s)))

/-- DIV, DIVU, REM and REMU (R86): quotients truncate toward zero, a remainder carries the sign of the dividend, and division by zero and the
most negative number by -1 give the results of the table. The result waits in the landing latch of the window that the instruction opens. -/
def Obligations.Division : Prop :=
  ∀ (s : State) (th : Thread) (h : Hdr) (f : SF), Runs s th h → s.curSlot.wins.length < 2 →
    let w := widthOf f.sz
    let a := srcA f th
    let b := srcB f th
    let x : BitVec w := a.v.setWidth w
    let y : BitVec w := b.v.setWidth w
    let opens := fun (r : Word) (o : Out) =>
      Opens s s { th with pc := th.pc + 8 } 0x02 h (if f.d.toNat ≤ 9 then [.x f.d.toNat { v := r, p := a.p || b.p }] else []) o
    opens ((if y = 0 then BitVec.allOnes w else BitVec.ofInt w (Int.tdiv x.toInt y.toInt)).signExtend 64) (exec (.div h f) s) ∧
    opens ((if y = 0 then BitVec.allOnes w else x.udiv y).setWidth 64) (exec (.divu h f) s) ∧
    opens ((if y = 0 then x else BitVec.ofInt w (Int.tmod x.toInt y.toInt)).signExtend 64) (exec (.rem h f) s) ∧
    opens ((if y = 0 then x else x.umod y).setWidth 64) (exec (.remu h f) s)

/-- The compares (R87): the w-bit sources compared, signed for LT and LE and unsigned for LTU and LEU, the result set, ANDed or ORed into
predicate D, where p0 ignores the write. FL[1:0] = 11 and any bit of FL[7:2] decode to no instruction, so that they trap ILLEGAL. A poisoned source is a
use that ends the task (R405) and is not this statement's. -/
def Obligations.Compare : Prop :=
  ∀ (s : State) (th : Thread) (h : Hdr) (f : SF), Runs s th h → (srcA f th).p = false → (srcB f th).p = false →
    let w := widthOf f.sz
    let x : BitVec w := (srcA f th).v.setWidth w
    let y : BitVec w := (srcB f th).v.setWidth w
    let old := th.p f.d.toNat
    let sets := fun (c : Bool) (o : Out) =>
      (f.fl = 0 → WritesP s th f.d c o) ∧ (f.fl = 1 → WritesP s th f.d (old && c) o) ∧ (f.fl = 2 → WritesP s th f.d (old || c) o)
    sets (x == y) (exec (.cmpEq h f) s) ∧ sets (x != y) (exec (.cmpNe h f) s) ∧
    sets (x.slt y) (exec (.cmpLt h f) s) ∧ sets (x.sle y) (exec (.cmpLe h f) s) ∧
    sets (x.ult y) (exec (.cmpLtu h f) s) ∧ sets (x.ule y) (exec (.cmpLeu h f) s) ∧
    (∀ w, w % 4 = 0 → w / 4 % 128 = 0x04 → 3 ≤ w / 2 ^ 40 % 256 → ∃ e, decodeBits w = .error e)

/-- The predicate operations, PRD and PWR (R88, R89): FL negates the operands, p0 reads 1 and ignores writes, PRD reads the predicate word and
PWR writes the predicates that its mask selects. -/
def Obligations.Predicates : Prop :=
  ∀ (s : State) (th : Thread) (h : Hdr) (f : SF), Runs s th h →
    let pa := if f.fl.getLsbD 0 then !th.p f.a.toNat else th.p f.a.toNat
    let pb := if f.fl.getLsbD 1 then !th.p f.b.toNat else th.p f.b.toNat
    WritesP s th f.d (pa && pb) (exec (.pand h f) s) ∧
    WritesP s th f.d (pa || pb) (exec (.por h f) s) ∧
    WritesP s th f.d (xor pa pb) (exec (.pxor h f) s) ∧
    WritesP s th f.d (!pa) (exec (.pnot h f) s) ∧
    (∃ v : Word, v.getLsbD 0 = true ∧ (∀ i, 1 ≤ i → i < 16 → v.getLsbD i = th.p i) ∧ (∀ i, 16 ≤ i → v.getLsbD i = false) ∧
      WritesX s th 8 f.d { v := v, p := false } (exec (.prd h f) s)) ∧
    ((srcA f th).p = false → (srcB f th).p = false →
      ∃ p : BitVec 16, Goes s { th with pred := p, pc := th.pc + 8 } (exec (.pwr h f) s) ∧
        (∀ i, 1 ≤ i → i < 16 → p.getLsbD i = if (srcB f th).v.getLsbD i then (srcA f th).v.getLsbD i else th.pred.getLsbD i) ∧
        p.getLsbD 0 = th.pred.getLsbD 0)

/-- SEL, BFX, BFXU, BFI and LEA (R90, R91, R92): the selected source; the bit field of the control value extracted, sign- or zero-extended, or
inserted; and the scaled sum. -/
def Obligations.SelectFieldsAddress : Prop :=
  ∀ (s : State) (th : Thread) (h : Hdr) (f : SF), Runs s th h →
    let a := srcA f th
    let b := srcB f th
    let lsb := b.v.toNat % 64
    let len := min (b.v.toNat / 64 % 64 + 1) (64 - lsb)
    let d := if f.d.toNat ≤ 9 then th.xreg f.d.toNat else { v := 0, p := false }
    (f.fl.toNat < 16 → WritesX s th 8 f.d (if th.p f.fl.toNat then a else b) (exec (.sel h f) s)) ∧
    WritesX s th 8 f.d { v := ((a.v >>> lsb).setWidth len).signExtend 64, p := a.p || b.p } (exec (.bfx h f) s) ∧
    WritesX s th 8 f.d { v := ((a.v >>> lsb).setWidth len).setWidth 64, p := a.p || b.p } (exec (.bfxu h f) s) ∧
    (f.d.toNat ≤ 10 → ∃ t : Word, (∀ i < 64, t.getLsbD i = if lsb ≤ i ∧ i < lsb + len then a.v.getLsbD (i - lsb) else d.v.getLsbD i) ∧
      WritesX s th 8 f.d { v := t, p := d.p || a.p || b.p } (exec (.bfi h f) s)) ∧
    (f.fl.toNat < 8 → WritesX s th 8 f.d { v := a.v + b.v * BitVec.ofNat 64 (2 ^ f.fl.toNat), p := a.p || b.p } (exec (.lea h f) s))

/-- NOP does nothing; B, J and CALL go to their PC-relative targets; JR, CALLR and RET to a clean, aligned target below bit 56; CALL and CALLR
write X9, after the target is formed (R93 to R96). A register target is checked for poison, then bits [63:56], then bits [1:0] (R97). -/
def Obligations.ControlTransfer : Prop :=
  ∀ (s : State) (th : Thread) (h : Hdr) (f : SF) (g : SLF), Runs s th h →
    let rel := th.pc + (f.imm.signExtend 64) * 4
    let far := th.pc + (g.imm.signExtend 64) * 4
    let t := (srcA f th).v + f.imm.signExtend 64
    let link := fun (v : Word) => th.setX 9 { v := v, p := false }
    let good := fun (a : PWord) => a.p = false ∧ a.v.toNat < 2 ^ 56 ∧ a.v.toNat % 4 = 0
    JumpsTo s th (th.pc + 8) (exec (.nop h f) s) ∧
    JumpsTo s th rel (exec (.b h f) s) ∧
    JumpsTo s th far (exec (.j h g) s) ∧
    JumpsTo s (link (th.pc + 12)) far (exec (.call h g) s) ∧
    (good { v := t, p := (srcA f th).p } → JumpsTo s th t (exec (.jr h f) s) ∧ JumpsTo s (link (th.pc + 8)) t (exec (.callr h f) s)) ∧
    (good (th.xreg 9) → JumpsTo s th (th.xreg 9).v (exec (.ret h f) s)) ∧
    (let enters := fun (a : PWord) (o : Out) =>
      (a.p = true → o = .next (s.trapEnter s.cur 0x09 0)) ∧
      (a.p = false → 2 ^ 56 ≤ a.v.toNat → o = .next (s.trapEnter s.cur 0x08 a.v)) ∧
      (a.p = false → a.v.toNat < 2 ^ 56 → a.v.toNat % 4 ≠ 0 → o = .next (s.trapEnter s.cur 0x04 a.v))
     let u : PWord := { v := t, p := (srcA f th).p }
     enters u (exec (.jr h f) s) ∧ enters u (exec (.callr h f) s) ∧ enters (th.xreg 9) (exec (.ret h f) s))

/-! Encodings, steps and reset -/

/-- Decoding the bytes of any well-formed instruction, whatever follows them in memory, gives the instruction back with every field, and the
bytes that follow (R31 to R51). -/
def Obligations.EncodeThenDecode : Prop :=
  ∀ (i : Instr) (rest : List Byte), i.isEvent = false → i.wf = true → decodeBytes (encodeBytes i ++ rest) = .ok (i, rest)

/-- Words of the specification's worked program decode to the instructions that it gives for them (R35 to R40, chapter 4). -/
def Obligations.WorkedEncodings : Prop :=
  decodeBits 0x0000000000000000 = .ok (.nop { la := 0, gn := 0, gp := 0 } { imm := 0, fl := 0, sz := 0, b := 0, a := 0, d := 0 }) ∧
  decodeBits 0x00000000000C000100000025 = .ok (.call { la := 0, gn := 0, gp := 0 } { imm := 12, fl := 0, sz := 0, b := 0, a := 0, d := 0 }) ∧
  decodeBits 0x000000002C440010 = .ok (.cmpEq { la := 0, gn := 0, gp := 0 } { imm := 0, fl := 0, sz := 0, b := 11, a := 1, d := 1 }) ∧
  decodeBits 0x0000000200000228 = .ok (.ret { la := 0, gn := 0, gp := 1 } { imm := 0, fl := 0, sz := 0, b := 0, a := 0, d := 0 }) ∧
  decodeBits 0x0000000204080008 = .ok (.rem { la := 0, gn := 0, gp := 0 } { imm := 0, fl := 0, sz := 0, b := 1, a := 0, d := 2 }) ∧
  decodeBits 0xFFF6000000000020 = .ok (.b { la := 0, gn := 0, gp := 0 } { imm := 0xFFF6, fl := 0, sz := 0, b := 0, a := 0, d := 0 }) ∧
  decodeBits 0xFFFFFFFF = .ok .padParcel

/-- What the decoder refuses: a lone parcel with LEN 3 that is not the pad parcel (R32), a major that R50 leaves unassigned, a LEN that is not
the major's (R51), and an FN above the last FN of its major, in every format (R51, R52). -/
def Obligations.ReservedEncodings : Prop :=
  let op := fun (w : Nat) => w / 4 % 128
  let sFn := fun (w : Nat) => w / 2 ^ 32 % 256
  let vFn := fun (w : Nat) => w / 2 ^ 44 % 256
  let assigned : List Nat := [0x00, 0x01, 0x02, 0x03, 0x04, 0x05, 0x06, 0x08, 0x09, 0x0A, 0x20, 0x21, 0x22, 0x23, 0x24, 0x25, 0x26, 0x27, 0x28,
    0x40, 0x41, 0x42, 0x43, 0x50, 0x51, 0x53, 0x54, 0x55, 0x56, 0x57, 0x58, 0x60, 0x61, 0x62, 0x63, 0x64, 0x65, 0x66, 0x68, 0x6A, 0x6B,
    0x70, 0x71, 0x72, 0x73, 0x74, 0x75, 0x76, 0x78, 0x79, 0x7A, 0x7B, 0x7C]
  (∀ w, w % 4 = 3 → w % 2 ^ 32 ≠ 0xFFFFFFFF → decodeBits w = .error .badParcel) ∧
  (∀ w, w % 4 ≠ 3 → op w ∉ assigned → decodeBits w = .error .badMajor) ∧
  (∀ w, op w ∈ [0x03, 0x09, 0x55, 0x60, 0x62, 0x65, 0x66, 0x68, 0x6B, 0x70, 0x71, 0x72, 0x73, 0x74, 0x75] → w % 4 ∈ [0, 2] →
    decodeBits w = .error .badLen) ∧
  (∀ w, op w ∈ [0x41, 0x42] → w % 4 ∈ [0, 1] → decodeBits w = .error .badLen) ∧
  (∀ w, op w ∈ assigned → op w ∉ [0x03, 0x09, 0x41, 0x42, 0x55, 0x60, 0x62, 0x65, 0x66, 0x68, 0x6B, 0x70, 0x71, 0x72, 0x73, 0x74, 0x75] →
    w % 4 ∈ [1, 2] → decodeBits w = .error .badLen) ∧
  (∀ w, ∀ p ∈ [(0x00, 0), (0x01, 23), (0x02, 3), (0x04, 5), (0x05, 5), (0x06, 4), (0x08, 0), (0x0A, 2), (0x40, 1), (0x43, 4), (0x50, 1), (0x51, 0),
      (0x56, 9), (0x57, 2), (0x58, 1), (0x61, 4), (0x63, 0), (0x64, 1), (0x6A, 2), (0x76, 2), (0x78, 0), (0x79, 0), (0x7A, 3), (0x7B, 0), (0x7C, 1)],
    op w = p.1 → w % 4 = 0 → p.2 < sFn w → decodeBits w = .error .badFn) ∧
  (∀ w, ∀ p ∈ [(0x20, 15), (0x21, 3), (0x22, 0), (0x23, 0), (0x24, 1), (0x25, 3), (0x26, 6), (0x27, 1), (0x28, 4), (0x53, 2), (0x54, 2)],
    op w = p.1 → w % 4 = 0 → p.2 < vFn w → decodeBits w = .error .badFn) ∧
  (∀ w, ∀ p ∈ [(0x03, 23), (0x09, 1), (0x55, 7), (0x60, 0), (0x62, 0), (0x65, 2), (0x66, 1), (0x68, 1), (0x6B, 0), (0x70, 0), (0x71, 3), (0x72, 0),
      (0x73, 1), (0x74, 3), (0x75, 1)],
    op w = p.1 → w % 4 = 1 → p.2 < sFn w → decodeBits w = .error .badFn) ∧
  (∀ w, ∀ p ∈ [(0x41, 0), (0x42, 1)], op w = p.1 → w % 4 = 2 → p.2 < sFn w → decodeBits w = .error .badFn)

/-- A step runs the decoded instruction: a core's issue takes the thread of the slot that the barrel scan picks, closes the windows that are due,
fetches the bits at its PC, and executes the instruction that they decode to at that state; bits that decode to none trap ILLEGAL with EVAL the
bits (R10, R17, R49). Which agent moves is the model's schedule (log entry 3). No corrupted code word waits as the step begins; one that the closing
windows leave behind shows first where the instruction reads it (R410). Cores that a write of a snapshot's new
colour has reached in the step record in it (R390, R394); with no snapshot under way nothing more happens. -/
def Obligations.StepRunsDecoded : Prop :=
  ∀ (s r c t : State) (core slot w : Nat) (th : Thread),
    let l : Loc := { svc := false, unit := core, slot := slot }
    core < 4096 → s.nextMove = (.issue core, r) → r.fatal = false → r.latent = [] → r.pick core = some slot →
    ({ r with cur := l } : State).closeDue l = some c → c.thread = some th → fetchBits th c = .ok (w, t) →
    (∀ i, decodeBits w = .ok i → step s = recorded (exec i (t.showReads i)) ∧ (t.latent = [] → t.showReads i = t)) ∧
    (∀ e, decodeBits w = .error e → step s = recorded (.next (c.trapEnter l 0x01 (BitVec.ofNat 64 w)))) ∧
    (∀ u : State, (∀ j, (u.job j).recording = none) → recorded (.next u) = .next u)

/-- The values that the specification gives for reset: the counters and flags of every core, the slates, the queue registers, the error selector,
the key slots, the patch RAM and the power settings (R29, R337, R338, R305, R409, R424, R429, R430). -/
def Obligations.ResetValues : Prop :=
  let s := State.reset
  (∀ n, (s.core n).instret = 0 ∧ (s.core n).phasecnt = 0 ∧ (s.core n).implcnt = 0 ∧ (s.core n).accstat = 0 ∧ (s.core n).errinj = 0
    ∧ (s.gang n).rowprog = 0 ∧ (s.ctx n).snapgen = 0 ∧ (s.ctx n).rollcnt = 0 ∧ s.pairstat n = 0) ∧
  s.cycle = 0 ∧
  (∀ n, (s.slate n).wsize = 64 ∧ (s.slate n).gstate = 0xFFFFFFFF#32 ∧ (s.slate n).tlimit = 16 ∧ (s.slate n).stat = 0 ∧ (s.slate n).fq = []
    ∧ (s.slate n).tcount = 0 ∧ (s.slate n).omode = false ∧ (s.slate n).ven = 0 ∧ (s.slate n).wbase = 0 ∧ (s.slate n).opst = 0) ∧
  (∀ n, (s.queue n).armed = false ∧ (s.queue n).priv = false ∧ (s.queue n).egen = 1 ∧ (s.queue n).head = 0 ∧ (s.queue n).taken = 0
    ∧ (s.queue n).lgc = 0 ∧ (s.queue n).tmr = 8 ∧ (s.queue n).cnt = 1 ∧ (s.queue n).vec = 0 ∧ (s.queue n).cqtail = 0 ∧ (s.queue n).cqhead = 0) ∧
  (∀ n, (s.die n).errsel = 0) ∧
  s.fw.keys = [] ∧ s.fw.keySlot = 1 ∧ s.fw.patches = [] ∧ s.fw.svn = 0 ∧ s.fw.cap = 4400 ∧ s.fw.clk = 20

/-- The state after reset is sound: memory is in canonical form (the model's own form, log entry 1), and the current place lies on one of the
package's 4,096 cores (R1). -/
def Obligations.ResetSound : Prop := Sound State.reset

/-- Every step, of whatever instruction, event or agent, keeps the state sound: memory in canonical form, so that equal memories are equal data
(the model's own form, log entry 1), and the current place on one of the package's 4,096 cores (R1), as the statements about instructions ask. -/
def Obligations.StepKeepsSound : Prop := ∀ s t : State, Sound s → step s = .next t → Sound t

/-- After a fatal error nothing runs until the device is reset: a step answers no next state but for a DEVICE_RESET (R412). -/
def Obligations.FatalStopsAll : Prop :=
  ∀ s : State, s.fatal = true → s.nextMove.1 ≠ .event .deviceReset → step s = .fault .stoppedByFatalError

/-- A false guard nullifies: any fetched instruction whose guard predicate, negated where GUARD.N is 1, is false moves the PC past its parcels,
counts as issued and completed, and does nothing else; no field is read, so nothing traps (R48): the core's INSTRET and the slot's count of issues advance
(R29, R198), and outside a service slot and a repetition sequence the core notes the issue (R10). PAD_PARCEL is skipped: the thread goes on at the next
parcel, and nothing is issued (R14, R32). -/
def Obligations.NullifiedAndSkipped : Prop :=
  ∀ (s : State) (th : Thread), s.thread = some th →
    (∀ (i : Instr) (w : Nat), encode i = some w → i ≠ .padParcel → (th.p (w / 2 ^ 9 % 16) != decide (w / 2 ^ 13 % 2 = 1)) = false →
      Goes s { th with pc := th.pc + BitVec.ofNat 64 (4 * lenParcels (w % 4)) } (exec i s) ∧
      ∃ t, exec i s = .next t ∧ (t.core s.here).instret = (s.core s.here).instret + 1 ∧ t.curSlot.count = s.curSlot.count + 1 ∧
        (s.cur.svc = false → s.cur.slot < 16 → (t.core s.here).issuedAt = some s.cycle ∧ (t.core s.here).lastSlot = s.cur.slot)) ∧
    (∃ t, exec .padParcel s = .next t ∧ t.thread = some { th with pc := th.pc + 4 } ∧ Keeps s t ∧
      (t.core s.here).instret = (s.core s.here).instret)

/-! Traps, return and control registers -/

/-- TRAP, SVC and BREAK enter the stub (R100, R101, R104): the windows close, and the context leaves its slot for its quay core's service slots
with CAUSE, EPC and EVAL set, PPRIV the privilege it had, PRIV S, and PC the stub entry of its context's descriptor; its registers and
predicates are carried unchanged. In a service slot the trap is a handler fault: the slot is freed and no context travels (R107). -/
def Obligations.TrapEntry : Prop :=
  ∀ (s c : State) (th tc : Thread) (h : Hdr) (f : SF), Runs s th h → isSeqLoc s.cur = false → s.runsSequence s.cur = false →
    s.closeAll s.cur = some c → c.thread = some tc → c.isPaired s.here = false →
    let enters := fun (cause : Nat) (eval : Word) (o : Out) => ∃ t, o = .next t ∧ t.slot s.cur = {} ∧
      (tc.svc = false → s.cur.svc = false → ∃ p st, t.net.getLast? = some p ∧ p.ctx = tc.ctx ∧ p.rank = tc.rank ∧
        p.kind = .context 2 { tc with
          status := st, cause := cause, epc := tc.pc, eval := eval, retRank := tc.rank, pc := BitVec.ofNat 64 (c.ctx tc.ctx).desc.stub, svc := true } ∧
        (∀ i, st.getLsbD i = if i = 12 then tc.status.getLsbD 0 else if i = 13 then tc.status.getLsbD 1 else if i = 1 then true
          else if i = 0 then false else tc.status.getLsbD i)) ∧
      (tc.svc = true → s.cur.svc = true → t.net = c.net)
    (f.imm.toNat % 256 ≠ 0x09 → enters (f.imm.toNat % 256) (srcA f th).v (exec (.trap h f) s)) ∧
    enters 0x12 (f.imm.setWidth 64) (exec (.svc h f) s) ∧
    enters 0x13 (f.imm.setWidth 64) (exec (.breakI h f) s)

/-- ERET at level S in a service slot (R106): the context leaves the slot for the rank it came from, unless .ANY sends a task with neither
quota nor array access to another; PC is EPC, or past the instruction there with .NEXT; PRIV is PPRIV, and T where PPRIV holds 00, that of no thread (the
model's choice, log entry 49); PPRIV becomes 0, and CAUSE, EPC and EVAL end. -/
def Obligations.ReturnFromTrap : Prop :=
  ∀ (s c : State) (th tc : Thread) (h : Hdr) (f : SF), Runs s th h → 2 ≤ th.priv → th.svc = true → s.cur.svc = true →
    (f.fl.getLsbD 1 = false → s.closeAll s.cur = some c) →
    (f.fl.getLsbD 1 = true → ∃ p s1, fetchParcel th th.epc s = .ok (p, s1) ∧ p % 4 ≠ 3 ∧ s1.closeAll s.cur = some c) →
    c.thread = some tc → c.isPaired s.here = false →
    ∃ t p st pc, exec (.eret h f) s = .next t ∧ t.slot s.cur = {} ∧ t.net.getLast? = some p ∧ p.ctx = tc.ctx ∧
      p.kind = .context 3 { tc with status := st, pc := pc, cause := 0, epc := 0, eval := 0, svc := false, rank := p.rank } ∧
      (∀ i, st.getLsbD i = if i = 0 then tc.status.getLsbD 12 || !tc.status.getLsbD 13 else if i = 1 then tc.status.getLsbD 13
        else if i = 12 ∨ i = 13 then false else tc.status.getLsbD i) ∧
      (f.fl.getLsbD 1 = false → pc = th.epc) ∧
      (f.fl.getLsbD 1 = true → ∀ q s1, fetchParcel th th.epc s = .ok (q, s1) → pc = th.epc + BitVec.ofNat 64 (4 * lenParcels (q % 4))) ∧
      (f.fl.getLsbD 0 = false ∨ tc.vq ≠ 0 ∨ tc.array = true → p.rank = tc.retRank)

/-- Supervisor-only instructions at level T, and ERET outside a service slot, trap PRIVILEGE with nothing changed (R24, R28, R106, R109). CRR and
CRW of 0x800 and above, and CRW below 0x100, trap PRIVILEGE at level T; 0x200 to 0x7FF trap ILLEGAL at level S. -/
def Obligations.PrivilegeTraps : Prop :=
  ∀ (s : State) (th : Thread) (h : Hdr) (f : SF), Runs s th h →
    let n := f.imm.toNat % 4096
    let enters := fun (cause : Nat) (i : Instr) => ∃ w, encode i = some w ∧ exec i s = .next (s.trapEnter s.cur cause (BitVec.ofNat 64 w))
    (th.priv < 2 → enters 0x02 (.eret h f) ∧ enters 0x02 (.pair h f) ∧ enters 0x02 (.unpair h f) ∧ enters 0x02 (.snap h f) ∧
      enters 0x02 (.snapq h f) ∧ enters 0x02 (.rollback h f)) ∧
    (2 ≤ th.priv → th.svc = false → enters 0x02 (.eret h f)) ∧
    (th.priv < 2 → 0x800 ≤ n → enters 0x02 (.crr h f) ∧ enters 0x02 (.crw h f)) ∧
    (th.priv < 2 → n < 0x100 → enters 0x02 (.crw h f)) ∧
    (0x200 ≤ n → n < 0x800 → enters 0x01 (.crr h f) ∧ enters 0x01 (.crw h f))

/-- CRR (R28 to R30, R98): each assigned control register reads as its table row says. COREID reads the thread's rank, and in a service slot that
of its quay core in the served context where one is there (the model's reading, log entry 27). ROWPROG is the gang's where the core is joined (R151), and
PAIRSTAT holds its pair's counts (R418). ERRINFO and ERRADDR show the entry that ERRSEL selects, and no entry as none (R409). STATUS shows the number of open windows, and at level T its
SV fields read zero; CAUSE, EPC and EVAL read zero outside a service slot (R99). -/
def Obligations.ControlRegisterRead : Prop :=
  ∀ (s : State) (th : Thread) (h : Hdr) (f : SF), Runs s th h →
    let n := f.imm.toNat % 4096
    let c := s.core s.here
    let reads := fun (k : Nat) (v : Word) => n = k → WritesX s th 8 f.d { v := v, p := false } (exec (.crr h f) s)
    let served := fun (v : Word) => if th.svc then v else 0
    reads 0x000 th.taskid ∧
    (n = 0x001 → ∃ r : Nat, (th.svc = false → r = th.rank) ∧
      (th.svc = true → ∀ p, ((s.ctx th.ctx).ranks.find? fun p => p.2.state == 1 && p.2.phys == s.here) = some p → r = p.1) ∧
      WritesX s th 8 f.d { v := BitVec.ofNat 64 r, p := false } (exec (.crr h f) s)) ∧
    (c.gated = false → reads 0x002 (BitVec.ofNat 64 (s.cycle - c.gatedCycles))) ∧
    reads 0x003 (BitVec.ofNat 64 c.instret) ∧
    (n = 0x004 → ∃ v : Word, (∀ i, v.getLsbD i = if i = 2 ∨ i = 3 then (BitVec.ofNat 64 s.curSlot.wins.length).getLsbD (i - 2)
        else if th.priv < 2 ∧ (i = 8 ∨ i = 9 ∨ i = 12 ∨ i = 13) then false else th.status.getLsbD i) ∧
      WritesX s th 8 f.d { v := v, p := false } (exec (.crr h f) s)) ∧
    reads 0x005 (BitVec.ofNat 64 (th.vq + 256 * th.vbase)) ∧ reads 0x006 (BitVec.ofNat 64 th.ctx) ∧ reads 0x007 (th.seq.setWidth 64) ∧
    reads 0x008 (BitVec.ofNat 64 c.phasecnt) ∧ reads 0x009 (BitVec.ofNat 64 c.implcnt) ∧
    reads 0x00A ((if (s.gang (s.here / 8)).joined.testBit (s.here % 8) then (s.gang (s.here / 8)).rowprog else c.arr.rowprog).setWidth 64) ∧
    (let p := (s.core (s.here - s.here % 2)).pair
     reads 0x00D (BitVec.ofNat 64 (p.agreed % 65536 * 65536 + min 255 p.disagreed * 256 + p.run))) ∧
    reads 0x00B (BitVec.ofNat 64 (s.ctx th.ctx).snapgen) ∧ reads 0x00C (BitVec.ofNat 64 (s.ctx th.ctx).rollcnt) ∧
    reads 0x100 (c.accstat.setWidth 64) ∧ reads 0x101 th.rngkey ∧
    (2 ≤ th.priv → reads 0x800 (BitVec.ofNat 64 s.here) ∧ reads 0x801 (served (BitVec.ofNat 64 th.cause)) ∧ reads 0x802 (served th.epc) ∧
      reads 0x803 (served th.eval) ∧ reads 0x810 (s.die (dieOf s.here)).errsel ∧ reads 0x813 c.errinj ∧
      (let d := s.die (dieOf s.here)
       let a := d.errsel.toNat / 256 % 256
       let l := Tab.get {} a d.logs
       (∀ e, l.entries[d.errsel.toNat % 16]? = some e →
         reads 0x811 (BitVec.ofNat 64 (2 ^ 63 + e.cls * 2 ^ 60 + e.ctx % 4096 * 2 ^ 44 + e.place % 4096 * 2 ^ 32 + e.syndrome % 65536 * 65536
           + l.overflow * 256 + a)) ∧ reads 0x812 e.addr) ∧
       (l.entries[d.errsel.toNat % 16]? = none → reads 0x811 (BitVec.ofNat 64 (l.overflow * 256 + a)) ∧ reads 0x812 0)))

/-- CRW (R28, R63, R98, R99, R409, R410): RNGKEY is written; ACCSTAT clears where the value has 1s but for the flags that instructions have set in this
cycle; read-only registers ignore the write; at level S STATUS takes PAIRST and, of PPRIV, every code but 11, which is never produced (R22; the model's choice, log
entry 49), EPC its value with bits [1:0] zero, CAUSE and EVAL theirs in a service slot, ERRSEL its selection and ERRINJ its fields. -/
def Obligations.ControlRegisterWrite : Prop :=
  ∀ (s : State) (th : Thread) (h : Hdr) (f : SF), Runs s th h →
    let n := f.imm.toNat % 4096
    let v := (srcA f th).v
    let o := exec (.crw h f) s
    let next : Thread := { th with pc := th.pc + 8 }
    (n = 0x101 → Goes s { next with rngkey := v } o) ∧
    (n = 0x100 → Goes (s.updCore s.here fun c => { c with accstat := (c.accstat &&& ~~~(v.setWidth 32)) ||| c.accNew }) next o) ∧
    (2 ≤ th.priv →
      (n ∈ [0x000, 0x001, 0x002, 0x003, 0x005, 0x006, 0x007, 0x008, 0x009, 0x00A, 0x00B, 0x00C, 0x00D, 0x800, 0x811, 0x812] → Goes s next o) ∧
      (n = 0x004 → ∃ st : Word, Goes s { next with status := st } o ∧
        (∀ i, i ∉ [8, 9, 12, 13] → st.getLsbD i = th.status.getLsbD i) ∧ st.getLsbD 8 = v.getLsbD 8 ∧ st.getLsbD 9 = v.getLsbD 9 ∧
        (if v.getLsbD 12 = true ∧ v.getLsbD 13 = true then st.getLsbD 12 = th.status.getLsbD 12 ∧ st.getLsbD 13 = th.status.getLsbD 13
          else st.getLsbD 12 = v.getLsbD 12 ∧ st.getLsbD 13 = v.getLsbD 13)) ∧
      (n = 0x801 → Goes s (if th.svc then { next with cause := v.toNat % 256 } else next) o) ∧
      (n = 0x802 → Goes s (if th.svc then { next with epc := v &&& ~~~3#64 } else next) o) ∧
      (n = 0x803 → Goes s (if th.svc then { next with eval := v } else next) o) ∧
      (n = 0x810 → Goes (s.updDie (dieOf s.here) fun d => d.writeErrsel v) next o) ∧
      (n = 0x813 → v.toNat / 256 % 256 ≤ 9 → ∃ t, o = .next t ∧ t.thread = some next ∧ (t.core s.here).errinj = v &&& 0xFF03#64 ∧
        (∀ k, k ≠ s.here → (t.core k).errinj = (s.core k).errinj) ∧ Keeps s t))

/-- IFLUSH empties the instruction buffer of its core (R102). PAIR and UNPAIR at level S couple or separate the gang of a rank, with pD := 1, or are
refused with pD := 0 and nothing changed: when a core of the gang holds a context, the gang has members, or it is in that state already, and PAIR
also when a core of the gang is degraded (R109). No pair interval of the gang is open, which UNPAIR would settle first (R416). A rank that is in transit
or saved names its entry's core (the model's choice, log entry 54). -/
def Obligations.FlushAndPairing : Prop :=
  ∀ (s : State) (th : Thread) (h : Hdr) (f : SF), Runs s th h →
    let next : Thread := { th with pc := th.pc + 8 }
    let a := (srcA f th).v
    let e := (s.ctx th.ctx).rank (a.toNat % 2 ^ 24)
    let g := e.phys / 8
    let x := s.gang g
    let cores := (List.range 8).map (8 * g + ·)
    let busy := cores.any fun p => !(s.core p).empty
    let degr := cores.any fun p => (s.core p).degraded
    let shut := ∀ p ∈ cores, s.intervalOpen p = false
    let on := fun (b : Bool) => { th.setP f.d.toNat b with pc := th.pc + 8 }
    Goes (s.updCore s.here fun c => { c with ibuf := [] }) next (exec (.iflush h f) s) ∧
    (2 ≤ th.priv → (srcA f th).p = false → e.state ≠ 0 →
      ((busy = true ∨ x.joined ≠ 0 ∨ x.paired = true ∨ degr = true) → Goes s (on false) (exec (.pair h f) s)) ∧
      ((busy = true ∨ x.joined ≠ 0 ∨ x.paired = false) → Goes s (on false) (exec (.unpair h f) s)) ∧
      (busy = false → x.joined = 0 → x.paired = false → degr = false → ∃ t, exec (.pair h f) s = .next t ∧ t.thread = some (on true) ∧
        (t.gang g).paired = true ∧ ∀ k, k ≠ g → t.gang k = s.gang k) ∧
      (shut → busy = false → x.joined = 0 → x.paired = true → ∃ t, exec (.unpair h f) s = .next t ∧ t.thread = some (on true) ∧
        (t.gang g).paired = false ∧ ∀ k, k ≠ g → t.gang k = s.gang k)) ∧
    (2 ≤ th.priv → (srcA f th).p = false → e.state = 0 →
      exec (.pair h f) s = .next (s.trapEnter s.cur 0x08 a) ∧ exec (.unpair h f) s = .next (s.trapEnter s.cur 0x08 a))

/-! Vector instructions -/

/-- The element arithmetic of major 0x20 on I32, I16, I8 and U8 (R119, R123 to R125): the exact result modulo 2^w, or clamped to the type's range
with SAT; I types compare and extend as signed, U8 as unsigned; the bitwise and shift operations act on the element's w bits, shifts by b mod w;
disabled elements keep their value, and poison travels per element (R117, R404). -/
def Obligations.VectorInteger : Prop :=
  ∀ (s : State) (th : Thread) (h : Hdr) (f : VF), Runs s th h → Owns th [f.vd, f.va] → (f.xs = 10 → Owns th [f.vb]) → f.xs.toNat ≤ 11 → f.ty ∈ [4#3, 5#3, 6#3, 7#3] →
    let c := s.core s.here
    let w := if f.ty = 4 then 32 else if f.ty = 5 then 16 else 8
    let u := f.ty == 7#3
    let val := fun (x : BitVec w) => if u then (x.toNat : Int) else x.toInt
    let lo : Int := if u then 0 else -2 ^ (w - 1)
    let hi : Int := if u then 2 ^ w - 1 else 2 ^ (w - 1) - 1
    let lane := fun (x : BitVec w) => ((if u then x.setWidth 32 else x.signExtend 32 : BitVec 32)).toNat
    let exact := fun (x : Int) => BitVec.ofInt w (if f.rm.getLsbD 2 then max lo (min hi x) else x)
    let a := fun i => held c (th.vbase + f.va.toNat) 1 w i
    let b := fun i => operandB c th f 1 w i
    let binary := fun (op : BitVec w → BitVec w → BitVec w) (o : Out) =>
      WritesElems s th f 1 (enabled th f 1) (fun i => (lane (op (BitVec.ofNat w (a i).1) (BitVec.ofNat w (b i).1)), (a i).2 || (b i).2)) o
    let unary := fun (op : BitVec w → BitVec w) (o : Out) =>
      WritesElems s th f 1 (enabled th f 1) (fun i => (lane (op (BitVec.ofNat w (a i).1)), (a i).2)) o
    binary (fun a b => exact (val a + val b)) (exec (.vadd h f) s) ∧
    binary (fun a b => exact (val a - val b)) (exec (.vsub h f) s) ∧
    binary (fun a b => exact (val a * val b)) (exec (.vmul h f) s) ∧
    binary (fun a b => if val a ≤ val b then a else b) (exec (.vmin h f) s) ∧
    binary (fun a b => if val a ≤ val b then b else a) (exec (.vmax h f) s) ∧
    binary (fun a b => a &&& b) (exec (.vand h f) s) ∧
    binary (fun a b => a ||| b) (exec (.vor h f) s) ∧
    binary (fun a b => a ^^^ b) (exec (.vxor h f) s) ∧
    binary (fun a b => a <<< (b.toNat % w)) (exec (.vshl h f) s) ∧
    binary (fun a b => a >>> (b.toNat % w)) (exec (.vshr h f) s) ∧
    binary (fun a b => a.sshiftRight (b.toNat % w)) (exec (.vsar h f) s) ∧
    unary (fun a => exact (val a).natAbs) (exec (.vabs h f) s) ∧
    unary (fun a => exact (-val a)) (exec (.vneg h f) s)

/-- The element arithmetic of major 0x20 on F32, BF16, F16 and F64 (R77, R123, R124, R126): the exact result rounded once by MODE into the type, an
overflow following SAT and an infinite result staying infinite; VMIN and VMAX by R77; VABS and VNEG change only the sign bit, and a NaN gives the
canonical NaN. -/
def Obligations.VectorFloat : Prop :=
  ∀ (s : State) (th : Thread) (h : Hdr) (f : VF), Runs s th h → Owns th [f.vd, f.va] → (f.xs = 10 → Owns th [f.vb]) → f.xs.toNat ≤ 11 → f.ty.toNat ≤ 3 →
    let c := s.core s.here
    let ty := f.ty.toNat
    let k := if ty = 3 then 2 else 1
    let w := tyWidth ty
    let m := fmtOf (tyFloat ty)
    let down := f.rm.toNat % 4 == 2
    let round := fun (v : FV) => match v with
      | .inf _ => m.round (.mode (f.rm.toNat % 4)) false v
      | _ => m.round (.mode (f.rm.toNat % 4)) (f.rm.getLsbD 2) v
    let a := fun i => held c (th.vbase + f.va.toNat) k w i
    let b := fun i => operandB c th f k w i
    let d := fun i => held c (th.vbase + f.vd.toNat) k w i
    let two := fun (op : FV → FV → Nat) (o : Out) =>
      WritesElems s th f k (enabled th f k) (fun i => (op (m.decode (a i).1) (m.decode (b i).1), (a i).2 || (b i).2)) o
    let three := fun (op : FV → FV → FV → Nat) (o : Out) =>
      WritesElems s th f k (enabled th f k) (fun i => (op (m.decode (a i).1) (m.decode (b i).1) (m.decode (d i).1), (a i).2 || (b i).2 || (d i).2)) o
    let sign := fun (op : BitVec w → BitVec w) (o : Out) =>
      WritesElems s th f k (enabled th f k) (fun i => (if m.decode (a i).1 = .nan then m.nanCode else (op (BitVec.ofNat w (a i).1)).toNat, (a i).2)) o
    two (fun x y => round (FV.add down x y)) (exec (.vadd h f) s) ∧
    two (fun x y => round (FV.add down x y.neg)) (exec (.vsub h f) s) ∧
    two (fun x y => round (FV.mul x y)) (exec (.vmul h f) s) ∧
    three (fun x y z => round (FV.fma down x y z)) (exec (.vfma h f) s) ∧
    three (fun x y z => round (FV.fma down x y z.neg)) (exec (.vfms h f) s) ∧
    three (fun x y z => round (FV.fma down x.neg y z)) (exec (.vfnma h f) s) ∧
    two (fun x y => m.round rne false (FV.minmax false x y)) (exec (.vmin h f) s) ∧
    two (fun x y => m.round rne false (FV.minmax true x y)) (exec (.vmax h f) s) ∧
    sign (fun x => x &&& ~~~(BitVec.twoPow w (w - 1))) (exec (.vabs h f) s) ∧
    sign (fun x => x ^^^ BitVec.twoPow w (w - 1)) (exec (.vneg h f) s)

/-- VCMP sets bit i of an X register, bits 2i and 2i+1 for F64, where the compare of enabled element i holds: −0 equals +0, a NaN makes EQ, LT and
LE false and NE true, I types compare signed and U8 unsigned; VSEL takes VA's element where the mask bit is 1 and B's otherwise (R127, R128). -/
def Obligations.VectorCompareSelect : Prop :=
  ∀ (s : State) (th : Thread) (h : Hdr) (f : VF), Runs s th h → Owns th [f.va] → (f.xs = 10 → Owns th [f.vb]) → f.xs.toNat ≤ 11 →
    let c := s.core s.here
    let ty := f.ty.toNat
    let k := if ty = 3 then 2 else 1
    let n := 64 / k
    let w := tyWidth ty
    let a := fun i => held c (th.vbase + f.va.toNat) k w i
    let b := fun i => operandB c th f k w i
    let int := fun (x : Nat) => if ty = 7 then (x : Int) else (BitVec.ofNat w x).toInt
    let rel := fun (lt eq : Bool → Bool) => fun i =>
      if 4 ≤ ty then (if int (a i).1 < int (b i).1 then lt true else if int (a i).1 = int (b i).1 then eq true else false)
      else match FV.cmp (tyVal ty (a i).1) (tyVal ty (b i).1) with
        | none => false
        | some z => if z = -1 then lt true else if z = 0 then eq true else false
    let isEq := rel (fun _ => false) id
    let isLt := rel id (fun _ => false)
    let isLe := rel id id
    let sets := fun (cc : Nat → Bool) (o : Out) => ∃ r : Word,
      (∀ l < 64, r.getLsbD l = (enabled th f k (l / k) && cc (l / k))) ∧
      WritesX s th 8 (f.vd.setWidth 4) { v := r, p := maskDirty th f || (List.range n).any fun i => enabled th f k i && ((a i).2 || (b i).2) } o
    let lane := fun (x : Nat) => if ty = 5 ∨ ty = 6 then ((BitVec.ofNat w x).signExtend 32).toNat else x
    sets isEq (exec (.vcmpEq h f) s) ∧
    sets (fun i => !isEq i) (exec (.vcmpNe h f) s) ∧
    sets isLt (exec (.vcmpLt h f) s) ∧
    sets isLe (exec (.vcmpLe h f) s) ∧
    (Owns th [f.vd] → WritesElems s th f k (fun _ => true) (fun i =>
      let e := if enabled th f k i then a i else b i
      (lane e.1, e.2)) (exec (.vsel h f) s))

/-- VCVT converts the enabled elements between a TY and an FMT by R69 and R70, a packed destination changing only its enabled fields; VQUANT
quantises two blocks by R67 into packed codes and writes their scales to XC; VDEQ scales the elements back; a TERN code 2 sets TERNBAD, and a
stochastic rounding advances RNGKEY (R129 to R132). -/
def Obligations.VectorConvert : Prop :=
  ∀ (s : State) (th : Thread) (h : Hdr) (f : VF), Runs s th h → Owns th [f.vd, f.va] →
    let c := s.core s.here
    let ty := f.ty.toNat
    let fmt := f.imm.toNat % 16
    let rm := f.rm.toNat
    let src : VSrc := { v := c.v (th.vbase + f.va.toNat), p := c.vp (th.vbase + f.va.toNat) }
    let rnd := fun i => rndOf rm th.rngkey th.taskid.toNat i
    let sat := f.rm.getLsbD 2
    let next : Thread := { th with pc := th.pc + 8, rngkey := if f.rm.getLsbD 3 then th.rngkey + rngStep else th.rngkey }
    let wide := ty = 3 ∨ fmt = 0
    let n := if wide then 32 else 64
    let en := fun i => enabled th f 1 (if wide then 2 * i else i)
    let tern := fun (on : Bool) => if on then 2#32 else 0#32
    let q := fun b => quantBlock fmt sat ((List.range 32).map fun i => (tyVal ty (src.elem ty (32 * b + i)).v, rnd (32 * b + i)))
    let scale := fun i => (th.xreg f.xs.toNat).v.toNat / 256 ^ (i / 32) % 256
    (fmt ≤ 10 → f.imm.getLsbD 7 = false →
      WritesFields s th next f.vd en (if fmt = 0 then 64 else if fmt ≤ 3 then 32 else fmtWidth fmt) n 0
        (fun i => convFmt fmt (rnd i) sat (tyVal ty (src.elem ty i).v)) (exec (.vcvt h f) s)) ∧
    (fmt ≤ 10 → f.imm.getLsbD 7 = true →
      WritesFields s th next f.vd en (if ty = 3 then 64 else 32) n
        (tern (fmt == 10 && (List.range n).any fun i => en i && (src.packed fmt i).v == 2))
        (fun i => (putTy ty i (convTy ty (rnd i) sat (elemVal fmt (src.packed fmt i).v)) false).v) (exec (.vcvt h f) s)) ∧
    (4 ≤ fmt → fmt ≤ 10 → ty ≤ 2 →
      WritesFields s th { next with
          x := (th.writeX f.xs { v := BitVec.ofNat 64 ((q 1).1 * 256 + (q 0).1), p := (List.range 64).any fun i => (src.elem ty i).p }).x
          xp := (th.writeX f.xs { v := BitVec.ofNat 64 ((q 1).1 * 256 + (q 0).1), p := (List.range 64).any fun i => (src.elem ty i).p }).xp }
        f.vd (fun _ => true) (fmtWidth fmt) 64 0 (fun i => ((q (i / 32)).2).getD (i % 32) 0) (exec (.vquant h f) s)) ∧
    (4 ≤ fmt → fmt ≤ 10 → ty ≤ 2 → f.xs.toNat ≤ 9 →
      WritesFields s th next f.vd (fun _ => true) 32 64
        (tern (fmt == 10 && (List.range 64).any fun i => (src.packed fmt i).v == 2))
        (fun i => convTy ty (rnd i) sat (scaledElem fmt (src.packed fmt i).v (scale i))) (exec (.vdeq h f) s))

/-- The reductions (R133 to R135). Of the enabled elements of an integer type: SUM is their sum modulo 2^32; MAX and MIN an element that no other
passes, or the type's bound where none is enabled; ARGMAX the lowest such index with its lane. SUM of a float type is the node at the root of the
fixed tree; MAX and MIN the larger or smaller by R77, or the infinity where none is enabled; ARGMAX of F32, BF16 and F16 leaves NaN elements out, takes
the lowest index than which no other is larger, −0 below +0, and answers its lane as held, or index 0xFFFF_FFFF and value 0 where none is left. -/
def Obligations.VectorReduce : Prop :=
  ∀ (s : State) (th : Thread) (h : Hdr) (f : VF), Runs s th h → Owns th [f.va] →
    let c := s.core s.here
    let ty := f.ty.toNat
    let k := if ty = 3 then 2 else 1
    let n := 64 / k
    let w := tyWidth ty
    let a := fun i => held c (th.vbase + f.va.toNat) k w i
    let en := fun i => enabled th f k i
    let es := (List.range n).filter en
    let int := fun i => if ty = 7 then ((a i).1 : Int) else (BitVec.ofNat w (a i).1).toInt
    let dirty := maskDirty th f || es.any fun i => (a i).2
    let gives := fun (v : Word) (o : Out) => WritesX s th 8 (f.vd.setWidth 4) { v := v, p := dirty } o
    let lo : Int := if ty = 7 then 0 else -2 ^ (w - 1)
    let hi : Int := if ty = 7 then 2 ^ w - 1 else 2 ^ (w - 1) - 1
    let wide := fun (x : Int) => if ty = 7 then ((BitVec.ofInt 32 x).setWidth 64 : Word) else (BitVec.ofInt 32 x).signExtend 64
    let m := fmtOf (tyFloat ty)
    let leaf := fun {α : Type} (g : Nat → α) (i : Nat) => if en i then some (g (a i).1) else none
    let depth := if ty = 3 then 5 else 6
    (4 ≤ ty →
      gives (wide ((es.map int).sum)) (exec (.vredSum h f) s) ∧
      (∃ x : Int, ((es = [] ∧ x = lo) ∨ (∃ i ∈ es, int i = x ∧ ∀ j ∈ es, int j ≤ x)) ∧ gives (wide x) (exec (.vredMax h f) s)) ∧
      (∃ x : Int, ((es = [] ∧ x = hi) ∨ (∃ i ∈ es, int i = x ∧ ∀ j ∈ es, x ≤ int j)) ∧ gives (wide x) (exec (.vredMin h f) s)) ∧
      (es = [] → gives 0xFFFFFFFF#64 (exec (.vredArgmax h f) s)) ∧
      (∀ i ∈ es, (∀ j ∈ es, int j ≤ int i ∧ (j < i → int j < int i)) →
        gives (BitVec.ofNat 64 ((held c (th.vbase + f.va.toNat) 1 32 i).1 * 2 ^ 32 + i)) (exec (.vredArgmax h f) s))) ∧
    (ty ≤ 3 →
      let r := if ty = 3 then f64 else f32
      let add := fun x y => r.round (.mode (f.rm.toNat % 4)) false (FV.add (f.rm.toNat % 4 == 2) (r.decode x) (r.decode y))
      gives (BitVec.ofNat 64 ((redNode add (leaf fun x => r.round rne false (tyVal ty x)) depth 0).getD 0)) (exec (.vredSum h f) s) ∧
      gives (BitVec.ofNat 64 (m.round rne false ((redNode (FV.minmax true) (leaf (tyVal ty)) depth 0).getD (.inf true)))) (exec (.vredMax h f) s) ∧
      gives (BitVec.ofNat 64 (m.round rne false ((redNode (FV.minmax false) (leaf (tyVal ty)) depth 0).getD (.inf false)))) (exec (.vredMin h f) s)) ∧
    (ty ≤ 2 →
      let v := fun i => tyVal ty (a i).1
      let num := es.filter fun i => decide (v i ≠ .nan)
      (num = [] → gives 0xFFFFFFFF#64 (exec (.vredArgmax h f) s)) ∧
      (∀ i ∈ num, (∀ j ∈ num, FV.below (v i) (v j) = false ∧ (j < i → FV.below (v j) (v i) = true)) →
        gives (BitVec.ofNat 64 ((held c (th.vbase + f.va.toNat) 1 32 i).1 * 2 ^ 32 + i)) (exec (.vredArgmax h f) s)))

/-- The permutes and moves of major 0x26 (R136): whole lanes, or pairs of lanes for F64, copied bit for bit to the enabled elements. That the poison of
VPERM's index lane reaches the element that it chooses for is the model's reading (log entry 22). -/
def Obligations.VectorPermute : Prop :=
  ∀ (s : State) (th : Thread) (h : Hdr) (f : VF), Runs s th h → Owns th [f.vd, f.va] →
    let c := s.core s.here
    let k := if f.ty = 3 then 2 else 1
    let n := 64 / k
    let a := fun i => held c (th.vbase + f.va.toNat) k (32 * k) i
    let x := fun i => held c (th.vbase + f.vb.toNat) k (32 * k) i
    let b := fun i => operandB c th f k (32 * k) i
    let by_ := fun i => (b i).1 % n
    let en := enabled th f k
    (Owns th [f.vb] → WritesElems s th f k en (fun i => ((a ((x i).1 % 64 % n)).1, (a ((x i).1 % 64 % n)).2 || (x i).2)) (exec (.vperm h f) s)) ∧
    ((f.xs = 10 → Owns th [f.vb]) → f.xs.toNat ≤ 11 →
      WritesElems s th f k en b (exec (.vbcast h f) s) ∧
      WritesElems s th f k (fun i => en i && decide (by_ i ≤ i)) (fun i => ((a (i - by_ i)).1, (a (i - by_ i)).2 || (b i).2)) (exec (.vslup h f) s) ∧
      WritesElems s th f k en (fun i => if i + by_ i < n then ((a (i + by_ i)).1, (a (i + by_ i)).2 || (b i).2) else (0, (b i).2))
        (exec (.vsldn h f) s) ∧
      (f.ty ≠ 3 → WritesElems s th f 1 en (fun i => (((b i).1 + i) % 2 ^ 32, (b i).2)) (exec (.viota h f) s))) ∧
    (f.imm.toNat < n → WritesX s th 8 (f.vd.setWidth 4) { v := BitVec.ofNat 64 (a f.imm.toNat).1, p := (a f.imm.toNat).2 } (exec (.vmovx h f) s)) ∧
    WritesElems s th f k en a (exec (.vmovv h f) s)

/-- The narrow dot products (R71, R73, R76, R137, R138): an enabled output lane of VDOT8 takes one group of 16 products added to it; one of VDOTI8
without scales takes the exact sum of 32 products modulo 2^32, and with scales that sum scaled and accumulated; every other bit of VD stays. -/
def Obligations.VectorDot : Prop :=
  ∀ (s : State) (th : Thread) (h : Hdr) (f : VF), Runs s th h → Owns th [f.vd, f.va, f.vb] →
    let c := s.core s.here
    let fa := f.imm.toNat % 16
    let fb := f.imm.toNat / 16
    let code := fun (r : BitVec 5) (m i : Nat) => ((c.v (th.vbase + r.toNat)).extractLsb' (fmtWidth m * i) (fmtWidth m)).toNat
    let en := fun j => enabled th f 1 j
    let acc := fun j => (held c (th.vbase + f.vd.toNat) 1 32 j).1
    let scales := fun m => if f.xs = 10 then none else
      some ((th.xreg f.xs.toNat).v.toNat / 256 ^ m % 256, (th.xreg (f.xs.toNat + 1)).v.toNat / 256 ^ m % 256)
    let next : Thread := { th with pc := th.pc + 8 }
    let dot8 := fun j => groupStep 18 ((List.range 16).map fun k =>
      FV.mul (elemVal fa (code f.va fa (16 * j + k))) (elemVal fb (code f.vb fb (16 * j + k)))) (scales (j / 2)) (acc j)
    let int := fun (m x : Nat) => if m = 9 then (BitVec.ofNat 8 x).toInt else if x = 1 then 1 else if x = 3 then -1 else 0
    let sum := fun j => ((List.range 32).map fun k => int fa (code f.va fa (32 * j + k)) * int 9 (code f.vb 9 (32 * j + k))).sum
    let bad := fa == 10 && (List.range 8).any fun j => en j && (List.range 32).any fun k => code f.va fa (32 * j + k) == 2
    (4 ≤ fa → fa ≤ 8 → 4 ≤ fb → fb ≤ 8 →
      WritesFields s th next f.vd en 32 16 (if (List.range 16).any fun j => en j && (dot8 j).2 then 1 else 0) (fun j => (dot8 j).1)
        (exec (.vdot8 h f) s)) ∧
    ((fa = 9 ∨ fa = 10) → f.xs = 10 →
      WritesFields s th next f.vd en 32 8 (if bad then 2 else 0) (fun j => (BitVec.ofInt 32 ((BitVec.ofNat 32 (acc j)).toInt + sum j)).toNat)
        (exec (.vdoti8 h f) s)) ∧
    ((fa = 9 ∨ fa = 10) → f.xs ≠ 10 →
      WritesFields s th next f.vd en 32 8
        ((if bad then 2 else 0) ||| (if (List.range 8).any fun j => en j && (dotI8 fa (sum j) (scales j) (acc j)).2 then 1 else 0))
        (fun j => (dotI8 fa (sum j) (scales j) (acc j)).1) (exec (.vdoti8 h f) s))

/-- The transcendentals (R78, R122, R139): long; the latch holds the rounded results of the enabled lanes and no other bit of VD. The results are those of
the model's own functions on exact values; VEXP2 and VLOG2 compute theirs to a finite precision before they round (the model's choice, log entry 47). -/
def Obligations.VectorTranscendental : Prop :=
  ∀ (s : State) (th : Thread) (h : Hdr) (f : VF), Runs s th h → Owns th [f.vd, f.va] → s.curSlot.wins.length < 2 →
    let c := s.core s.here
    let a := fun i => (held c (th.vbase + f.va.toNat) 1 32 i).1
    let opens := fun (fn : FV → FV) (o : Out) => ∃ m v ln po,
      Opens s s { th with pc := th.pc + 8 } 0x28 h [.v (th.vbase + f.vd.toNat) m v ln po] o ∧
      (∀ b < 2048, m.getLsbD b = enabled th f 1 (b / 32)) ∧
      (∀ i < 64, enabled th f 1 i = true → v.extractLsb' (32 * i) 32 = BitVec.ofNat 32 (f32.round rne false (fn (f32.decode (a i)))))
    opens FV.rcp (exec (.vrcp h f) s) ∧ opens FV.rsq (exec (.vrsq h f) s) ∧ opens FV.sqrt (exec (.vsqrt h f) s) ∧
    opens FV.exp2 (exec (.vexp2 h f) s) ∧ opens FV.log2 (exec (.vlog2 h f) s)

/-- A V operand beyond the quota traps VREG_QUOTA with EVAL the register number named, before anything changes; with a quota of 0 every V operand does
(R26, R122, R177). Where several are, VD is checked first, then VA, then VB (the model's choice, log entry 56). -/
def Obligations.VectorQuotaTrap : Prop :=
  ∀ (s : State) (th : Thread) (h : Hdr) (f : VF), Runs s th h → th.svc = false → s.curSlot.wins.length < 2 →
    let traps := fun (r : BitVec 5) (l : List Instr) => ∀ i ∈ l, exec i s = .next (s.trapEnter s.cur 0x0A (r.setWidth 64))
    let two : List Instr := [.vadd h f, .vsub h f, .vmul h f, .vfma h f, .vfms h f, .vfnma h f, .vmin h f, .vmax h f, .vand h f, .vor h f, .vxor h f,
      .vshl h f, .vshr h f, .vsar h f, .vsel h f, .vslup h f, .vsldn h f]
    let one : List Instr := [.vabs h f, .vneg h f, .vcvt h f, .vquant h f, .vdeq h f, .vmovv h f, .vrcp h f, .vrsq h f, .vsqrt h f, .vexp2 h f, .vlog2 h f]
    let dot : List Instr := [.vperm h f, .vdot8 h f, .vdoti8 h f]
    let new : List Instr := [.vbcast h f, .viota h f]
    let mem : List Instr := [.vld h f, .vlds h f, .vst h f, .vsts h f]
    let ind : List Instr := [.vldg h f, .vstg h f]
    let cmp : List Instr := [.vcmpEq h f, .vcmpNe h f, .vcmpLt h f, .vcmpLe h f]
    let red : List Instr := [.vredSum h f, .vredMax h f, .vredMin h f, .vredArgmax h f, .vmovx h f]
    (th.vq ≤ f.vd.toNat → traps f.vd (two ++ one ++ dot ++ new ++ mem ++ ind)) ∧
    (th.vq ≤ f.va.toNat → traps f.va (cmp ++ red) ∧ (f.vd.toNat < th.vq → traps f.va (two ++ one ++ dot))) ∧
    (th.vq ≤ f.vb.toNat →
      (f.vd.toNat < th.vq → traps f.vb ind ∧ (f.xs = 10 → traps f.vb new)) ∧
      (f.va.toNat < th.vq → f.xs = 10 → traps f.vb cmp) ∧
      (f.vd.toNat < th.vq → f.va.toNat < th.vq → traps f.vb dot ∧ (f.xs = 10 → traps f.vb two)))

/-! Memory -/

/-- LD and LDS (R169, R170, R173): long; the latch holds the bytes at the effective address, little-endian, zero- or sign-extended, poisoned when a
byte is. The bytes of the own scratchpad are read at once; of an ORDINARY page, with nothing of the core's own queued or pinned, at their home,
and the line is pinned. No byte of memory changes. -/
def Obligations.ScalarLoad : Prop :=
  ∀ (s : State) (th : Thread) (h : Hdr) (f : SF), Runs s th h → s.curSlot.wins.length < 2 → Quiet s →
    let e := effective th f.a f.b f.fl f.imm
    let w := widthOf f.sz
    let n := w / 8
    let value := fun (home : Nat) => BitVec.ofNat w (ofBytes (s.mem.readN home n))
    let dirty := fun (home : Nat) => (List.range n).any fun j => poisoned s.poison (home + j)
    let latch := fun (v : Word) (p : Bool) => if f.d.toNat ≤ 9 then [LatchWrite.x f.d.toNat { v := v, p := p }] else []
    let next : Thread := { th with pc := th.pc + 8 }
    e.p = false →
    (∀ off, OwnAt th e.v off n →
      let home := spadHome s.here off
      Opens s s next 0x50 h (latch ((value home).setWidth 64) (dirty home)) (exec (.ld h f) s) ∧
      Opens s s next 0x50 h (latch ((value home).signExtend 64) (dirty home)) (exec (.lds h f) s)) ∧
    (∀ p home, PageAt s th e.v p home n → home < 2 ^ 48 → s.poison = [] → ∃ pin : Pin, pin.home = home / 64 * 64 ∧
      Opens s (s.updCore s.here fun c => { c with pins := [pin] }) next 0x50 h (latch ((value home).setWidth 64) false) (exec (.ld h f) s) ∧
      Opens s (s.updCore s.here fun c => { c with pins := [pin] }) next 0x50 h (latch ((value home).signExtend 64) false) (exec (.lds h f) s))

/-- ST (R169, R171, R172): in the own scratchpad the low bytes of D are stored at once and every other byte of memory reads as before; on an ORDINARY
page they enter the phase queue, one entry with the stored bytes' mask, and no byte of memory changes. -/
def Obligations.ScalarStore : Prop :=
  ∀ (s : State) (th : Thread) (h : Hdr) (f : SF), Runs s th h → Quiet s → s.mem.wf = true → f.fl.getLsbD 2 = false →
    let e := effective th f.a f.b f.fl f.imm
    let n := widthOf f.sz / 8
    let d : Word := if f.d.toNat ≤ 9 then (th.xreg f.d.toNat).v else 0
    let next : Thread := { th with pc := th.pc + 8 }
    let o := exec (.st h f) s
    e.p = false → f.d.toNat ≤ 10 →
    (∀ off, OwnAt th e.v off n →
      let home := spadHome s.here off
      StoresOwn s s.launches next (fun a => if home ≤ a ∧ a < home + n then d.extractLsb' (8 * (a - home)) 8 else s.mem.read a) o) ∧
    (∀ p home, PageAt s th e.v p home n → p.write = true → home < 2 ^ 48 → ∃ (ls : Tab Launch) (pt : List Pte) (q : QEntry) (m : BitVec 64) (v : Line)
        (po : BitVec 64),
      Goes (({ s with launches := ls }.updCtx th.ctx fun c => { c with ptes := pt }).updCore s.here fun c => { c with pq := [q] }) next o ∧
      q.piece = home / 64 * 64 ∧ q.ctx = th.ctx ∧ q.op = .store m v po ∧
      (∀ i < 64, m.getLsbD i = (decide (home % 64 ≤ i) && decide (i < home % 64 + n))) ∧
      (∀ j < n, v.extractLsb' (8 * (home % 64 + j)) 8 = d.extractLsb' (8 * j) 8))

/-- The checks of a scalar access in their order, with nothing changed (R49, R164, R169, R405): a poisoned address register ends the task, bits
[63:60] that are not zero trap ADDRESS, and an address that is not a multiple of the width traps ALIGN, both with EVAL the address. -/
def Obligations.AccessTraps : Prop :=
  ∀ (s : State) (th : Thread) (h : Hdr) (f : SF), Runs s th h → s.curSlot.wins.length < 2 → f.fl.getLsbD 2 = false →
    let e := effective th f.a f.b f.fl f.imm
    let n := widthOf f.sz / 8
    ∀ i ∈ [Instr.ld h f, .lds h f, .st h f],
      (e.p = true → exec i s = .next (s.trapEnter s.cur 0x09 0)) ∧
      (e.p = false → 2 ^ 60 ≤ e.v.toNat → exec i s = .next (s.trapEnter s.cur 0x08 e.v)) ∧
      (e.p = false → th.svc = false → e.v.toNat < 2 ^ 60 → 0x00FFFFFFFFFC0000 ≤ e.v.toNat % 2 ^ 56 → e.v.toNat % n ≠ 0 →
        exec i s = .next (s.trapEnter s.cur 0x04 e.v))

/-- VLD, VLDS and VLDG (R122, R175, R176): long; the latch holds each enabled element's bytes from its address in the own scratchpad, placed as R115
gives, and no bit of a disabled element. Elements are unit-strided, strided by an X register, or indexed by a V register's signed offsets. -/
def Obligations.VectorLoad : Prop :=
  ∀ (s : State) (th : Thread) (h : Hdr) (f : VF) (off : Nat → Nat), Runs s th h → s.curSlot.wins.length < 2 → Quiet s → Owns th [f.vd] →
    f.xs.toNat ≤ 10 → (baseOf th f.xs).p = false →
    let c := s.core s.here
    let ty := f.ty.toNat
    let k := if ty = 3 then 2 else 1
    let n := tyWidth ty / 8
    let base := (baseOf th f.xs).v + (f.imm.signExtend 64) * 32
    let stride := baseOf th (f.vb.setWidth 4)
    let index := fun i => held c (th.vbase + f.vb.toNat) k 32 i
    let loads := fun (addr : Nat → Word) (o : Out) =>
      (∀ i < 64 / k, enabled th f k i = true → OwnAt th (addr i) (off i) n) → ∃ m v ln po,
        Opens s s { th with pc := th.pc + 8 } 0x53 h [.v (th.vbase + f.vd.toNat) m v ln po] o ∧
        (∀ b < 2048, m.getLsbD b = enabled th f k (b / (32 * k))) ∧
        (∀ i < 64 / k, enabled th f k i = true →
          v.extractLsb' (32 * k * i) (32 * k) = BitVec.ofNat (32 * k) (laneOf ty n (ofBytes (s.mem.readN (spadHome s.here (off i)) n))))
    loads (fun i => base + BitVec.ofNat 64 (i * n)) (exec (.vld h f) s) ∧
    (f.vb.toNat ≤ 10 → stride.p = false → loads (fun i => base + BitVec.ofNat 64 i * stride.v) (exec (.vlds h f) s)) ∧
    (Owns th [f.vb] → (∀ i < 64 / k, (c.vp (th.vbase + f.vb.toNat)).getLsbD (k * i) = false) →
      loads (fun i => base + (BitVec.ofNat 32 (index i).1).signExtend 64) (exec (.vldg h f) s))

/-- VST, VSTS and VSTG (R175 to R177): each enabled element's bytes are stored at its address in the own scratchpad, the higher element's byte
remaining where two write the same; every byte that no enabled element covers reads as before. With a poisoned mask the disabled elements, which lie there
too, are poisoned (the model's reading, log entry 22), and their bytes read as before. -/
def Obligations.VectorStore : Prop :=
  ∀ (s : State) (th : Thread) (h : Hdr) (f : VF) (off : Nat → Nat), Runs s th h → Quiet s → s.mem.wf = true → Owns th [f.vd] →
    f.xs.toNat ≤ 10 → (baseOf th f.xs).p = false →
    let c := s.core s.here
    let ty := f.ty.toNat
    let k := if ty = 3 then 2 else 1
    let n := tyWidth ty / 8
    let base := (baseOf th f.xs).v + (f.imm.signExtend 64) * 32
    let stride := baseOf th (f.vb.setWidth 4)
    let index := fun i => held c (th.vbase + f.vb.toNat) k 32 i
    let home := fun i => spadHome s.here (off i)
    let on := fun i => decide (i < 64 / k) && enabled th f k i
    let data := fun i j => (c.v (th.vbase + f.vd.toNat)).extractLsb' (32 * k * i + 8 * j) 8
    let stores := fun (addr : Nat → Word) (o : Out) =>
      (∀ i < 64 / k, (enabled th f k i = true ∨ maskDirty th f = true) → OwnAt th (addr i) (off i) n) → ∃ m ls,
        StoresOwn s ls { th with pc := th.pc + 8 } m o ∧
        (∀ i j, on i = true → j < n → (∀ l, i < l → on l = true → ¬ (home l ≤ home i + j ∧ home i + j < home l + n)) → m (home i + j) = data i j) ∧
        (∀ a, (∀ i, on i = true → ¬ (home i ≤ a ∧ a < home i + n)) → m a = s.mem.read a)
    stores (fun i => base + BitVec.ofNat 64 (i * n)) (exec (.vst h f) s) ∧
    (f.vb.toNat ≤ 10 → stride.p = false → stores (fun i => base + BitVec.ofNat 64 i * stride.v) (exec (.vsts h f) s)) ∧
    (Owns th [f.vb] → (∀ i < 64 / k, (c.vp (th.vbase + f.vb.toNat)).getLsbD (k * i) = false) →
      stores (fun i => base + (BitVec.ofNat 32 (index i).1).signExtend 64) (exec (.vstg h f) s))

/-- The B-operations (R178, R180): long; each enabled lane's element is captured in the phase queue's entry for its 64-byte piece of the block, which
holds no piece without an enabled lane unless the mask is poisoned, and with it every element (R404); the window closes with no write, and no byte of
memory changes. -/
def Obligations.BankEnqueue : Prop :=
  ∀ (s : State) (th : Thread) (h : Hdr) (f : EF) (q off : Nat), Runs s th h → s.curSlot.wins.length < 2 → Quiet s →
    let e := effective th f.a f.b f.fl f.imm
    let r := f.fl.toNat / 4 % 32
    let mask : VF := { imm := 0, rm := 0, ty := 0, msk := f.c, vb := 0, xs := 0, va := 0, vd := 0 }
    let on := fun i => enabled th mask 1 i
    let src := (s.core s.here).v (th.vbase + r)
    let home := quayHome q off
    e.p = false → th.svc = false → r < th.vq →
    let queues := fun (fn w : Nat) (o : Out) => QuayAt e.v q off (64 * w) → ∃ (ls : Tab Launch) (es : List QEntry),
      Opens s ({ s with launches := ls }.updCore s.here fun c => { c with pq := es }) { th with pc := th.pc + 12 } 0x55 h [] o ∧
      (∀ x ∈ es, ∃ lanes d fac po, x.op = .bank fn lanes d fac po ∧ x.ctx = th.ctx ∧ (fn = 7 → fac = (baseOf th f.f).v.setWidth 32) ∧
        ∃ p < w, x.piece = home + 64 * p ∧ (maskDirty th mask = true ∨ ∃ i < 64 / w, on (64 / w * p + i) = true) ∧
          ∀ i < 64 / w, lanes.getLsbD i = on (64 / w * p + i) ∧
            d.extractLsb' (8 * w * i) (8 * w) = src.extractLsb' (32 * (64 / w * p + i)) (8 * w)) ∧
      (∀ i < 64, on i = true → ∃ x ∈ es, x.piece = home + 64 * (i / (64 / w)))
    queues 0 4 (exec (.baddI32 h f) s) ∧
    queues 1 4 (exec (.baddF32 h f) s) ∧
    queues 2 2 (exec (.baddBf16 h f) s) ∧
    queues 3 4 (exec (.bminI32 h f) s) ∧
    queues 4 4 (exec (.bmaxI32 h f) s) ∧
    queues 5 4 (exec (.bminF32 h f) s) ∧
    queues 6 4 (exec (.bmaxF32 h f) s) ∧
    queues 7 4 (exec (.baxpyF32 h f) s)

/-- What the bank does with a queued B-operation (R179): each lane of the piece that it names becomes the function of the old element and the source
lane, the others stay. Integers are added modulo 2^32 or compared signed; floats follow R77. -/
def Obligations.BankArithmetic : Prop :=
  ∀ (lanes : BitVec 64) (d : Line) (fac : BitVec 32) (po : BitVec 64) (l : Line) (lp : BitVec 64) (i : Nat),
    let el := fun (x : Line) (w : Nat) => x.extractLsb' (w * i) w
    let after := fun fn => (QOp.apply (.bank fn lanes d fac po) (l, lp)).1
    let f := fun (x : BitVec 32) => f32.decode x.toNat
    let r := fun (v : FV) => BitVec.ofNat 32 (f32.round rne false v)
    (i < 16 → lanes.getLsbD i = true →
      el (after 0) 32 = el l 32 + el d 32 ∧
      el (after 1) 32 = r (FV.add false (f (el l 32)) (f (el d 32))) ∧
      el (after 3) 32 = (if (el l 32).sle (el d 32) then el l 32 else el d 32) ∧
      el (after 4) 32 = (if (el l 32).sle (el d 32) then el d 32 else el l 32) ∧
      el (after 5) 32 = r (FV.minmax false (f (el l 32)) (f (el d 32))) ∧
      el (after 6) 32 = r (FV.minmax true (f (el l 32)) (f (el d 32))) ∧
      el (after 7) 32 = r (FV.fma false (f fac) (f (el d 32)) (f (el l 32)))) ∧
    (i < 32 → lanes.getLsbD i = true →
      el (after 2) 16 = BitVec.ofNat 16 (bf16.round rne false (FV.add false (bf16.decode (el l 16).toNat) (bf16.decode (el d 16).toNat)))) ∧
    (i < 16 → lanes.getLsbD i = false → ∀ fn ∈ [0, 1, 3, 4, 5, 6, 7], el (after fn) 32 = el l 32) ∧
    (i < 32 → lanes.getLsbD i = false → el (after 2) 16 = el l 16)

/-- The atomics in the own scratchpad (R181 to R184): long; the old value goes to D through the latch, the new value of R182 is stored in the same
step, .REL counts a publish and .ACQ a refresh, and every other byte of memory reads as before. -/
def Obligations.Atomics : Prop :=
  ∀ (s : State) (th : Thread) (h : Hdr) (f : SF) (off : Nat), Runs s th h → s.curSlot.wins.length < 2 → Quiet s → s.mem.wf = true →
    let w := widthOf f.sz
    let n := w / 8
    let ea := (baseOf th f.a).v
    let home := spadHome s.here off
    let o : BitVec w := BitVec.ofNat w (ofBytes (s.mem.readN home n))
    let b : BitVec w := (srcB f th).v.setWidth w
    let d : BitVec w := (if f.d.toNat ≤ 9 then (th.xreg f.d.toNat).v else 0).setWidth w
    let dirty := (List.range n).any fun j => poisoned s.poison (home + j)
    let marks := (if f.fl.getLsbD 0 then 1 else 0) + (if f.fl.getLsbD 1 then 1 else 0)
    (baseOf th f.a).p = false → OwnAt th ea off n → f.d.toNat ≤ 10 →
    let does := fun (v : BitVec w) (out : Out) => ∃ (m : Memory) (po : List Nat) (js : Tab Job) (ls : Tab Launch),
      Opens s ({ s with mem := m, poison := po, jobs := js, launches := ls }.updCore s.here fun c => { c with phasecnt := c.phasecnt + marks })
        { th with pc := th.pc + 8 } 0x56 h (if f.d.toNat ≤ 9 then [.x f.d.toNat { v := o.setWidth 64, p := dirty }] else []) out ∧
      ∀ a, m.read a = if home ≤ a ∧ a < home + n then v.extractLsb' (8 * (a - home)) 8 else s.mem.read a
    does (o + b) (exec (.aadd h f) s) ∧ does (o &&& b) (exec (.aand h f) s) ∧ does (o ||| b) (exec (.aor h f) s) ∧
    does (o ^^^ b) (exec (.axor h f) s) ∧
    does (if o.sle b then o else b) (exec (.amin h f) s) ∧ does (if o.sle b then b else o) (exec (.amax h f) s) ∧
    does (if o.ule b then o else b) (exec (.aminu h f) s) ∧ does (if o.ule b then b else o) (exec (.amaxu h f) s) ∧
    does b (exec (.aswp h f) s) ∧ does (if o = d then b else o) (exec (.acas h f) s)

/-- PHASE, PHASE.PUB and PHASE.REF count one boundary; a publish carries the whole queue at its scope, and a refresh discards the pinned lines
(R187). WATCH on a word of quay shared memory arms a monitor with pD := 1 when the table has room, which fires at once where the word already differs from
the expected value: the increment is sent, and the table is as it was. It gives pD := 0 when the table is full; UNWATCH frees the task's monitor on the address with that berth, in whatever quay it was armed, and pD says whether there
was one (R188, R189). The capacity of the table is open (log entry 11), and a monitor of a handler is its quay core's rank's (log entry 27). -/
def Obligations.PhasesAndMonitors : Prop :=
  ∀ (s : State) (th : Thread) (h : Hdr) (f : SF), Runs s th h →
    let next : Thread := { th with pc := th.pc + 8 }
    let c := s.core s.here
    let pub : Pub := { scope := f.fl.toNat / 4 % 4, n := c.pq.length - (c.pubs.map (·.n)).sum }
    Goes (s.updCore s.here fun c => { c with pubs := c.pubs ++ [pub], pins := [], phasecnt := c.phasecnt + 1 }) next (exec (.phase h f) s) ∧
    Goes (s.updCore s.here fun c => { c with pubs := c.pubs ++ [pub], phasecnt := c.phasecnt + 1 }) next (exec (.phasePub h f) s) ∧
    Goes (s.updCore s.here fun c => { c with pins := [], phasecnt := c.phasecnt + 1 }) next (exec (.phaseRef h f) s) ∧
    (s.curSlot.wins.length < 2 → (∀ w ∈ s.curSlot.wins, w.late = [] ∧ w.decided = true) → c.board = [] → (baseOf th f.a).p = false → s.isPaired s.here = false →
      s.aligned th.ctx (locAgent s.cur) (.quayCore (quayOf s.here)) = true → ∀ q off, QuayAt (baseOf th f.a).v q off 8 →
        let mine := quayOf s.here
        let ms := (s.quay mine).monitors
        let m : Monitor := { ea := (baseOf th f.a).v.toNat % 2 ^ 56, home := quayHome q off, berth := f.imm.toNat % 2048, rank := s.issuerRank th s.here,
                             ctx := th.ctx, task := th.task }
        (ms.length < Config.monitorCapacity → f.b.toNat ≤ 9 → ofBytes (s.mem.readN (quayHome q off) 8) = (th.xreg f.b.toNat).v.toNat →
          Opens s (s.updQuay mine fun x => { x with monitors := ms ++ [m] }) next 0x58 h [.p f.d.toNat true] (exec (.watch h f) s)) ∧
        (ms.length < Config.monitorCapacity → f.b.toNat ≤ 9 → ofBytes (s.mem.readN (quayHome q off) 8) ≠ (th.xreg f.b.toNat).v.toNat → ∃ p : Packet,
          p.ctx = m.ctx ∧ p.rank = m.rank ∧ p.kind = .inc m.berth none ∧
          Opens s { s with net := s.net ++ [p] } next 0x58 h [.p f.d.toNat true] (exec (.watch h f) s)) ∧
        (Config.monitorCapacity ≤ ms.length → Opens s s next 0x58 h [.p f.d.toNat false] (exec (.watch h f) s)) ∧
        let named := fun (y : Monitor) => y.ctx = m.ctx ∧ y.task = m.task ∧ y.ea = m.ea ∧ y.berth = m.berth
        (∀ k i x, (s.quay k).monitors[i]? = some x → named x → (∀ j y, j < i → (s.quay k).monitors[j]? = some y → ¬ named y) →
          (∀ p ∈ s.quays, p.1 ≠ k → ∀ y ∈ p.2.monitors, ¬ named y) →
          Opens s (s.updQuay k fun x => { x with monitors := x.monitors.eraseIdx i }) next 0x58 h [.p f.d.toNat true] (exec (.unwatch h f) s)) ∧
        ((∀ p ∈ s.quays, ∀ y ∈ p.2.monitors, ¬ named y) →
          Opens s s next 0x58 h [.p f.d.toNat false] (exec (.unwatch h f) s)))

/-! Gang arrays -/

/-- AZERO, ASWAP, AREAD, AWRITE and ASTAT (R152, R158 to R161): in a paired gang they wait until the core's interval holds no work; then, for a task with array access, AZERO clears its rows of the working or the visible bank,
ASWAP exchanges the banks' roles, AREAD brings a row of the visible bank to VD through the latch, AWRITE stores VD's register there, each with
ROWPROG := 0 and every other row kept, and the core's latest MMA can be cut no more; ASTAT reads the slice's status, and any task may issue it. Without array access the others trap
ARRAY_STATE. The wait at issue is the model's choice (log entry 41), so is that a later array instruction of the core bars a cut of its latest MMA (log entry
19), and that a handler acts on its quay core's slice (log entry 58). -/
def Obligations.ArrayAccumulators : Prop :=
  ∀ (s : State) (th : Thread) (h : Hdr) (f : SF), Runs s th h → s.curSlot.wins.length < 2 →
    (s.cur.svc = false → s.intervalOpen s.here = true → ∀ i ∈ [Instr.azero h f, .aswap h f, .aread h f, .awrite h f, .astat h f],
      exec i s = .next (s.stallSlot s.cur .request)) ∧
    ((s.cur.svc = true ∨ s.intervalOpen s.here = false) → (s.rowprog s.here).getLsbD 10 = false →
    let c := s.core s.here
    let a := c.arr
    let later := fun (t : State) => t.updCore s.here fun c => { c with arr := { c.arr with last := none } }
    let s0 := later (if s.isJoined s.here then s.updGang (s.here / 8) fun g => { g with rowprog := 0, restart := [] }
      else s.updCore s.here fun c => { c with arr := { c.arr with rowprog := 0, restart := [] } })
    let row := ((baseOf th f.a).v.toNat + f.imm.toNat) % 256
    let next : Thread := { th with pc := th.pc + 8 }
    let at_ := fun (x : ArrayState) (bank r : Nat) => (Tab.get 0 (256 * bank + r % 256) x.acc, Tab.get 0 (256 * bank + r % 256) x.accp)
    let acc := fun (base : State) (x : Tab VReg) (y : Tab (BitVec 64)) =>
      base.updCore s.here fun c => { c with arr := { c.arr with acc := x, accp := y } }
    (th.array = true → f.a.toNat ≤ 9 ∨ f.a = 10 ∨ f.a = 12 →
      (let bank := if f.fl.getLsbD 0 then 1 - a.role else a.role
       ∃ x y, Opens s (acc s0 x y) next 0x43 h [] (exec (.azero h f) s) ∧
        ∀ b r, r < 256 → (Tab.get 0 (256 * b + r) x, Tab.get 0 (256 * b + r) y) =
          if b = bank ∧ (List.range (f.imm.toNat / 256 + 1)).any (fun i => (row + i) % 256 == r) then (0, 0) else at_ a b r) ∧
      Opens s (s0.updCore s.here fun c => { c with arr := { c.arr with role := 1 - a.role } }) next 0x43 h [] (exec (.aswap h f) s) ∧
      (th.svc = false → f.fl.toNat % 32 < th.vq →
        Opens s s0 next 0x43 h
          [.v (th.vbase + f.fl.toNat % 32) (BitVec.allOnes 2048) (at_ a (1 - a.role) row).1 (BitVec.allOnes 64) (at_ a (1 - a.role) row).2]
          (exec (.aread h f) s) ∧
        ∃ x y, Opens s (acc s0 x y) next 0x43 h [] (exec (.awrite h f) s) ∧
          ∀ b r, r < 256 → (Tab.get 0 (256 * b + r) x, Tab.get 0 (256 * b + r) y) =
            if b = 1 - a.role ∧ r = row then (c.v (th.vbase + f.fl.toNat % 32), c.vp (th.vbase + f.fl.toNat % 32)) else at_ a b r)) ∧
    Opens s (later s) next 0x43 h (if f.d.toNat ≤ 9 then [.x f.d.toNat { v := s.astat s.here th.array, p := false }] else []) (exec (.astat h f) s) ∧
    (th.array = false → exec (.azero h f) s = .next (s.trapEnter s.cur 0x0C 1) ∧ exec (.aswap h f) s = .next (s.trapEnter s.cur 0x0C 1) ∧
      (th.svc = false → f.fl.toNat % 32 < th.vq →
        exec (.aread h f) s = .next (s.trapEnter s.cur 0x0C 1) ∧ exec (.awrite h f) s = .next (s.trapEnter s.cur 0x0C 1))))

/-- WLOAD and MMA on a slice alone, their rows in the own scratchpad (R142 to R149): WLOAD latches K weight rows and, with SC, their scale rows, and sets
LOADED; MMA computes each of its rows into the working bank, column by column the sum of the row and the latched weights by the operands' class, scaled
with SC, MMA.ACC on top of what the row held; every other row is kept, and no byte of memory changes. An INT8 row without scales is the exact sum modulo
2^32. That the rows are computed at issue, with a record of what they were, is the model's choice (log entry 19). -/
def Obligations.ArrayLoadMultiply : Prop :=
  ∀ (s : State) (th : Thread) (h : Hdr) (f : MF) (off qoff : Nat → Nat), Runs s th h → s.curSlot.wins.length < 2 → Quiet s → th.array = true →
    th.svc = false → s.isJoined s.here = false → f.xa.toNat ≤ 9 → f.xs.toNat ≤ 10 → (baseOf th f.xa).p = false → (baseOf th f.xs).p = false →
    let c := s.core s.here
    let a := c.arr
    let next : Thread := { th with pc := th.pc + 16 }
    let fmt := f.fmt.toNat
    let k := f.imm.toNat
    let addr := fun r => (baseOf th f.xa).v + BitVec.ofNat 64 r * (baseOf th f.xs).v
    let at_ := fun (ea : Word) (o n : Nat) => ea.toNat < 2 ^ 60 ∧ ea.toNat % 2 ^ 56 = 0x00FFFFFFFFFC0000 + o ∧ o + n ≤ 2 ^ 18
    let inSpad := fun (r n : Nat) => at_ (addr r) (off r) n ∧ off r % 32 = 0
    let bytes := fun (o n : Nat) => s.mem.readN (spadHome s.here o) n
    let scaleAt := fun (i n : Nat) => f.sc = 1 → at_ ((baseOf th f.xq).v + BitVec.ofNat 64 (n * i)) (qoff i) n
    (f.sc = 1 → f.xq.toNat ≤ 10 ∧ (baseOf th f.xq).p = false) →
    (fmt ≤ 10 → (∀ r < k, inSpad r (weightBytes fmt)) → (∀ b < k / 32, scaleAt b 64) → ∃ arr : ArrayState,
      Opens s (s.updCore s.here fun c => { c with arr := arr }) next 0x41 h [] (exec (.wload h f) s) ∧
      arr.last = none ∧ arr.loaded = true ∧ arr.wf = fmt ∧ arr.wsc = (f.sc == 1) ∧ arr.wdepth = k ∧ arr.rowprog = 0 ∧ arr.acc = a.acc ∧ arr.accp = a.accp ∧ arr.role = a.role ∧
      arr.wrow = (List.range k).map (fun r => ofBytes (bytes (off r) (weightBytes fmt))) ∧
      arr.wscale = (if f.sc = 1 then (List.range (k / 32)).map fun b => ofBytes (bytes (qoff b) 64) else [])) ∧
    (a.loaded = true → a.wsc = (f.sc == 1) → pairsWith a.wf fmt = true → k ≤ a.wdepth → a.rowprog = 0 → s.poison = [] →
      (∀ r ≤ f.rown.toNat, inSpad r (packedBytes fmt k) ∧ scaleAt r (k / 32)) →
      let runs := fun (accum : Bool) (o : Out) => ∃ (x : Tab VReg) (y : Tab (BitVec 64)) (st : BitVec 32) (run : MmaRun),
        Opens s (s.updCore s.here fun c =>
          { c with arr := { c.arr with acc := x, accp := y, rowprog := 0, restart := [], last := some run }, accstat := c.accstat ||| st
                   accNew := c.accNew ||| st }) next 0x42 h [] o ∧
        (∀ r ≤ f.rown.toNat, ∀ n < colsOf a.wf,
          let w := if a.wf = 0 then 64 else 32
          let old := (Tab.get 0 (256 * a.role + (f.rowb.toNat + r) % 256) a.acc).extractLsb' (w * n) w
          let new := (Tab.get 0 (256 * a.role + (f.rowb.toNat + r) % 256) x).extractLsb' (w * n) w
          let d : StreamRow :=
            { data := ofBytes (bytes (off r) (packedBytes fmt k)), scales := if f.sc = 1 then ofBytes (bytes (qoff r) (k / 32)) else 0, pois := false }
          new = BitVec.ofNat w (a.sumInto fmt k d n (if accum then old.toNat else 0)).1 ∧
          (f.sc ≠ 1 → a.wf = 9 → fmt = 9 → new = (if accum then old else 0) + BitVec.ofInt w ((List.range k).map fun i =>
            (BitVec.ofNat 8 (d.data / 256 ^ i)).toInt * (BitVec.ofNat 8 (a.wrow.getD i 0 / 256 ^ n)).toInt).sum)) ∧
        (∀ b q, q < 256 → (b ≠ a.role ∨ ∀ r ≤ f.rown.toNat, (f.rowb.toNat + r) % 256 ≠ q) → Tab.get 0 (256 * b + q) x = Tab.get 0 (256 * b + q) a.acc)
      runs false (exec (.mma h f) s) ∧ runs true (exec (.mmaAcc h f) s))

/-- GANG.JOIN and GANG.LEAVE (R155, R157), for a task with array access and nothing in flight, at the start of an interval where its gang is paired: a join of a mask of the core alone completes at once and
joins it; one that other cores have still to reach blocks the thread on its berth with its arrival recorded; a leave of the last member frees the
gang, and of another leaves it dissolving. A join by a core that is joined already or that its mask leaves out, and a
leave by a core that is not joined, trap ARRAY_STATE. -/
def Obligations.GangJoinLeave : Prop :=
  ∀ (s : State) (th : Thread) (h : Hdr) (f : SF), Runs s th h → th.array = true → s.arrayInFlight = false → s.cur.svc = false →
    s.intervalOpen s.here = false →
    let g := s.here / 8
    let me := s.here % 8
    let x := s.gang g
    let b := f.imm.toNat % 2048
    let berth := (s.core s.here).berth b
    let next : Thread := { th with pc := th.pc + 8 }
    let mask := f.fl.toNat
    let join := exec (.gangJoin h f) s
    (s.isJoined s.here = false → x.dissolving = false → x.paired = false → (x.mask = 0 ∨ x.mask = mask) → mask / 2 ^ me % 2 = 1 → berth.kind = 0 →
      berth.waiters = [] →
      (mask = 2 ^ me → x.arrived = 0 → x.berths = [] → (∀ w ∈ s.curSlot.wins, w.decided = true) → berth.count < 0xFFFFFFFF → ∃ t, join = .next t ∧ t.thread = some next ∧
        (t.gang g).joined = mask ∧ (t.gang g).arrived = 0 ∧ ((t.core s.here).berth b).count = berth.count ∧ t.mem = s.mem) ∧
      (berth.count = 0 → x.arrived ||| 2 ^ me ≠ mask → s.curSlot.wins = [] →
        ∃ t, join = .next t ∧ t.slot s.cur = {} ∧ (t.gang g).arrived = x.arrived ||| 2 ^ me ∧ (t.gang g).mask = mask ∧
          ((t.core s.here).berth b).waiters = [{ th := next, kind := .wait 1 false, woken := none }])) ∧
    (s.isJoined s.here = true → x.paired = false → x.mma = [] →
      Goes (s.updGang g fun y => if y.joined = 2 ^ me then { paired := false } else { y with joined := y.joined - 2 ^ me, dissolving := true }) next
        (exec (.gangLeave h f) s)) ∧
    (s.isJoined s.here = true → join = .next (s.trapEnter s.cur 0x0C 0x06)) ∧
    (s.isJoined s.here = false → exec (.gangLeave h f) s = .next (s.trapEnter s.cur 0x0C 0x07)) ∧
    (s.isJoined s.here = false → x.dissolving = false → mask / 2 ^ me % 2 = 0 → join = .next (s.trapEnter s.cur 0x0C 0x05))

/-! Tasks, berths, messages -/

/-- ANCHOR, MOBILE, YIELD, MIGRATE and EXIT (R206 to R209). ANCHOR sets the mode; MOBILE clears it and sets pD for a task without V registers or array
access, and else clears pD; YIELD with an empty run queue, or in a service slot, goes on, and with a waiting context its slot is marked for the rotation
at the cycle's end, which R198 makes (`CoreAndEngineEvents`); MIGRATE
to the own core goes on, and to a rank that takes contexts sends this one there at once, behind what it has published, with the next PC; an
anchored thread's MIGRATE traps MIGRATE_DENIED. EXIT frees the slot and the task's monitors; the front end counts one exited task, at once where it has handled no event in the cycle and none waits, and
else keeps a note of it (the model's choice, log entry 31; R283 allows one event a cycle). No byte of memory changes
by any of them when nothing is queued. -/
def Obligations.TaskControl : Prop :=
  ∀ (s : State) (th : Thread) (h : Hdr) (f : SF), Runs s th h →
    let next : Thread := { th with pc := th.pc + 8 }
    let c := s.core s.here
    let v := (baseOf th f.a).v
    let e := (s.ctx th.ctx).rank v.toNat
    Goes s (next.setMode true) (exec (.anchor h f) s) ∧
    (th.vq = 0 → th.array = false → Goes s ((next.setMode false).setP f.d.toNat true) (exec (.mobile h f) s)) ∧
    (th.vq ≠ 0 ∨ th.array = true → Goes s (next.setP f.d.toNat false) (exec (.mobile h f) s)) ∧
    (∃ t, exec (.yield h f) s = .next t ∧ t.thread = some next ∧ Keeps s t ∧
      t.curSlot.yielded = (s.curSlot.yielded || (!s.cur.svc && !c.queue.isEmpty))) ∧
    ((baseOf th f.a).p = false →
      (th.anchored = true ∨ th.svc = true → exec (.migrate h f) s = .next (s.trapEnter s.cur 0x0B v)) ∧
      (th.anchored = false → th.svc = false → v.toNat < 2 ^ 24 → e.state ≠ 0 →
        (e.phys = s.here → Goes s next (exec (.migrate h f) s)) ∧
        (e.phys ≠ s.here → e.state = 1 → e.immig = false → exec (.migrate h f) s = .next (s.trapEnter s.cur 0x0B v)) ∧
        (e.phys ≠ s.here → (e.state = 1 → e.immig = true) → s.curSlot.wins = [] → Flushed s →
          ∃ t p, exec (.migrate h f) s = .next t ∧ t.slot s.cur = {} ∧ t.net = s.net ++ [p] ∧ p.ctx = th.ctx ∧ p.rank = v.toNat ∧
            p.gen = (s.ctx th.ctx).gen ∧ p.kind = .context 1 { next with rank := v.toNat } ∧ t.mem = s.mem ∧
            (t.core s.here).phasecnt = c.phasecnt + 1 ∧ ∀ l, l ≠ s.cur → t.slot l = s.slot l))) ∧
    (s.curSlot.wins = [] → Flushed s → th.array = false ∨ (th.svc = false ∧ s.isJoined s.here = false) → (s.job (s.ctx th.ctx).job).recording = none →
      let d := s.here / 512
      let free := (s.die d).feAt ≠ some s.cycle ∧ (s.die d).exits = []
      ∃ t, exec (.exitI h f) s = .next t ∧ t.slot s.cur = {} ∧ t.mem = s.mem ∧ t.net = s.net ∧
        (∀ q, (t.quay q).monitors = (s.quay q).monitors.filter fun m => !(m.ctx == th.ctx && m.task == th.task)) ∧
        (¬ free → t.launches = s.launches ∧ (t.die d).exits = (s.die d).exits ++ [{ ctx := th.ctx, task := th.task, new := false }]) ∧
        (∀ x, free → Tab.find th.launch s.launches = some x → (t.launch th.launch).exited = x.exited + 1 ∧
          (t.launch th.launch).live = x.live.filter fun k => k.taskid != th.taskid) ∧
        ∀ l, l ≠ s.cur → t.slot l = s.slot l)

/-- SPAWN of a GRID record in the own scratchpad (R204, R205, R286): the limits, depth, domain, scope, rights, size and placement are checked in that
order, each failure trapping LAUNCH with its reason; a record that passes all of them becomes a launch of the thread's context whose tasks are all
to be dispatched, counted by the thread's own launch, the front end of the die has had its event of the cycle (R283), and the thread goes on at once. Where
events before it in the order of R283 keep the front end of the die, it stalls; that one of its events and the issue are one step is the model's choice
(log entry 31). -/
def Obligations.SpawnGrid : Prop :=
  ∀ (s : State) (th : Thread) (h : Hdr) (f : EF) (off : Nat), Runs s th h → Quiet s → s.poison = [] →
    s.aligned th.ctx (locAgent s.cur) (.frontEnd (s.here / 512)) = true →
    let e := effective th f.a f.b f.fl f.imm
    e.p = false → OwnAt th e.v off 128 →
    let r := recOf false (s.mem.readN (spadHome s.here off) 128)
    let p := s.launch th.launch
    let here : LSource := .spawn th.launch th.rank (f.tail.toNat % 2048) (f.tail.getLsbD 11) (instanceBase th.domain th.rank) th.nlev th.domain
      th.scope (th.priv == 2) p.rcd.array
    let out := exec (.spawn h f) s
    let refuses := fun (reason resource : Nat) => out = .next (s.trapEnter s.cur 0x14 (BitVec.ofNat 64 (reason + 256 * resource)))
    (r.limits true = false → refuses 1 0) ∧
    (r.limits true = true → r.kind = 0 →
      (8 < th.nlev + r.nlev → refuses 2 0) ∧
      (th.nlev + r.nlev ≤ 8 → r.outer < th.domain → refuses 3 0) ∧
      (th.nlev + r.nlev ≤ 8 → th.domain ≤ r.outer → th.scope < r.memScope → refuses 4 0) ∧
      (th.nlev + r.nlev ≤ 8 → th.domain ≤ r.outer → r.memScope ≤ th.scope →
        (th.priv ≠ 2 → r.super = true ∨ (r.array = true ∧ p.rcd.array = false) → refuses 6 0) ∧
        (th.priv = 2 ∨ (r.super = false ∧ (r.array = true → p.rcd.array = true)) → r.indirect = false →
          (∀ n, r.oversize = some n → refuses 5 n) ∧
          (r.oversize = none → s.placeTasks th.ctx here r [] = none → refuses 7 0) ∧
          (∀ ts, r.oversize = none → s.placeTasks th.ctx here r [] = some ts →
            (s.ranksPresent th.ctx ts = false → refuses 7 0) ∧
            (s.ranksPresent th.ctx ts = true → s.feSpawns (s.here / 512) = false →
              ∃ t, out = .next t ∧ t.slot s.cur = { s.curSlot with stall := some .request, granted := false } ∧ t.launches = s.launches ∧ t.mem = s.mem) ∧
            (s.ranksPresent th.ctx ts = true → s.feSpawns (s.here / 512) = true → Tab.find th.launch s.launches = some p → p.cancelled = false → th.launch ≠ s.nextLaunch →
              ∃ ls, Goes (({ s with launches := ls, nextLaunch := s.nextLaunch + 1 }.updDie (s.here / 512) fun d => { d with feAt := some s.cycle }).updCore s.here
                    fun c => { c with phasecnt := c.phasecnt + 1 })
                  { th with pc := th.pc + 12 } out ∧
                (let x := Tab.get {} s.nextLaunch ls
                 x.ctx = th.ctx ∧ x.src = here ∧ x.rcd = r ∧ x.phase = .dispatching ∧ x.todo = ts ∧ x.live = [] ∧ x.cancelled = false) ∧
                Tab.get {} th.launch ls = { p with children := p.children + 1 } ∧
                ∀ n, n ≠ th.launch → n ≠ s.nextLaunch → Tab.find n ls = Tab.find n s.launches)))))

/-- WAIT, ARRIVE and BAR (R211, R217, R220, R221). An index of 2,048 or more traps BERTH_RANGE, and so does a berth of the wrong kind. WAIT whose
count is there, with nobody before it, goes on, takes it off a PLAIN berth and refreshes unless NR; any other WAIT joins the berth's list and gives
its slot up, but for a handler, which keeps its service slot and stub area. An arrival before the last adds one to COUNT; the last at a ROOT advances GEN and zeroes COUNT; the last elsewhere sets PENDING and
sends one arrival to the parent with its origin; one while PENDING is set aside. BAR arrives so and then waits for the next generation; where it is
itself the last at a ROOT, it wakes at once, to join a slot in the next cycle (R13). -/
def Obligations.BerthWaits : Prop :=
  ∀ (s : State) (th : Thread) (h : Hdr) (f : SF), Runs s th h → Flushed s → (baseOf th f.a).p = false →
    let v := (baseOf th f.a).v + BitVec.ofNat 64 (f.imm.toNat % 2048)
    let n := v.toNat
    let c := s.core s.here
    let x := c.berth n
    let next : Thread := { th with pc := th.pc + 8 }
    let wait := exec (.waitI h f) s
    let arrive := exec (.arrive h f) s
    let bar := exec (.bar h f) s
    let refuses := fun (o : Out) => o = .next (s.trapEnter s.cur 0x0D v)
    let need := ((baseOf th f.b).v + f.fl.setWidth 64).toNat % 2 ^ 32
    let last := x.cfg.toNat / 2 ^ 44 % 64 + x.cfg.toNat / 2 ^ 38 % 64
    let base := fun (y : Berth) => s.updCore s.here fun c =>
      { c.updBerth n fun _ => y with phasecnt := c.phasecnt + if f.fl.getLsbD 4 then 0 else 1 }
    let left : Slot := if s.cur.svc then { th := some next, stall := some .asleep } else {}
    let parks := fun (o : Out) (y : Berth) => s.curSlot.wins = [] → ∃ t, o = .next t ∧ t.slot s.cur = left ∧ (t.core s.here).berth n = y ∧
      t.rest = s.rest ∧ (∀ l, l ≠ s.cur → t.slot l = s.slot l)
    (2048 ≤ n → refuses wait ∧ refuses arrive ∧ refuses bar) ∧
    (n < 2048 → (x.kind = 3 → refuses wait) ∧ (x.kind ≠ 3 → refuses arrive ∧ refuses bar) ∧
      (x.kind ≠ 3 → need = 0 ∨ (need ≤ x.count ∧ x.waiters = []) →
        Goes (s.updCore s.here fun c =>
          let k := c.updBerth n fun y => { y with count := if y.kind = 0 then y.count - need else y.count }
          if f.imm.getLsbD 11 then k else { k with pins := [], phasecnt := k.phasecnt + 1 }) next wait) ∧
      (x.kind ≠ 3 → need ≠ 0 → x.count < need ∨ x.waiters ≠ [] →
        parks wait { x with waiters := x.waiters ++ [{ th := next, kind := .wait need (f.imm.getLsbD 11), woken := none }] }) ∧
      (x.kind = 3 → x.pending = true → Goes (base { x with aside := x.aside ++ [none] }) next arrive) ∧
      (x.kind = 3 → x.pending = false → x.count + 1 < last →
        Goes (base { x with count := x.count + 1 }) next arrive ∧
        parks bar { x with count := x.count + 1,
                           waiters := x.waiters ++ [{ th := next, kind := .bar x.gen (f.fl.getLsbD 5), woken := none }] }) ∧
      (x.kind = 3 → x.pending = false → last ≤ x.count + 1 → x.cfg.getLsbD 35 = true → x.origins = [] → x.aside = [] → x.waiters = [] →
        Goes (base { x with count := 0, gen := (x.gen + 1) % 256 }) next arrive ∧
        (s.cur.svc = false → s.cur.slot < c.slots.length → c.queue.length ≤ 48 → c.woke = [] → c.marked = 0 → s.curSlot.wins = [] → ∃ t, bar = .next t ∧
          (t.core s.here).berth n = { x with count := 0, gen := (x.gen + 1) % 256 } ∧ t.rest = s.rest ∧ t.slot s.cur = {} ∧
          (t.core s.here).woke = [(c.wakeNo, next)])) ∧
      (x.kind = 3 → x.pending = false → last ≤ x.count + 1 → x.cfg.getLsbD 35 = false →
        ∃ ls p, Goes ({ s with launches := ls, net := s.net ++ [p] }.updCore s.here fun c =>
            { c.updBerth n fun y => { y with count := 0, pending := true } with phasecnt := c.phasecnt + if f.fl.getLsbD 4 then 0 else 1 }) next arrive ∧
          p.ctx = th.ctx ∧ p.rank = x.cfg.toNat % 2 ^ 24 ∧
          p.kind = .inc (x.cfg.toNat / 2 ^ 24 % 2 ^ 11) (some { rank := (s.ctx th.ctx).rankAt s.here, berth := n })))

/-- BCFG, BREAD and BCLR (R222 to R224) on a berth below 2,048: a legal word on a berth without waiters makes it a berth of that kind with every other
field zero, but for COUNT of an ALLOW berth, the channel packets that wait for a slot of its full ring being dropped at their turn (R226), and any other
BCFG traps BERTH_RANGE; BREAD puts the status word together from the berth's fields;
BCLR zeroes COUNT and OVF alone. -/
def Obligations.BerthConfiguration : Prop :=
  ∀ (s : State) (th : Thread) (h : Hdr) (f : EF), Runs s th h → (baseOf th f.a).p = false →
    let v := (baseOf th f.a).v + BitVec.ofNat 64 (f.tail.toNat % 2048)
    let n := v.toNat
    let x := (s.core s.here).berth n
    let w := (baseOf th f.b).v
    let part := fun (hi lo : Nat) => w.toNat / 2 ^ lo % 2 ^ (hi + 1 - lo)
    let kind := part 63 62
    let legal :=
      (kind = 0 ∧ w = 0) ∨
      (kind = 1 ∧ part 40 37 ≤ 13 ∧ part 36 35 = 0 ∧ 16 * part 61 48 + 2 ^ part 40 37 * (16 + 16 * (part 47 41 + 1)) ≤ 2 ^ 18) ∨
      (kind = 2 ∧ part 61 39 = 0 ∧ part 38 35 ≤ 13) ∨
      (kind = 3 ∧ part 61 50 = 0 ∧ part 37 36 = 0 ∧ part 43 38 ≤ 32 ∧ 1 ≤ part 49 44 + part 43 38 ∧ (part 35 35 = 1 → part 34 0 = 0))
    let next : Thread := { th with pc := th.pc + 12 }
    let refuses := fun (o : Out) => o = .next (s.trapEnter s.cur 0x0D v)
    let set := fun (y : Berth) => s.updCore s.here fun c => c.updBerth n fun _ => y
    (2048 ≤ n → refuses (exec (.bcfg h f) s) ∧ refuses (exec (.bread h f) s) ∧ refuses (exec (.bclr h f) s)) ∧
    (n < 2048 →
      (legal → x.waiters = [] → ∃ ps,
        Goes ({ s with net := ps }.updCore s.here fun c => c.updBerth n fun _ =>
          { kind := kind, cfg := w, count := if kind = 2 then 2 ^ part 38 35 else 0 }) next (exec (.bcfg h f) s) ∧
        ps.length = s.net.length ∧ ∀ (i : Nat) (p : Packet), s.net[i]? = some p → ∃ d, ps[i]? = some ({ p with doomed := d } : Packet) ∧
          (d = true ↔ p.doomed = true ∨ (x.kind = 1 ∧ 2 ^ (x.cfg.toNat / 2 ^ 37 % 16) ≤ (x.widx + 2 ^ 32 - x.ridx) % 2 ^ 32 ∧
            (∃ len data po sc l, p.kind = .chan n len data po sc l) ∧ ((s.ctx p.ctx).rank p.rank).phys = s.here))) ∧
      (¬ legal ∨ x.waiters ≠ [] → refuses (exec (.bcfg h f) s)) ∧
      Goes (set { x with count := 0, ovf := false }) next (exec (.bclr h f) s) ∧
      ∃ y : Word, WritesX s th 12 f.d { v := y, p := false } (exec (.bread h f) s) ∧
        y.extractLsb' 62 2 = BitVec.ofNat 2 x.kind ∧ y.getLsbD 61 = x.ovf ∧ y.getLsbD 60 = x.held ∧ y.getLsbD 59 = x.pending ∧
        y.extractLsb' 56 3 = 0 ∧ y.extractLsb' 48 8 = BitVec.ofNat 8 x.gen ∧ y.extractLsb' 46 2 = 0 ∧
        y.extractLsb' 32 14 = BitVec.ofNat 14 x.ridx ∧ y.extractLsb' 0 32 = BitVec.ofNat 32 x.count)

/-- SEND, CPUT, CGET and CGET.REL (R218, R225 to R227), the payload in the own scratchpad. SEND puts one packet for the rank on the network, with the
bytes read now, or a bare increment for LEN 0. CPUT on an ALLOW berth with allowance takes one, sets pD and sends the bytes to the berth's partner,
and without allowance clears pD and does nothing else. CGET on a SLOT berth first returns the slot that it holds, with its allowance, to the
producer; then it takes the next slot that has landed, its address to X and pD := 1, or clears pD. CGET.REL only returns the slot. -/
def Obligations.Messages : Prop :=
  ∀ (s : State) (th : Thread) (h : Hdr) (f : EF), Runs s th h → th.svc = false →
    let next : Thread := { th with pc := th.pc + 12 }
    let len := (baseOf th f.c).v.toNat
    let b := f.imm.toNat % 2048
    let x := (s.core s.here).berth b
    let partner := x.cfg.toNat % 2 ^ 24
    let theirs := x.cfg.toNat / 2 ^ 24 % 2 ^ 11
    let at_ := fun (ea : Word) (off : Nat) => ea.toNat < 2 ^ 60 ∧ ea.toNat % 2 ^ 56 = 0x00FFFFFFFFFC0000 + off ∧ off + len ≤ 2 ^ 18
    let scope := fun (rank : Nat) => let dest := ((s.ctx th.ctx).rank rank).phys
      if s.here / 32 = dest / 32 then 0 else if s.here / 512 = dest / 512 then 1 else 2
    let published := if f.fl.getLsbD 4 then 0 else 1
    let to_ := fun (p : Packet) (rank : Nat) (k : PKind) =>
      p.src = s.here ∧ p.origin = th.rank ∧ p.ctx = th.ctx ∧ p.gen = (s.ctx th.ctx).gen ∧ p.rank = rank ∧ p.kind = k
    let ring := 16 * (x.cfg.toNat / 2 ^ 48 % 2 ^ 14)
    let size := 16 + 16 * (x.cfg.toNat / 2 ^ 41 % 2 ^ 7 + 1)
    let slot := fun (i : Nat) => BitVec.ofNat 64 (0x00FFFFFFFFFC0000 + ring + i % 2 ^ (x.cfg.toNat / 2 ^ 37 % 2 ^ 4) * size)
    let ridx := (x.ridx + 1) % 2 ^ 32
    let took := fun (base : State) (i count : Nat) => base.updCore s.here fun c => c.updBerth b fun y => { y with count := count - 1, held := true, ridx := i }
    (Quiet s → s.poison = [] → len ≤ 2048 → len % 8 = 0 →
      (∀ off, at_ (baseOf th f.b).v off → (baseOf th f.b).p = false → (baseOf th f.f).p = false → (baseOf th f.f).v.toNat % 8 = 0 →
        (baseOf th f.a).p = false → (baseOf th f.a).v.toNat < 2 ^ 24 → ((s.ctx th.ctx).rank (baseOf th f.a).v.toNat).state ≠ 0 →
        let rank := (baseOf th f.a).v.toNat
        ∃ ls p, Goes ({ s with launches := ls, net := s.net ++ [p] }.updCore s.here fun c => { c with phasecnt := c.phasecnt + published }) next
            (exec (.sendI h f) s) ∧
          to_ p rank (if len = 0 then .inc b none
            else .place b (baseOf th f.f).v.toNat (s.mem.readN (spadHome s.here off) len) [] (scope rank) th.launch none)) ∧
      (∀ off, at_ (baseOf th f.a).v off → (baseOf th f.a).p = false → x.kind = 2 → 0 < x.count →
        ∃ ls p, Goes ({ s with launches := ls, net := s.net ++ [p] }.updCore s.here fun c =>
            { c.updBerth b fun y => { y with count := y.count - 1 } with phasecnt := c.phasecnt + published }) (next.setP f.d.toNat true)
            (exec (.cput h f) s) ∧
          to_ p partner (.chan theirs len (s.mem.readN (spadHome s.here off) len) [] (scope partner) th.launch))) ∧
    ((baseOf th f.a).p = false → x.kind = 2 → x.count = 0 → Goes s (next.setP f.d.toNat false) (exec (.cput h f) s)) ∧
    (x.kind ≠ 2 → (baseOf th f.a).p = false → exec (.cput h f) s = .next (s.trapEnter s.cur 0x0D (BitVec.ofNat 64 b))) ∧
    (x.kind ≠ 1 → exec (.cget h f) s = .next (s.trapEnter s.cur 0x0D (BitVec.ofNat 64 b)) ∧
      exec (.cgetRel h f) s = .next (s.trapEnter s.cur 0x0D (BitVec.ofNat 64 b))) ∧
    (x.kind = 1 → x.held = false → Goes s next (exec (.cgetRel h f) s) ∧
      (x.count = 0 → Goes s (next.setP f.d.toNat false) (exec (.cget h f) s)) ∧
      (0 < x.count → Goes (took s x.ridx x.count) ((next.setP f.d.toNat true).writeX f.f { v := slot x.ridx, p := false }) (exec (.cget h f) s))) ∧
    (x.kind = 1 → x.held = true → s.isPaired s.here = false → ∃ p, to_ p partner (.inc theirs none) ∧
      let s1 := { s with net := s.net ++ [p] }
      let back := s1.updCore s.here fun c => c.updBerth b fun y => { y with held := false, ridx := ridx }
      Goes back next (exec (.cgetRel h f) s) ∧
      (x.count = 0 → Goes back (next.setP f.d.toNat false) (exec (.cget h f) s)) ∧
      (0 < x.count → Goes (took s1 ridx x.count) ((next.setP f.d.toNat true).writeX f.f { v := slot ridx, p := false }) (exec (.cget h f) s)))

/-- REPB, REPE and REPX (R273, R274, R276). REPB on a free buffer makes it the thread's and sets pD; on any other it clears pD. REPE of the owner with
nothing to repeat frees the buffer; with a body that passes the check the sequence runs from its first instruction with N, SV, SR, the step and the
X registers as they stand; for any other thread it does nothing. REPX of the owner frees the buffer and sets pD, and of another clears it. -/
def Obligations.Repetition : Prop :=
  ∀ (s : State) (th : Thread) (h : Hdr) (f : SF), s.thread = some th → guardOk h th = true →
    let next : Thread := { th with pc := th.pc + 8 }
    let r := (s.core s.here).rpt
    let mine := r.owner = some th.task ∧ r.svc = th.svc
    let set := fun (x : RepBuf) => s.updCore s.here fun c => { c with rpt := x }
    let n := min (srcB f th).v.toNat 4096
    let starts : RepBuf :=
      { r with running := true, n := n, sv := f.d.toNat, sr := f.fl.toNat, step := baseOf th f.a, iter := 0, pos := 0,
               xs := (List.range 10).map th.xreg }
    (r.owner = none → Goes (set { owner := some th.task, svc := th.svc }) (next.setP f.d.toNat true) (exec (.repb h f) s)) ∧
    (r.owner ≠ none → ¬ mine → Goes s (next.setP f.d.toNat false) (exec (.repb h f) s)) ∧
    (¬ mine → Goes s next (exec (.repe h f) s) ∧ Goes s (next.setP f.d.toNat false) (exec (.repx h f) s)) ∧
    (mine → r.running = false →
      (n = 0 ∨ r.body = [] → Goes (set {}) next (exec (.repe h f) s)) ∧
      (n ≠ 0 → r.body ≠ [] →
        seqTry s.here (evalWord (.repe h f)) (n * r.body.length) ((set starts).aloneInGang s.here) = .passed →
        Goes (set starts) next (exec (.repe h f) s))) ∧
    (mine → s.curSlot.stall = none → s.cur.slot < 16 → ∃ t, exec (.repx h f) s = .next t ∧ (t.core s.here).rpt = {} ∧ t.thread = some (next.setP f.d.toNat true) ∧
      t.mem = s.mem ∧ t.net = s.net ∧ ∀ i, (t.core s.here).v i = (s.core s.here).v i)

/-- BTX and BTABORT (R243, R258, R262, R270, R271). A kick of a channel of the thread's context whose template can be read and is legal enters a copy of
that template behind those there, and its bounding range the core's scoreboard; the thread goes on at once. An abort leaves as one packet for
the lighter. Both count one publish boundary. -/
def Obligations.CopyKicks : Prop :=
  ∀ (s : State) (th : Thread) (h : Hdr) (f : EF) (q : Nat), Runs s th h → Flushed s →
    (f.a = 10 ∧ q = s.here / 32) ∨ (f.a.toNat ≤ 9 ∧ (th.xreg f.a.toNat).p = false ∧ (th.xreg f.a.toNat).v.toNat = q ∧ q < 128) →
    let n := f.tail.toNat % 64
    let next : Thread := { th with pc := th.pc + 12 }
    let ch := (s.quay q).chan n
    let value := if f.b = 11 then f.imm.signExtend 64 else (baseOf th f.b).v
    let s0 := s.updCore s.here fun c => { c with phasecnt := c.phasecnt + 1 }
    let s1 : State := { s0 with serial := s.serial + 1 }
    let k : Kick := { value := value, core := s.here, rank := th.rank, ctx := th.ctx, gen := (s.ctx th.ctx).gen, task := th.task, copyout := false,
                      serial := s.serial }
    (s.isPaired s.here = false → ∃ p, Goes { s0 with net := s.net ++ [p] } next (exec (.btabort h f) s) ∧
      p.kind = .abort q n ∧ p.ctx = th.ctx ∧ p.rank = 2 ^ 25 + q) ∧
    (s.curSlot.wins = [] → (s.core s.here).board = [] → s.kicksPending s.here < 8 → s.aligned th.ctx (locAgent s.cur) (.lighter q) = true →
      (∀ p ∈ s.net, p.src = s.here → p.kind ≠ .abort q n) → ch.owner = some th.ctx → ch.pending = [] → ch.copies.length ≤ 16 →
      (∀ c ∈ ch.copies, c.finished = false) → ∀ tp, s1.kickTemplate q k = (some (.ok (tp, 0)), s1) →
      tp.form ≠ 3 →
      let t1 : Template := { tp with drank := if tp.drank = 0xFFFFFF then th.rank else tp.drank }
      t1.legal 0 = true →
      Goes ((s1.updQuay q fun x => x.updChan n fun y => { y with copies := ch.copies ++ [{ kick := k, t := t1 }] }).updCore s.here fun c =>
          { c with board := [{ quay := q, serial := s.serial, lo := t1.range.1, hi := t1.range.2 }] }) next (exec (.btx h f) s))

/-- COLL with its record in the own scratchpad (R277 to R279): one publish boundary, and D takes through the latch the engine's code: 2 for a record that
breaks a limit, 1 for a tree table or node that is not the caller's, 3 for an OPID that this node already takes part in, and 0 for the first participant
of an operation whose source can be read; unless its result comes down at once (BROADCAST's root, or a tree of one node) it then stands in the die's
engine with its node, its rank and, but for a BROADCAST's other nodes, the elements of its source. -/
def Obligations.CollectiveAcceptance : Prop :=
  ∀ (s : State) (th : Thread) (h : Hdr) (f : EF) (off : Nat), Runs s th h → s.curSlot.wins.length < 2 → Quiet s → s.poison = [] →
    s.aligned th.ctx (locAgent s.cur) (.collective (s.here / 512)) = true →
    let e := effective th f.a f.b f.fl f.imm
    e.p = false → OwnAt th e.v off 64 →
    let r := collRec (s.mem.readN (spadHome s.here off) 64)
    let s0 := s.updCore s.here fun c => { c with phasecnt := c.phasecnt + 1 }
    let die := s.here / 512
    let next : Thread := { th with pc := th.pc + 12 }
    let out := exec (.coll h f) s
    let answers := fun (base : State) (code : Nat) =>
      Opens s base next 0x6B h (if f.d.toNat ≤ 9 then [.x f.d.toNat { v := BitVec.ofNat 64 code, p := false }] else []) out
    (r.legal 1 = false → answers s0 2) ∧
    (r.legal 1 = true → s0.readTree (collEng die th.ctx) (threadReader s.cur) r.tree = (some none, s0) → answers s0 1) ∧
    (∀ parents ranks, r.legal 1 = true → s0.readTree (collEng die th.ctx) (threadReader s.cur) r.tree = (some (some (parents, ranks)), s0) →
      (ranks[r.node]? ≠ some th.rank → answers s0 1) ∧
      (ranks[r.node]? = some th.rank → r.legal ranks.length = false → answers s0 2) ∧
      (ranks[r.node]? = some th.rank → r.legal ranks.length = true →
        (∀ d ∈ s.dies, ∀ o ∈ d.2.colls, o.opid = r.opid → o.ctx = th.ctx → ∀ n ∈ o.nodes, ¬ (n.node = r.node ∧ n.rank = th.rank)) →
        (64 ≤ (s.die die).colls.length → (∀ o ∈ (s.die die).colls, o.opid ≠ r.opid) → answers s0 3) ∧
        ((s.die die).colls.length < 64 → (∀ d ∈ s.dies, ∀ o ∈ d.2.colls, o.opid ≠ r.opid) →
          let n : CollNode :=
            { node := r.node, rank := th.rank, op := r.op, red := r.red, ty := r.ty, count := r.count, src := r.src, dst := r.dst, ptag := r.ptag }
          let u := s0.updDie die fun d =>
            { d with colls := d.colls ++ [{ opid := r.opid, ctx := th.ctx, parents := parents, ranks := ranks, nodes := [n] }] }
          let size := collSize r.op r.ty
          let reads := fun (bs : List (Byte × Bool)) => if r.op = 2 ∧ r.node ≠ 0 then bs = []
            else u.eRead (collEng die th.ctx) none true (r.count * size) r.src = (.ok bs, u)
          ∀ bs, reads bs → (∃ base, answers base 0) ∧
            (r.node ≠ 0 ∨ (r.op ≠ 2 ∧ 1 < ranks.length) →
              ∃ ds, answers { s0 with dies := ds } 0 ∧ ∃ o ∈ (Tab.get {} die ds).colls, o.opid = r.opid ∧ o.ctx = th.ctx ∧ o.parents = parents ∧
                o.ranks = ranks ∧ o.nodes = [{ n with loaded := true, parts := [(r.node, elemsOf size bs)] }]))) ∧
      (ranks[r.node]? = some th.rank → r.legal ranks.length = true →
        (∃ d ∈ s.dies, ∃ o ∈ d.2.colls, o.opid = r.opid ∧ o.ctx = th.ctx ∧ ∃ n ∈ o.nodes, n.node = r.node ∧ n.rank = th.rank) → answers s0 3))

/-! Slates and the sampler -/

/-- SLR, SLW, FORCE and GSET on a slate of the thread's context, answered at once (R336 to R343). SLR reads each field by its number; SLW writes a field
that software may write when the value keeps its limits, and traps SLATE when not; FORCE appends the tokens that there is room for and answers how
many, a held sequence going on when it took any; GSET answers the old grammar state. A slate of another context traps SLATE. That a request is answered
in the step that makes it (`prompt`) is the model's own (log entry 10). -/
def Obligations.SlateFields : Prop :=
  ∀ (s : State) (th : Thread) (h : Hdr) (f : EF), Runs s th h → s.curSlot.wins.length < 2 → Quiet s → s.prompt = true → (baseOf th f.a).p = false →
    (baseOf th f.a).v.toNat < 2 ^ 15 →
    let i := (baseOf th f.a).v.toNat
    s.aligned th.ctx (locAgent s.cur) (.sampler (i / 4096)) = true →
    let x := s.slate i
    let n := f.imm.toNat
    let next : Thread := { th with pc := th.pc + 12 }
    let latch := fun (w : PWord) => if f.d.toNat ≤ 9 then [.x f.d.toNat w] else []
    let traps := fun (o : Out) => o = .next (s.trapEnter s.cur 0x11 (BitVec.ofNat 64 i))
    let reads := fun (w : PWord) => Opens s s next 0x71 h (latch w) (exec (.slr h f) s)
    let clean := fun (v : Word) => ({ v := v, p := false } : PWord)
    let w := if f.b = 11 then (f.tail.signExtend 64) else (baseOf th f.b).v
    let writes := fun (k : Nat) (ok : Bool) (y : Slate) => n = k →
      (ok = true → Opens s (s.updSlate i fun _ => y) next 0x71 h [] (exec (.slw h f) s)) ∧ (ok = false → traps (exec (.slw h f) s))
    (x.alloc = false ∨ x.ctx ≠ th.ctx → traps (exec (.slr h f) s) ∧ traps (exec (.gset h f) s)) ∧
    (x.alloc = true → x.ctx = th.ctx →
      (n < 8 → reads { v := x.s.toList.getD n 0, p := x.sp.getLsbD n }) ∧
      (∀ e ∈ [(8, x.wbase), (9, x.wsize.setWidth 64), (10, x.ven), (12, x.rngkey), (13, x.step), (14, x.vb.setWidth 64), (15, x.vocab.setWidth 64),
          (16, x.gbase), (17, x.gcount.setWidth 64), (18, x.gstate.setWidth 64), (19, x.hookbase), (20, x.kvbase), (21, x.kvgeo), (22, x.kvpos),
          (23, x.opst), (24, x.opacc), (26, 0), (25, if 2 ≤ th.priv then BitVec.ofNat 64 (x.ctx % 4096 + if x.alloc then 4096 else 0) else 0)],
        n = e.1 → reads (clean e.2)) ∧
      (n = 11 → x.stat < 4 → x.tlimit < 256 → x.tcount < 256 → ∃ v : Word, reads (clean v) ∧ v.extractLsb' 0 2 = BitVec.ofNat 2 x.stat ∧
        v.getLsbD 2 = x.omode ∧ v.extractLsb' 8 8 = BitVec.ofNat 8 x.tlimit ∧ v.extractLsb' 16 8 = BitVec.ofNat 8 x.tcount ∧
        v.extractLsb' 25 39 = BitVec.ofNat 39 x.fq.length) ∧
      writes 8 (decide (w.toNat < 2 ^ 56 ∧ w.toNat % 64 = 0)) { x with wbase := w } ∧
      writes 9 (decide (64 ≤ w.toNat ∧ w.toNat ≤ 2 ^ 20 ∧ w &&& (w - 1) = 0)) { x with wsize := w.setWidth 32 } ∧
      writes 10 true { x with ven := w &&& 0x3FFFFF } ∧ writes 12 true { x with rngkey := w } ∧ writes 13 true { x with step := w } ∧
      writes 11 (decide (w.toNat % 4 ≠ 3)) { x with
        stat := w.toNat % 4, omode := w.getLsbD 2, tlimit := w.toNat / 2 ^ 8 % 2 ^ 8, tcount := w.toNat / 2 ^ 16 % 2 ^ 8,
        opst := if w.getLsbD 3 then 0 else x.opst, opacc := if w.getLsbD 3 then 0 else x.opacc, fq := if w.getLsbD 24 then [] else x.fq } ∧
      writes 14 (decide (w.toNat < 2 ^ 32)) { x with vb := w.setWidth 32 } ∧
      writes 15 (decide (w.toNat < 2 ^ 32)) { x with vocab := w.setWidth 32 } ∧
      writes 16 (decide (w.toNat < 2 ^ 56 ∧ w.toNat % 32 = 0)) { x with gbase := w } ∧
      writes 17 (decide (w.toNat < 2 ^ 32)) { x with gcount := w.setWidth 32 } ∧
      writes 19 (decide (w.toNat < 2 ^ 56)) { x with hookbase := w } ∧
      writes 20 (decide (w.toNat < 2 ^ 56 ∧ w.toNat % 64 = 0)) { x with kvbase := w } ∧
      writes 22 true { x with kvpos := w } ∧
      writes 21 (let part := fun (hi lo : Nat) => w.toNat / 2 ^ lo % 2 ^ (hi + 1 - lo)
        decide (part 47 0 = 0 ∨ (1 ≤ part 47 40 ∧ 1 ≤ part 23 16 ∧ part 23 16 ≤ 16 ∧ 1 ≤ part 39 24 ∧ part 39 24 < 2 ^ part 23 16 ∧
          part 15 0 % 64 = 0 ∧ 64 ≤ part 15 0 ∧ part 15 0 ≤ 4096))) { x with kvgeo := w &&& 0xFFFFFFFFFFFF } ∧
      (n < 8 → Opens s (s.updSlate i fun y => { y with
        s := y.s.setIfInBounds n w
        sp := if f.b ≠ 11 ∧ (baseOf th f.b).p = true then y.sp ||| (1#8 <<< n) else y.sp &&& ~~~(1#8 <<< n) }) next 0x71 h [] (exec (.slw h f) s)) ∧
      (n = 25 → th.priv < 2 → exec (.slw h f) s = .next (s.trapEnter s.cur 0x02 (evalWord (.slw h f)))) ∧
      (2 ≤ th.priv → writes 25 true { x with ctx := w.toNat % 4096, alloc := w.getLsbD 12 }) ∧
      (n = 26 → w.toNat ≤ 1 → Opens s s { next with seq := if w = 1 then BitVec.ofNat 32 i else 0xFFFFFFFF } 0x71 h [] (exec (.slw h f) s)) ∧
      (let v := (srcBE f th).v.toNat % 2 ^ 32
       (v = 0xFFFFFFFF ∨ v < x.gcount.toNat → Opens s (s.updSlate i fun y => { y with gstate := BitVec.ofNat 32 v }) next 0x71 h
          (latch (clean (x.gstate.setWidth 64))) (exec (.gset h f) s)) ∧
       (v ≠ 0xFFFFFFFF → x.gcount.toNat ≤ v → traps (exec (.gset h f) s))) ∧
      (∀ off, s.poison = [] → (th.xreg f.b.toNat).p = false → OwnAt th (th.xreg f.b.toNat).v off 4 → off + 4 * f.tail.toNat ≤ 2 ^ 18 →
        let toks := (List.range f.tail.toNat).map fun k => ofBytes (s.mem.readN (spadHome s.here off + 4 * k) 4)
        let bad := fun t => x.vocab.toNat ≤ t ∨ (x.vb.toNat + 350 ≤ t ∧ t ≤ x.vb.toNat + 511)
        let k := min toks.length (64 - x.fq.length)
        ((∃ t ∈ toks, bad t) → traps (exec (.force h f) s)) ∧
        ((∀ t ∈ toks, ¬ bad t) → Opens s (s.updSlate i fun y =>
            { y with fq := y.fq ++ (toks.take k).map (fun t => (BitVec.ofNat 32 t, 0)), stat := if k ≠ 0 ∧ y.stat = 1 then 0 else y.stat })
          next 0x71 h (latch (clean (BitVec.ofNat 64 k))) (exec (.force h f) s))))

/-- DRAW, ACCEPT, KVPUT and KVCOMMIT (R345, R349 to R351), their records and rows in the own scratchpad. DRAW over a tree table of one participant on a
slate of its own die registers that participant's shard at the slate and opens a window that waits for the token; ACCEPT of one node samples its P,
verb tokens left out, stores the token and counts a step; KVPUT copies one row into the layer's ring, or answers why it may not; KVCOMMIT moves KVPOS
on, or answers all ones, with the poison of its count (R404). A request that is answered in the step that makes it (`prompt`) is the model's own (log
entry 10). -/
def Obligations.SlateSampler : Prop :=
  ∀ (s : State) (th : Thread) (h : Hdr) (f : EF) (off : Nat), Runs s th h → s.curSlot.wins.length < 2 → Quiet s → s.prompt = true → s.poison = [] →
    (baseOf th f.a).p = false → (baseOf th f.a).v.toNat < 2 ^ 15 →
    let i := (baseOf th f.a).v.toNat
    s.aligned th.ctx (locAgent s.cur) (.sampler (i / 4096)) = true →
    let x := s.slate i
    let here := spadHome s.here 0
    let next : Thread := { th with pc := th.pc + 12 }
    let latch := fun (v : Word) => if f.d.toNat ≤ 9 then [LatchWrite.x f.d.toNat { v := v, p := false }] else []
    let ra := th.xreg f.b.toNat
    let at_ := fun (o n : Nat) => ofBytes (s.mem.readN (here + o) n)
    x.alloc = true → x.ctx = th.ctx →
    (ra.p = false → OwnAt th ra.v off 32 →
      let tree := BitVec.ofNat 64 (at_ (off + 24) 8)
      let logits := BitVec.ofNat 64 (at_ off 8)
      let first := at_ (off + 8) 4
      let count := at_ (off + 12) 4
      let inv := (baseOf th f.c).v.toNat % 2 ^ 32
      ∀ toff, (tree.toNat < 2 ^ 60 ∧ tree.toNat % 2 ^ 56 = 0x00FFFFFFFFFC0000 + toff ∧ toff + 24 ≤ 2 ^ 18) →
        logits.toNat % 64 = 0 → 1 ≤ count → at_ (off + 16) 1 ≤ 1 → at_ (off + 17) 1 = 0 → at_ (off + 18) 2 = 0 → at_ (off + 20) 4 = 0 → inv < 0x7F800000 →
        at_ toff 16 = 1 → at_ (toff + 16) 8 = 0xFFFF * 2 ^ 32 + th.rank → th.rank < 2 ^ 24 → ((s.ctx th.ctx).rank th.rank).state ≠ 0 →
        ((s.ctx th.ctx).rank th.rank).phys / 512 = i / 4096 → x.vb.toNat + 512 ≤ x.vocab.toNat → first + count ≤ x.vocab.toNat →
        ∃ t, exec (.draw h f) s = .next t ∧ t.thread = some next ∧ t.mem = s.mem ∧
          (∃ w, t.curSlot.wins = s.curSlot.wins.map (fun y => { y with left := y.left - 1 }) ++ [w] ∧ w.major = 0x70 ∧ w.left = h.la.toNat ∧
            w.decided = false ∧ w.refresh = true ∧ w.tag = s.serial) ∧
          ∃ r, (t.slate i).draws = x.draws ++ [r] ∧ r.node = 0 ∧ r.task = th.task ∧ r.ctx = th.ctx ∧ r.rank = th.rank ∧ r.loc = s.cur ∧
            r.serial = s.serial ∧ r.xd = f.d.toNat ∧ r.xs = f.f.toNat ∧ r.logits = logits ∧ r.first = first ∧ r.count = count ∧
            r.fmt = at_ (off + 16) 1 ∧ r.parents = [0xFFFF] ∧ r.ranks = [th.rank] ∧ r.invT = inv) ∧
    (ra.p = false → OwnAt th ra.v off 64 →
      let n := at_ (off + 4) 4
      let nodes := BitVec.ofNat 64 (at_ (off + 8) 8)
      let out := BitVec.ofNat 64 (at_ (off + 16) 8)
      let opens := fun (latch : List LatchWrite) (base : State) (o : Out) => ∃ t, o = .next t ∧ t.thread = some next ∧ Keeps base t ∧
        ∃ w, t.curSlot.wins = s.curSlot.wins.map (fun y => { y with left := y.left - 1 }) ++ [w] ∧ w.major = 0x72 ∧ w.left = h.la.toNat ∧
          w.latch = latch ∧ w.late = [] ∧ w.refresh = true
      let phase := fun (u : State) => u.updCore s.here fun c => { c with phasecnt := c.phasecnt + 1 }
      (at_ off 4 = 0 ∨ 64 < at_ off 4 → opens (latch (2 ^ 16)) (phase s) (exec (.accept h f) s)) ∧
      (∀ noff poff ooff, at_ off 4 = 1 → 1 ≤ n → n ≤ 2 ^ 16 →
        (nodes.toNat = 0x00FFFFFFFFFC0000 + noff ∧ noff + 32 ≤ 2 ^ 18) → (out.toNat = 0x00FFFFFFFFFC0000 + ooff ∧ ooff + 4 ≤ 2 ^ 18 ∧ ooff % 4 = 0) →
        at_ (off + 24) 40 = 0 → at_ (noff + 4) 2 = 0xFFFF → at_ (noff + 6) 2 = 0 → at_ (noff + 16) 8 % 64 = 0 → at_ (noff + 24) 8 = 0 →
        (at_ (noff + 8) 8 = 0x00FFFFFFFFFC0000 + poff ∧ poff + 4 * n ≤ 2 ^ 18 ∧ poff % 64 = 0) → x.active = false →
        let p := (List.range n).map fun k => if x.vb.toNat ≤ k ∧ k ≤ x.vb.toNat + 511 then 0 else at_ (poff + 4 * k) 4
        let t := sampleF p (randomWord x.rngkey i x.step 0x100)
        let stepped := fun (m : Memory) (po : List Nat) (js : Tab Job) =>
          phase ({ s with mem := m, poison := po, jobs := js }.updSlate i fun y => { y with step := y.step + 1 })
        (t = none → opens (latch (2 * 2 ^ 16)) (stepped s.mem s.poison s.jobs) (exec (.accept h f) s)) ∧
        (∀ k, t = some k → ∃ m po js, opens (latch 1) (stepped m po js) (exec (.accept h f) s) ∧
          ∀ a, m.read a = if here + ooff ≤ a ∧ a < here + ooff + 4 then (BitVec.ofNat 32 k).extractLsb' (8 * (a - (here + ooff))) 8 else s.mem.read a))) ∧
    (let l := (baseOf th f.c).v.toNat
     let d := (baseOf th f.f).v
     let g := x.kvgeo.toNat
     let slots := 2 ^ (g / 2 ^ 16 % 2 ^ 8)
     let row := g % 2 ^ 16
     let lo := x.kvpos.toNat - g / 2 ^ 24 % 2 ^ 16
     let answer := if x.kvgeo = 0 ∨ g / 2 ^ 40 % 2 ^ 8 ≤ l then 3 else if d ≠ 0 ∧ f.fl.getLsbD 0 = false then 2
       else if lo + slots ≤ (x.kvpos + d).toNat then 1 else 0
     ra.p = false → (baseOf th f.c).p = false → (baseOf th f.f).p = false →
     (answer ≠ 0 → ra.v.toNat % 64 = 0 → Opens s s next 0x73 h (latch (BitVec.ofNat 64 answer)) (exec (.kvput h f) s)) ∧
     (answer = 0 → ∀ to_, OwnAt th ra.v off 64 → off + row ≤ 2 ^ 18 → 0 < row →
       OwnAt th (x.kvbase + BitVec.ofNat 64 ((l * slots + (x.kvpos + d).toNat % slots) * row)) to_ 64 → to_ + row ≤ 2 ^ 18 →
       ∃ (m : Memory) (po : List Nat) (js : Tab Job) (ls : Tab Launch),
         Opens s { s with mem := m, poison := po, jobs := js, launches := ls } next 0x73 h (latch 0) (exec (.kvput h f) s) ∧
         ∀ a, m.read a = if here + to_ ≤ a ∧ a < here + to_ + row then s.mem.read (here + off + (a - (here + to_))) else s.mem.read a)) ∧
    (let v := (srcBE f th).v
     let answers := fun (w : Word) => if f.d.toNat ≤ 9 then [LatchWrite.x f.d.toNat { v := w, p := (srcBE f th).p }] else []
     let g := x.kvgeo.toNat
     let room := 2 ^ (g / 2 ^ 16 % 2 ^ 8) - (x.kvpos.toNat - (x.kvpos.toNat - g / 2 ^ 24 % 2 ^ 16))
     (x.kvgeo = 0 ∨ room < v.toNat → Opens s s next 0x73 h (answers (BitVec.allOnes 64)) (exec (.kvcommit h f) s)) ∧
     (x.kvgeo ≠ 0 → v.toNat ≤ room →
       Opens s (s.updSlate i fun y => { y with kvpos := y.kvpos + v }) next 0x73 h (answers (x.kvpos + v)) (exec (.kvcommit h f) s)))

/-! Content-addressed lines, snapshots -/

/-- SEAL, SFETCH, RETAIN, DROP, RETAIN.R, SWAPROOT and COPYOUT (R370, R371, R374 to R380), operands in the own scratchpad and root slots on a ROOT page,
no decrement in flight. SEAL of a line that its domain does not hold enters it with count 1 under the first salt whose seal no other line has, and of one that it holds
counts it once more; both store the seal when the window closes. RETAIN and DROP count up and down and answer the count; SFETCH stores the line
when its window closes; a seal without a line traps CA_NO_LINE. RETAIN.R answers and retains the slot's seal; SWAPROOT stores the new seal where the
slot holds the expected one, else the old one comes back. COPYOUT's kick enters its channel. That a request is answered in the step that makes it
(`prompt`) is the model's own (log entry 10), and that RETAIN.R counts at once and SWAPROOT is one step at the slot's engine is its choice (log entry 42). -/
def Obligations.ContentLines : Prop :=
  ∀ (s : State) (th : Thread) (h : Hdr) (f : EF) (offA offB : Nat), Runs s th h → s.curSlot.wins.length < 2 → Quiet s → s.prompt = true →
    s.poison = [] → s.net = [] → (baseOf th f.a).p = false → (th.xreg f.b.toNat).p = false →
    let ea := (baseOf th f.a).v
    let eb := (th.xreg f.b.toNat).v
    let next : Thread := { th with pc := th.pc + 12 }
    let here := spadHome s.here 0
    let at_ := fun (o n : Nat) => s.mem.readN (here + o) n
    let dom := (s.ctx th.ctx).desc.cadom
    let find := fun (sl : Nat) => if sl = 0 ∨ 8 < sl % 256 then none else s.ca.find? fun l => l.dom == dom && l.sl == sl && !l.removed
    let latch := fun (v : Nat) => if f.d.toNat ≤ 9 then [LatchWrite.x f.d.toNat { v := BitVec.ofNat 64 v, p := false }] else []
    let opens := fun (maj : Nat) (latch : List LatchWrite) (out : List Byte) (va : Word) (o : Out) (holds : State → Prop) =>
      ∃ t w, o = .next t ∧ t.thread = some next ∧ t.curSlot.wins = s.curSlot.wins.map (fun y => { y with left := y.left - 1 }) ++ [w] ∧
        w.major = maj ∧ w.left = h.la.toNat ∧ w.latch = latch ∧ w.late.flatMap (·.data) = out ∧
        (∀ x ∈ w.late.head?, x.va = va.toNat % 2 ^ 56) ∧ (t.core s.here).phasecnt = (s.core s.here).phasecnt + 1 ∧ holds t
    let kept := fun (t : State) => t.mem = s.mem ∧ t.net = s.net
    let counts := fun (t : State) (l : CaLine) (n : Nat → Nat) =>
      t.ca = s.ca.map fun x => if x.dom == l.dom && x.sl == l.sl && !x.removed then { x with count := n x.count } else x
    let misses := fun (o : Out) (a : Word) => o = .next (s.trapEnter s.cur 0x0E a)
    (OwnAt th ea offA 64 → offA + 512 ≤ 2 ^ 18 → OwnAt th eb offB 16 → f.fl = 0 →
      let data := at_ offA 512
      let digest := ofBytes (shake256 (toBytes 2 dom ++ toBytes 1 0 ++ data) 14)
      ∀ salt < 256, (∀ k < salt, ∃ l, find (digest * 2 ^ 16 + k * 2 ^ 8) = some l ∧ l.data ≠ data) →
      let sl := digest * 2 ^ 16 + salt * 2 ^ 8
      digest ≠ 0 →
      (find sl = none → (s.ca.filter fun l => l.sl / 2 ^ 16 % 8 == sl / 2 ^ 16 % 8).length < (s.die (sl / 2 ^ 16 % 8)).caPool →
        opens 0x74 (latch (salt * 256)) (toBytes 16 sl) eb (exec (.seal h f) s) fun t => kept t ∧
          t.ca = s.ca ++ [{ dom := dom, sl := sl, data := data, pois := false, count := 1, pinned := false, removed := false }]) ∧
      (∀ l, find sl = some l → l.data = data → l.pinned = false → l.count < 0xFFFFFFFF →
        opens 0x74 (latch (1 + salt * 256)) (toBytes 16 sl) eb (exec (.seal h f) s) fun t => kept t ∧ counts t l (· + 1))) ∧
    (OwnAt th eb offB 16 → OwnAt th ea offA 64 → offA + 512 ≤ 2 ^ 18 →
      (find (ofBytes (at_ offB 16)) = none → misses (exec (.sfetch h f) s) eb) ∧
      (∀ l, find (ofBytes (at_ offB 16)) = some l → l.data.length = 512 →
        opens 0x74 [] l.data ea (exec (.sfetch h f) s) fun t => kept t ∧ t.ca = s.ca)) ∧
    (OwnAt th ea offA 16 →
      let sl := ofBytes (at_ offA 16)
      (find sl = none → misses (exec (.retain h f) s) ea ∧ misses (exec (.dropI h f) s) ea) ∧
      (∀ l, find sl = some l → l.pinned = false → l.count < 0xFFFFFFFF →
        opens 0x74 (latch (l.count + 1)) [] 0 (exec (.retain h f) s) (fun t => kept t ∧ counts t l (· + 1)) ∧
        (1 < l.count → opens 0x74 (latch (l.count - 1)) [] 0 (exec (.dropI h f) s) (fun t => kept t ∧ counts t l (· - 1))) ∧
        (l.count ≤ 1 → l.sl % 256 = 0 → opens 0x74 (latch 0) [] 0 (exec (.dropI h f) s) (fun t => kept t ∧
          t.ca = s.ca.filter fun x => !(x.dom == dom && x.sl == sl && !x.removed))))) ∧
    (∀ p home, ea.toNat < 0x00FC000000000000 → cached th.ctx ea.toNat (s.core s.here).tlb = some p → p.cls = .root → p.tagEn = false → p.key = 0 →
      home = p.frame + (ea.toNat - p.va) → ea.toNat % 16 = 0 → home < 2 ^ 48 → home % 32 ≤ 16 →
      let held := s.mem.readN home 16
      (OwnAt th eb offB 16 →
        (find (ofBytes held) = none → opens 0x74 (latch 0) (toBytes 16 0) eb (exec (.retainR h f) s) fun t => kept t ∧ t.ca = s.ca) ∧
        (∀ l, find (ofBytes held) = some l → l.pinned = false → l.count < 0xFFFFFFFF →
          opens 0x74 (latch (l.count + 1)) (toBytes 16 l.sl) eb (exec (.retainR h f) s) fun t => kept t ∧ counts t l (· + 1))) ∧
      (OwnAt th eb offB 32 → p.write = true →
        (ofBytes held = ofBytes (at_ offB 16) →
          opens 0x75 (latch 1) [] 0 (exec (.swaproot h f) s) fun t =>
            (∀ a, t.mem.read a = if home ≤ a ∧ a < home + 16 then s.mem.read (here + offB + 16 + (a - home)) else s.mem.read a) ∧
            (if ofBytes held = 0 then t.net = [] else ∃ q, t.net = [q] ∧ q.kind = .caDec dom (ofBytes held))) ∧
        (ofBytes held ≠ ofBytes (at_ offB 16) → opens 0x75 (latch 0) held eb (exec (.swaproot h f) s) kept))) ∧
    (∀ q, f.a = 10 → q = s.here / 32 → (s.core s.here).board = [] → s.kicksPending s.here < 8 →
      s.aligned th.ctx (locAgent s.cur) (.lighter q) = true →
      let n := f.fl.toNat % 64
      let ch := (s.quay q).chan n
      let value := (srcBE f th).v
      let s1 : State := { s.updCore s.here fun c => { c with phasecnt := c.phasecnt + 1 } with serial := s.serial + 1 }
      let k : Kick := { value := value, core := s.here, rank := th.rank, ctx := th.ctx, gen := (s.ctx th.ctx).gen, task := th.task, copyout := true,
                        serial := s.serial }
      ch.owner = some th.ctx → ch.pending = [] → ch.copies.length ≤ 16 → (∀ c ∈ ch.copies, c.finished = false) →
      ∀ tp c s2, s1.kickTemplate q k = (some (.ok (tp, 0)), s1) → tp.form = 3 → tp.drank ≠ 0xFFFFFF → tp.legal 0 = true →
        s1.startTree q { kick := k, t := tp } = (some c, s2) → c.finished = false → c.kick = k →
        opens 0x75 [] [] 0 (exec (.copyout h f) s) fun t => t.mem = s2.mem ∧ t.ca = s2.ca ∧ ((t.quay q).chan n).copies = ch.copies ++ [c])

/-- SNAP, SNAPQ and ROLLBACK, and the events of jobs and snapshots (R386 to R401). The three instructions trap PRIVILEGE below level S; a context that is
in no job is answered 2^63 + 1; SNAP answers the number of the snapshot that it starts, or the refusal, SNAPQ counts, state and latest number, ROLLBACK
the refusal, and else the job's contexts run on from the snapshot. The host's requests answer in ERR with a message; CTXJOB moves a context
between jobs when neither records; a die starts, an agent records, a die sends clappers, a die hears one, and the snapshot completes or fails. What makes a
stored image fail its check (refusal 5) is the model's choice (log entry 34), that a rollback is one step is its choice (log entry 39), and that a handler's
completion goes to its quay core's rank is read by inference (log entry 27). -/
def Obligations.Snapshots : Prop :=
  ∀ (s : State) (th : Thread) (h : Hdr) (f : SF), Runs s th h → Flushed s →
    let c := s.ctx th.ctx
    let jb := s.job c.job
    let s0 := s.updCore s.here fun k => { k with phasecnt := k.phasecnt + 1 }
    let next : Thread := { th with pc := th.pc + 8 }
    let answers := fun (base : State) (v : Word) (p : Bool) (o : Out) => Goes base (next.writeX f.d { v := v, p := p }) o
    let refused := fun (r : Nat) => BitVec.ofNat 64 (2 ^ 63 + r)
    let m := if th.svc then c.rankAt s.here else th.rank
    let recording := jb.snaps.find? fun x => x.state == 1
    (th.priv < 2 → exec (.snap h f) s = .next (s.trapEnter s.cur 0x02 (evalWord (.snap h f))) ∧
      exec (.snapq h f) s = .next (s.trapEnter s.cur 0x02 (evalWord (.snapq h f))) ∧
      exec (.rollback h f) s = .next (s.trapEnter s.cur 0x02 (evalWord (.rollback h f)))) ∧
    (2 ≤ th.priv → c.member = false → answers s0 (refused 1) false (exec (.snap h f) s) ∧ answers s0 (refused 1) false (exec (.snapq h f) s) ∧
      answers s0 (refused 1) false (exec (.rollback h f) s)) ∧
    (2 ≤ th.priv → c.member = true →
      (recording.isSome = true → answers s0 (refused 2) false (exec (.snap h f) s) ∧ answers s0 (refused 2) false (exec (.rollback h f) s)) ∧
      (recording = none → jb.size = 0 → answers s0 (refused 3) false (exec (.snap h f) s)) ∧
      (recording = none → jb.size ≠ 0 → (jb.snaps.filter fun x => x.state == 2).length < 16 → s.poison = [] → s.latent = [] →
        ∃ t, exec (.snap h f) s = .next t ∧ t.thread = some (next.writeX f.d { v := BitVec.ofNat 64 (nextSnap jb.latest), p := false }) ∧ t.mem = s.mem ∧
          (t.job c.job).latest = nextSnap jb.latest ∧ ∃ x ∈ (t.job c.job).snaps, x.n = nextSnap jb.latest ∧ x.state = 1 ∧
            x.target = some (th.ctx, m, f.imm.toNat % 2048)) ∧
      (let v := (srcA f th).v.toNat
       let state := match jb.snaps.find? fun x => x.n == v with
         | some x => x.state
         | none => if jb.failed = some v then 3 else 0
       answers s0 (BitVec.ofNat 64 ((jb.snaps.countP fun x => x.state == 2) * 2 ^ 48 + (if v < 2 ^ 32 then state else 0) * 2 ^ 32 + jb.latest))
         (srcA f th).p (exec (.snapq h f) s)) ∧
      (recording = none → (∀ k ∈ s.ctxs, k.2.member = true → k.2.job = c.job → (s.ctx k.1).state = 1) →
        let n := (srcA f th).v.toNat % 2 ^ 32
        ((∀ x ∈ jb.snaps, ¬ (x.n = n ∧ x.state = 2)) → answers s0 (refused 4) false (exec (.rollback h f) s)) ∧
        (∀ x, jb.snaps.find? (fun x => x.n == n && x.state == 2) = some x →
          ((x.pages.all (s0.imageOk c.job) && s0.storeOk c.job x) = false → answers s0 (refused 5) false (exec (.rollback h f) s)) ∧
          ((x.pages.all (s0.imageOk c.job) && s0.storeOk c.job x) = true → exec (.rollback h f) s = .next (s0.rollback c.job x))))) ∧
    (∀ (j : Nat), let jb := s.job j
      let recording := jb.snaps.find? fun x => x.state == 1
      let ms := (s.ctxs.filter fun p => p.2.member && p.2.job == j).map Prod.fst
      (ms = [] → ∃ t u, exec (.jobSnapRequest j) s = .next t ∧ (t.job j).err = 1 ∧ exec (.jobRollbackRequest j) s = .next u ∧ (u.job j).err = 1) ∧
      (ms ≠ [] → recording = none → jb.size ≠ 0 → (jb.snaps.filter fun x => x.state == 2).length < 16 → s.poison = [] → s.latent = [] →
        ∃ t, exec (.jobSnapRequest j) s = .next t ∧ (t.job j).err = 0 ∧ (t.job j).num = nextSnap jb.latest ∧ (t.job j).latest = nextSnap jb.latest ∧ t.msix.length = s.msix.length + 1) ∧
      (ms ≠ [] → recording = none → (∀ m ∈ ms, (s.ctx m).state = 1) →
        ((∀ x ∈ jb.snaps, ¬ (x.n = jb.num ∧ x.state = 2)) → ∃ t, exec (.jobRollbackRequest j) s = .next t ∧ (t.job j).err = 4) ∧
        (∀ x, jb.snaps.find? (fun x => x.n == jb.num && x.state == 2) = some x → (x.pages.all (s.imageOk j) && s.storeOk j x) = true →
          ∃ t, exec (.jobRollbackRequest j) s = .next t ∧ (t.job j).err = 0 ∧ t.mem = (s.rollback j x).mem)) ∧
      (∀ k v, (s.job (s.ctx k).job).snaps.find? (fun x => x.state == 1) = none → (s.job (v.toNat % 256)).snaps.find? (fun x => x.state == 1) = none →
        exec (.ctxjobWrite k v) s = .next (s.updCtx k fun y => { y with member := v.getLsbD 8, job := v.toNat % 256 })) ∧
      (∀ r, recording = some r → jb.snaps = [r] →
        let with_ := fun (t : State) (p : Snapshot → Prop) => ∃ x, (t.job j).snaps = [x] ∧ p x
        let settled := s.latent = [] ∧ (∀ c, (s.core c).errinj = 0) ∧ ∀ d ∈ r.dies, d ∈ r.started
        (∀ d, r.dies.contains d = true → r.started.contains d = false → s.poison = [] → s.latent = [] → ∃ t, exec (.snapshotDieStart j d) s = .next t ∧
          with_ t (fun x => x.started = r.started ++ [d]) ∧ t.mem = s.mem) ∧
        (∀ a d, settled → (s.jobAgents j d).contains a = true → d ∈ r.dies → r.recorded.contains a = false →
          (match a with
            | .core p => d = p / 512
            | .lighter q => d = q / 16
            | .quayCore q => d = q / 16
            | .collective e => d = e
            | .sampler e => d = e
            | .frontEnd e => d = e) →
          (∀ p, a = .core p → ∃ x ∈ s.jobCores j, x.2.2 = p ∧ ((s.ctx x.1).rank x.2.1).state = 1) →
          ∃ t, exec (.snapshotRecord j a) s = .next t ∧ with_ t (fun x => a ∈ x.recorded)) ∧
        (∀ d, settled → s.dieRecorded j d r = true → (∀ p ∈ r.sent, p.1 ≠ d) → s.oldPackets j d r = 0 → ∃ t, exec (.clapper j d) s = .next t ∧
          with_ t (fun x => x.sent = r.sent ++ (d, d) :: (r.dies.filter fun e => e != d).map fun e => (d, e))) ∧
        (∀ d e, r.sent.contains (e, d) = true → e ≠ d → r.clappers.contains (e, d) = false → ∃ t, exec (.clapperArrival j d e) s = .next t ∧
          with_ t (fun x => x.clappers = r.clappers ++ [(e, d)]) ∧ t.mem = s.mem) ∧
        (s.snapReady j = true → ∃ t, exec (.snapshotComplete j) s = .next t ∧ ∀ x ∈ (t.job j).snaps, x.state ≠ 1)))

/-! Events -/

/-- The registers that host software and firmware write, and what the write of each does (R8, R258, R266, R304, R305, R312, R317, R336, R369, R409, R410,
R412, R421, R424 to R426, R429 to R432): every field takes the value that its rule gives it, and a register write changes nothing else; the firmware's requests act when
their checks pass and else leave ERR; a device reset gives every register its reset value, and what the flash holds comes into effect. What HBM, with its
content-addressed lines and retained snapshots, holds over it is the model's choice (log entry 66), so is what a register without a reset value takes (log
entry 2); unwritten memory reads 0 (log entry 1), a leaf is written as a whole (log entry 5), the record's layout (log entry 16) and the moment of a sample or
an adjustment (log entry 17) are the model's as well. -/
def Obligations.HostRegisters : Prop :=
  ∀ (s : State) (n : Nat) (v : Word),
    let w := v.toNat
    let part := fun (hi lo : Nat) => w / 2 ^ lo % 2 ^ (hi + 1 - lo)
    let does := fun (i : Instr) (t : State) => exec i s = .next t
    let fw := fun (f : Firmware) => ({ s with fw := f } : State)
    let slot := if 1 ≤ n ∧ n ≤ 127 then n else s.fw.keySlot
    does (.qctlWrite n v) (s.updQueue n fun x =>
      let y : WorkQueue := { x with ctx := if x.armed then x.ctx else part 47 36, priv := v.getLsbD 33, armed := v.getLsbD 32 }
      if v.getLsbD 32 = true ∧ x.armed = false then { y with head := 0, taken := 0, egen := 1, cqtail := 0, phase := true } else y) ∧
    does (.qcqWrite n v) (s.updQueue n fun x =>
      { x with cqbase := w - w % 4096, lgc := if part 11 8 = 0 ∨ (4 ≤ part 11 8 ∧ part 11 8 ≤ 12) then part 11 8 else x.lgc }) ∧
    does (.qintWrite n v) (s.updQueue n fun x =>
      { x with tmr := if part 41 32 = 0 then 8 else part 41 32, cnt := if part 31 24 = 0 then 1 else part 31 24, vec := part 10 0 }) ∧
    does (.qcqhWrite n v) (s.updQueue n fun x => { x with cqhead := part 31 0 }) ∧
    ((∀ p ∈ (s.ctx n).parked, p.n.isSome = true ∨ p.pri.isSome = true ∨ p.again = true) →
      does (.fqheadWrite n v) (s.updCtx n fun x => { x with fqhead := v })) ∧
    does (.errselWrite n v) (s.updDie n fun d =>
      { d with errsel := v &&& 0xFF0F, logs := if v.getLsbD 4 then Tab.set (part 15 8) {} d.logs else d.logs }) ∧
    does (.errinjWrite n v) (s.updCore n fun c => { c with errinj := if 9 < part 15 8 then v &&& 0xFF00 else v &&& 0xFF03 }) ∧
    does (.pwrctlWrite v) (fw { s.fw with cap := max 2400 (min 4400 (part 15 0)) }) ∧
    (∀ q cls, does (.registerWrite (.quantum q cls) v)
      (if 2048 ≤ w ∧ w ≤ 2 ^ 20 ∧ w % 2048 = 0 then s.updQuay q fun x => { x with quanta := setNth w cls x.quanta } else s)) ∧
    (∀ q k, does (.registerWrite (.channelOwner q k) v)
      (s.updQuay q fun x => x.updChan k fun y => { y with owner := if v.getLsbD 12 then some (w % 4096) else none })) ∧
    does (.registerWrite (.caPool n) v) (if 512 * w ≤ 96 * 2 ^ 30 then s.updDie n fun d => { d with caPool := w } else s) ∧
    does (.registerWrite (.bar 0x610000) v) (fw { s.fw with cap := max 2400 (min 4400 (part 15 0)) }) ∧
    does (.registerWrite (.bar 0x630000) v) (fw { s.fw with fwaddr := w - w % 64 }) ∧
    (∀ c k, does (.slateGrant n c) (s.updSlate n fun x => { alloc := true, ctx := c, draws := x.draws, nth := x.nth }) ∧
      (k.frame + 2 ^ k.lgs ≤ 8 * 96 * 2 ^ 30 → does (.hostMemoryWrite (.leaf c k)) (s.updCtx c fun x =>
        { x with ptes := k :: x.ptes.filter fun e => !(decide (e.va < k.va + 2 ^ k.lgs) && decide (k.va < e.va + 2 ^ e.lgs)) }))) ∧
    (s.mem.wf = true → (s.ctx 4096).member = false → ∀ off data, ∃ t, does (.hostMemoryWrite (.bytes off data)) t ∧ ∀ a, t.mem.read a =
      if off ≤ a ∧ a < off + data.length ∧ ¬ (0x05000000 ≤ a ∧ a < 0x10000000) ∧ a < 8 * 96 * 2 ^ 30 then data.getD (a - off) 0 else s.mem.read a) ∧
    does (.keyLoad n) (fw { s.fw with keySlot := slot, keys := Tab.set slot s.fw.keydata s.fw.keys, keydata := List.replicate 8 0 }) ∧
    does (.keyErase n) (fw { s.fw with keySlot := slot, keys := Tab.del slot s.fw.keys }) ∧
    (s.fw.fwaddr + 2 ^ 16 ≤ 8 * 96 * 2 ^ 30 → s.poison = [] → s.latent = [] →
     let a := s.fw.fwaddr
     let head := s.mem.readN a 64
     let count := if field head 5 1 = 0 then 256 else field head 5 1
     let image := s.mem.readN a (64 + 16 * count)
     let entry := fun k => (image.drop (64 + 16 * k)).take 16
     let busy := ∃ c ∈ s.ctxs, c.2.state ≠ 0
     let formed := field head 0 4 = 0x48544150 ∧ (∀ b ∈ head.drop 6, b = 0) ∧ ∀ k < count, field (entry k) 0 2 < 4096 ∧ field (entry k) 2 6 = 0
     let config := s.mem.readN a 1184
     (busy → does .patch (fw { s.fw with err := 1 })) ∧
     (¬ busy → ¬ formed → does .patch (fw { s.fw with err := 2 })) ∧
     (¬ busy → formed → field head 4 1 < max s.fw.active.minSvn s.fw.svn → does .patch (fw { s.fw with err := 3 })) ∧
     (¬ busy → formed → max s.fw.active.minSvn s.fw.svn ≤ field head 4 1 →
       Config.signatureOk (shake256 image 64) (s.mem.readN (a + 64 + 16 * count) 114) = true →
       does .patch (fw { s.fw with err := 0, svn := field head 4 1, patches := (List.range count).map fun k =>
         (field (entry k) 0 2, BitVec.ofNat 64 (field (entry k) 8 8)) })) ∧
     ((config.drop 8).take 64 ≠ Config.identityDigest → does .config (fw { s.fw with err := 5 })) ∧
     ((config.drop 8).take 64 = Config.identityDigest → s.fw.flash.seqno < field config 0 8 →
       Config.signatureOk (shake256 config 64) (s.mem.readN (a + 1184) 114) = true →
       ∃ r : ConfigRec, does .config (fw { s.fw with err := 0, flash := r }) ∧ r.seqno = field config 0 8 ∧ r.minSvn = field config 72 8) ∧
     (s.mem.wf = true → (s.ctx 4096).member = false → ∃ t, does .quote t ∧ t.fw = { s.fw with err := 0 } ∧ t.mem.readN (a + 64) 64 = head ∧
       t.mem.readN (a + 192) 64 = shake256 s.fw.active.bytes 64 ∧ field (t.mem.readN (a + 256) 1) 0 1 = s.fw.quotes.length % 256 ∧
       ∀ b < a + 64, t.mem.read b = s.mem.read b)) ∧
    (∃ t, does .deviceReset t ∧ t.fw.active = s.fw.flash ∧
      (∀ a, t.mem.read a = if homeKind a = Home.hbm ∨ homeKind a = Home.host then s.mem.read a else 0) ∧
      (∀ u, u ∈ t.poison ↔ u ∈ s.poison ∧ (homeKind u = Home.hbm ∨ homeKind u = Home.host)) ∧
      ((s.jobs.map Prod.fst).Nodup → ∀ j, t.job j =
        { latest := (s.job j).latest, snaps := (s.job j).snaps.filter fun x => x.state == 2, written := (s.job j).written }) ∧
      t = { State.resetWith s.fw.flash with
        mem := t.mem, poison := t.poison, tags := t.tags, latent := t.latent, ca := s.ca, jobs := t.jobs, nextLaunch := s.nextLaunch
        schedule := s.schedule, prompt := s.prompt, frees := s.frees, serial := s.serial }) ∧
    (∀ slacks : List Nat, let x := s.quay n
      let p := (s.fw.active.plan[n]?).getD {}
      let k := slacks.foldl min 254
      let s1 := (s.updDie (n / 16) fun d => { d with feAt := some s.cycle }).updDie (n / 16) fun d => { d with marginNext := (n % 16 + 1) % 16 }
      let becomes := fun (y : Quay) => does (.marginSample n slacks) (s1.updQuay n fun _ => y)
      (((s.die (n / 16)).marginNext ≠ n % 16 ∨ s.feIdle (n / 16) = false) → does (.marginSample n slacks) s) ∧
      ((s.die (n / 16)).marginNext = n % 16 → s.feIdle (n / 16) = true →
      (k < p.low → x.offset < p.vmax → becomes { x with slack := k, highrun := 0, offset := x.offset + 1 }) ∧
      (k < p.low → p.vmax ≤ x.offset → x.degraded = true → becomes { x with slack := k, highrun := 0 }) ∧
      (k < p.low → p.vmax ≤ x.offset → x.degraded = false → (∀ c ∈ s.ctxs, c.2.state ≠ 1) → ∃ t, does (.marginSample n slacks) t ∧
        (t.quay n).degraded = true ∧ n ∈ t.fw.flash.degraded ∧ ∀ c, c / 32 = n → (t.core c).degraded = true) ∧
      (p.low ≤ k → p.high < k → x.highrun ≠ 5 → becomes { x with slack := k, highrun := x.highrun + 1 }) ∧
      (p.low ≤ k → p.high < k → x.highrun = 5 →
        becomes { x with slack := k, highrun := 0, offset := if p.vmin < x.offset then x.offset - 1 else x.offset }) ∧
      (p.low ≤ k → k ≤ p.high → becomes { x with slack := k, highrun := 0 }))) ∧
    (∀ watts, watts < 2 ^ 16 → ∃ t, does (.clockAdjust watts) t ∧ t.fw.pwrnow = watts ∧ t.fw.cap = s.fw.cap ∧ t.cores = s.cores ∧ t.mem = s.mem ∧
      t.fw.clk = if s.fw.cap < watts ∧ 12 < s.fw.clk then s.fw.clk - 1 else if watts + 100 < s.fw.cap ∧ s.fw.clk < 20 then s.fw.clk + 1 else s.fw.clk) ∧
    ((s.core n).gated = false → s.idleAt n = true → (s.core n).idleFrom + 100 * microUnits ≤ s.time →
      does (.corePowerGate n) (s.updCore n fun c => { c with gated := true, gateFrom := s.cycle, wake := none })) ∧
    ((s.core n).gated = true → (s.core n).wake.isSome = true → (∀ p ∈ (s.quay (n / 32)).shadow, p.1 ≠ n) → ∃ t, does (.coreWake n) t ∧
      t.core n = { s.core n with gated := false, wake := none, idleFrom := s.time,
                                 gatedCycles := (s.core n).gatedCycles + (s.cycle - (s.core n).gateFrom) } ∧
      t.mem = s.mem ∧ t.net = s.net)

/-- Packets at their turn (R103, R195, R197, R212, R215 to R220, R225, R226, R244, R271, R291, R370). An increment counts, or leaves OVF at the top, and
wakes the waiter that it satisfies, which takes the lowest free slot in the next cycle; a context joins its core with a refresh, and its slot in the next
cycle; a trapped context takes a service slot, or waits its turn for one, with a refresh of the quay core; a message is placed and then counted; a channel message lands in the next slot behind its header and is counted; an arrival counts, and the last one of a barrier that is
not ROOT sends the outward arrival; a release ends the generation and goes on to the origins; an abort ends a copy; a decrement lowers a line's
count or reclaims it; a sender's marker is received. Which service slot an arrival takes (log entry 55), that PAIRST is written at an arrival (log entry
51) and by which paths markers come (log entry 35) are the model's choice. -/
def Obligations.Arrivals : Prop :=
  ∀ (s : State) (n : Nat) (p : Packet),
    let gone : State := { s with net := dropNth n s.net }
    (∀ core, Turn s n p core →
      let c := s.core core
      let q := core / 32
      let rank := (s.ctx p.ctx).rankAt core
      let packet := fun (r : Nat) (k : PKind) =>
        ({ src := core, origin := rank, ctx := p.ctx, gen := (s.ctx p.ctx).gen, colour := false, rank := r, marker := none, kind := k, cycle := s.cycle } : Packet)
      let unmarked := ∀ e ∈ c.berths, ∀ x ∈ e.2.waiters, x.woken = none
      let room := (c.woke.countP fun t => !t.2.svc) + c.rel.length + c.ni.length < c.slots.countP (fun x => x.th.isNone) + 48 - c.queue.length
      let lowest := fun (i : Nat) => i < c.slots.length ∧ (slotAt c.slots i).th = none ∧ ∀ j < i, (slotAt c.slots j).th ≠ none
      let alone := c.queue = [] ∧ c.woke = [] ∧ c.rel = [] ∧ c.ni = []
      let counted := fun (b : Nat) (t : State) => (t.core core).berth b = { c.berth b with count := (c.berth b).count + 1 }
      (∀ b o, p.kind = .inc b o → (c.berth b).kind ≠ 3 → (c.berth b).waiters = [] →
        exec (.berthIncrementArrival n) s = .next (gone.updCore core fun k => k.updBerth b fun y =>
          if 0xFFFFFFFF ≤ y.count then { y with ovf := true } else { y with count := y.count + 1 })) ∧
      (∀ b o w k nr, p.kind = .inc b o → (c.berth b).kind ≠ 3 → (c.berth b).waiters = [w] → w.kind = .wait k nr →
        k ≤ (c.berth b).count + 1 → (c.berth b).count < 0xFFFFFFFF → unmarked → room → ∃ t, exec (.berthIncrementArrival n) s = .next t ∧
          (t.core core).woke = c.woke ++ [(c.wakeNo, w.th)] ∧ (t.core core).slots = c.slots ∧ (t.core core).berth b =
            { c.berth b with count := (c.berth b).count + 1 - (if (c.berth b).kind = 0 then k else 0), waiters := [] } ∧
          (nr = false → (t.core core).pins = [] ∧ (t.core core).phasecnt = c.phasecnt + 1) ∧
          (∀ i, alone → lowest i → w.th.svc = false → slotAt (t.core core).betweenCycles.slots i = { th := some w.th })) ∧
      (∀ b o, p.kind = .inc b o → (c.berth b).kind = 3 → (c.berth b).pending = false → (c.berth b).origins.length < 32 →
        let x := c.berth b
        let expected := x.cfg.toNat / 2 ^ 44 % 64 + x.cfg.toNat / 2 ^ 38 % 64
        (x.count + 1 < expected → exec (.barrierArrival n) s = .next (gone.updCore core fun k => k.updBerth b fun y =>
          { y with count := y.count + 1, origins := y.origins ++ o.toList })) ∧
        (expected ≤ x.count + 1 → x.cfg.getLsbD 35 = false → ∃ t, exec (.barrierArrival n) s = .next t ∧
          (t.core core).berth b = { x with count := 0, pending := true, origins := x.origins ++ o.toList } ∧
          t.net = gone.net ++ [packet (x.cfg.toNat % 2 ^ 24) (.inc (x.cfg.toNat / 2 ^ 24 % 2 ^ 11) (some { rank := rank, berth := b }))])) ∧
      (∀ b, p.kind = .release b → (c.berth b).kind = 3 → (c.berth b).cfg.getLsbD 35 = false → (c.berth b).aside = [] →
        (c.berth b).waiters = [] → ∃ t, exec (.barrierRelease n) s = .next t ∧
          (t.core core).berth b = { c.berth b with gen := ((c.berth b).gen + 1) % 256, pending := false, origins := [] } ∧
          t.net = gone.net ++ (c.berth b).origins.map fun o => packet o.rank (.release o.berth)) ∧
      (∀ th, p.kind = .context 2 th → (s.core (quayCore q)).gated = false →
        let x := s.quay q
        let refreshed := fun (t : State) => (t.core (quayCore q)).pins = [] ∧ (t.core (quayCore q)).phasecnt = (s.core (quayCore q)).phasecnt + 1
        let kept := fun (t : State) => t.mem = s.mem ∧ t.net = gone.net
        (x.svcWait = [] → x.svcQueue = [] → x.svcBack = [] →
          (∀ i < x.svc.length, (x.svcAt i).slot.th = none → (∀ j < i, (x.svcAt j).slot.th ≠ none) → ∃ t, exec (.serviceArrival n) s = .next t ∧
            (t.quay q).svcAt i = { slot := { th := some th }, stub := [], seed := s.frees } ∧ refreshed t ∧ kept t) ∧
          ((∀ i < x.svc.length, (x.svcAt i).slot.th ≠ none) → ∃ t, exec (.serviceArrival n) s = .next t ∧ (t.quay q).svcQueue = [th] ∧
            refreshed t ∧ kept t)) ∧
        ((x.svcWait ≠ [] ∨ 48 ≤ x.svcQueue.length) → exec (.serviceArrival n) s = .next (gone.updQuay q fun y =>
          { y with svcWait := y.svcWait ++ [(core % 32, th)] }))) ∧
      (∀ k th, p.kind = .context k th → k ≠ 2 → unmarked → room → ∃ t x, exec (.contextArrival n) s = .next t ∧
        (t.core core).ni = c.ni ++ [{ p with kind := .context k x }] ∧ (∃ st, x = { th with status := st }) ∧
        (x.status &&& ~~~0x300#64) = (th.status &&& ~~~0x300#64) ∧ t.mem = s.mem ∧ t.net = gone.net ∧
        (k = 0 → (∀ r, th.vbase ≤ r → r < th.vbase + th.vq → (t.core core).v r = 0) ∧ (th.array = true → (t.core core).arr = {})) ∧
        (∀ i, alone → lowest i → let d := (t.core core).betweenCycles
          slotAt d.slots i = { th := some x } ∧ d.ni = [] ∧ d.pins = [] ∧ d.phasecnt = c.phasecnt + 1)) ∧
      (s.mem.wf = true → core < 4096 → c.errinj = 0 → (s.quay q).merge = [] →
        (∀ b dest data scope l off, p.kind = .place b dest data [] scope l none → (c.berth b).kind ≠ 3 → (c.berth b).waiters = [] →
          (c.berth b).count < 0xFFFFFFFF → dest < 2 ^ 60 → dest % 2 ^ 56 = 0x00FFFFFFFFFC0000 + off → off + data.length ≤ 2 ^ 18 → ∃ t,
            exec (.messagePlacement n) s = .next t ∧ counted b t ∧ ∀ a, t.mem.read a =
              if spadHome core off ≤ a ∧ a < spadHome core off + data.length then data.getD (a - spadHome core off) 0 else s.mem.read a) ∧
        (∀ b len data po scope l, p.kind = .chan b len data po scope l → (c.berth b).kind = 1 → (c.berth b).waiters = [] →
          (c.berth b).count < 0xFFFFFFFF → data.length = len → len < 2 ^ 32 → (c.berth b).widx < 2 ^ 32 →
          let cfg := (c.berth b).cfg.toNat
          let slots := 2 ^ (cfg / 2 ^ 37 % 16)
          let size := 16 * (cfg / 2 ^ 41 % 128 + 1)
          let off := cfg / 2 ^ 48 % 2 ^ 14 * 16 + (c.berth b).widx % slots * (16 + size)
          ((c.berth b).widx + 2 ^ 32 - (c.berth b).ridx) % 2 ^ 32 < slots → off + 16 + size ≤ 2 ^ 18 → ∃ t, exec (.channelLanding n) s = .next t ∧
            (t.core core).berth b = { c.berth b with count := (c.berth b).count + 1, widx := ((c.berth b).widx + 1) % 2 ^ 32 } ∧
            t.mem.readN (spadHome core off) 16 = toBytes 4 len ++ [if size < len then 1 else 0, 0, 0, 0] ++ toBytes 4 (p.origin % 2 ^ 24)
              ++ toBytes 4 (c.berth b).widx ∧
            ∀ a, ¬ (spadHome core off ≤ a ∧ a < spadHome core off + 16) → t.mem.read a =
              if spadHome core off + 16 ≤ a ∧ a < spadHome core off + 16 + min len size then data.getD (a - (spadHome core off + 16)) 0
              else s.mem.read a))) ∧
    (EngineTurn s n p →
      (∀ q k x, p.kind = .abort q k → 2 ^ 25 ≤ p.rank → p.ctx < 4096 → ((s.quay q).chan k).owner = some p.ctx → ((s.quay q).chan k).pending = [] →
        ((s.quay q).chan k).copies = [x] → x.kick.ctx = p.ctx → x.root = none → x.fail = none → x.flight = [] → x.bare = false →
        ((s.quay q).chan k).lgr = 0 → (s.quay q).merge = [] → (s.die (q / 16)).merge = [] → ∃ t, exec (.lighterAbort n) s = .next t ∧ ((t.quay q).chan k).copies = [] ∧ t.mem = s.mem ∧
          (∀ r ∈ (t.core x.kick.core).board, ¬ (r.quay = q ∧ r.serial = x.kick.serial)) ∧
          t.net = gone.net ++ if x.t.ctag / 2 ^ 11 % 2 = 1 then [] else
            [{ src := 4096 + q, origin := x.kick.rank, ctx := p.ctx, gen := (s.ctx p.ctx).gen, colour := false, rank := x.t.drank, marker := none,
               kind := .inc (x.t.ctag % 2 ^ 11) none, cycle := s.cycle }]) ∧
      (∀ dom sl x, p.kind = .caDec dom sl → 2 ^ 24 ≤ p.rank → p.rank < 2 ^ 25 → sl ≠ 0 → sl % 256 ≤ 8 →
        s.ca.find? (fun l => l.dom == dom && l.sl == sl && !l.removed) = some x → x.pinned = false →
        (1 < x.count → exec (.caDecrementArrival n) s = .next { gone with
          ca := s.ca.map fun l => if l.dom == dom && l.sl == sl && !l.removed then { l with count := l.count - 1 } else l }) ∧
        (x.count ≤ 1 → sl % 256 = 0 → exec (.caDecrementArrival n) s = .next { gone with
          ca := s.ca.filter fun l => !(l.dom == dom && l.sl == sl && !l.removed) }))) ∧
    (∀ (m : MarkerPath) (k : Nat), (m.core, m.path, k) ∉ s.markers →
      exec (.flushMarkerArrival m k) s = .next { s with markers := s.markers ++ [(m.core, m.path, k)] })

/-- What cores and engines do between instructions (R17, R149, R172, R183, R198, R231 to R234, R263, R266, R275, R280, R313, R340, R345 to R347, R369, R403, R407, R408,
R412, R415 to R417): an operation completes, a thread rotates, a publish and a drain carry lines on, a chunk is sent and lands, a partial result is
combined, a sequence executes an instruction, a DRAW locks its slate, a walk lets its threads go, a request takes effect where it is served (log entry
10), an error is contained and logged, a scrub reads a sector, a pair's interval ends in agreement or starts over. What the model chooses here: the
numbers of an array's units and the address that ERRADDR shows (log entry 15), which die homes an HBM address (log entry 12), what tells a pair's cores
apart (log entry 33), and that the latch holds a long operation's result from its issue on (log entry 4). -/
def Obligations.CoreAndEngineEvents : Prop :=
  ∀ (s : State),
    let does := fun (i : Instr) (p : State → Prop) => ∃ t, exec i s = .next t ∧ p t
    let empty := (∀ q, (s.quay q).merge = []) ∧ (∀ d, (s.die d).merge = []) ∧ s.pkgMerge = []
    let inc := fun (src : Nat) (k : Kick) (rank tag : Nat) => if tag / 2 ^ 11 % 2 = 1 then ([] : List Packet) else
      [{ src := src, origin := k.rank, ctx := k.ctx, gen := (s.ctx k.ctx).gen, colour := false, rank := rank, marker := none,
         kind := .inc (tag % 2 ^ 11) none, cycle := s.cycle }]
    (∀ l pre w post, (s.slot l).wins = pre ++ w :: post → (∀ x ∈ pre, x.done = true) → w.done = false →
      exec (.longOperationComplete l) s = .next (s.setSlot l { s.slot l with wins := pre ++ { w with done := true } :: post })) ∧
    (∀ core i hd tl th, let c := s.core core
      c.issuedAt = some s.cycle → (∀ j < i, c.rotationDue j = false) → i < 16 → i < c.slots.length → (slotAt c.slots i).th = some th → (4096 ≤ (slotAt c.slots i).count ∨ (slotAt c.slots i).yielded = true) →
      (slotAt c.slots i).wins = [] → c.queue = hd :: tl →
      does (.threadRotation core i) fun t => slotAt (t.core core).slots i = { th := some hd } ∧ (t.core core).queue = tl ++ [th] ∧ t.mem = s.mem) ∧
    (∀ core e pq ps, let c := s.core core
      s.isPaired core = false → c.pubs = { scope := 0, n := 1 } :: ps → c.pq = e :: pq → e.piece < 2 ^ 48 → (s.ctx e.ctx).member = false →
      (s.quay (core / 32)).merge = [] →
      does (.publishComplete core) fun t => (t.core core).pq = pq ∧ (t.core core).pubs = ps ∧
        (t.quay (core / 32)).merge = [{ line := e.piece, ops := [{ e with colour := false }] }] ∧ t.mem = s.mem) ∧
    (∀ u e, let m : MergeLine := { line := e.piece, ops := [e] }
      let stored := fun (t : State) => ∀ k d po, e.op = .store k d po → ∀ a, t.mem.read a =
        if e.piece ≤ a ∧ a < e.piece + 64 ∧ k.getLsbD (a - e.piece) then d.extractLsb' (8 * (a - e.piece)) 8 else s.mem.read a
      (s.mem.wf = true → 4096 ≤ e.core → e.piece < 2 ^ 65 → (s.ctx e.ctx).member = false →
        (homeKind e.piece = .spad → ∀ r, (s.ctx e.ctx).rankOn (spadCore e.piece) = some r → s.spadWaits e.ctx r = false) →
        ((s.quay u).merge = [m] → homeDie e.piece = u / 16 → does (.mergeBufferDrain 0 u e.piece) fun t => (t.quay u).merge = [] ∧ stored t) ∧
        (s.pkgMerge = [m] → does (.mergeBufferDrain 2 0 e.piece) fun t => t.pkgMerge = [] ∧ stored t)) ∧
      ((s.quay u).merge = [m] → homeDie e.piece ≠ u / 16 → (s.die (u / 16)).merge = [] →
        does (.mergeBufferDrain 0 u e.piece) fun t => (t.quay u).merge = [] ∧ (t.die (u / 16)).merge = [m] ∧ t.mem = s.mem) ∧
      ((s.die u).merge = [m] → 2 ^ 64 ≤ e.piece → e.piece < 2 ^ 65 → s.pkgMerge = [] →
        does (.mergeBufferDrain 1 u e.piece) fun t => (t.die u).merge = [] ∧ t.pkgMerge = [m] ∧ t.mem = s.mem)) ∧
    (∀ q n ch k o, let x := s.quay q
      let size := min 2048 (k.t.n - 2048 * k.next)
      let cls := k.t.mode / 4 % 4
      n < 64 → x.chans = [(n, ch)] → ch.owner = some o → (s.ctx o).state = 1 → ch.copies = [k] → k.fail = none → k.next < k.t.chunks →
      (∀ f ∈ k.flight, f.parked = false) → k.flight.length < 64 → x.drrClass = cls → x.drrIn = false → x.deficit.length = 4 →
      size ≤ x.deficit.getD cls 0 + x.quanta.getD cls 0 →
      does (.chunkSend q) fun t => ((t.quay q).chan n).copies = [{ k with next := k.next + 1, flight := k.flight ++ [{ j := k.next }] }] ∧
        t.mem = s.mem ∧ t.net = s.net) ∧
    (∀ q n c qs so off, let ch := (s.quay q).chan n
      let len := c.t.rowbytes
      q < 128 → n < 64 → s.mem.wf = true → empty → s.poison = [] → s.latent = [] → (∀ q, (s.quay q).monitors = []) → ch.copies = [c] → ch.pending = [] →
      ch.lgr = 0 → c.t.mode % 4 = 0 → c.t.rows = 1 → 0 < len → len ≤ 2048 → c.next = 1 → c.flight = [{ j := 0 }] → c.fail = none → c.root = none →
      c.bare = false → (s.ctx c.kick.ctx).member = false → QuayAt c.t.src qs so 1 → QuayAt c.t.dst q off 1 → so + len ≤ 2 ^ 23 → off + len ≤ 2 ^ 23 →
      (qs = q → so + len ≤ off ∨ off + len ≤ so) →
      does (.chunkLanded q n 0) fun t => ((t.quay q).chan n).copies = [] ∧
        t.net = s.net ++ inc (4096 + q) c.kick c.t.drank c.t.ptag ++ inc (4096 + q) c.kick c.t.drank c.t.ctag ∧ ∀ a, t.mem.read a =
          if quayHome q off ≤ a ∧ a < quayHome q off + len then s.mem.read (quayHome qs so + (a - quayHome q off)) else s.mem.read a) ∧
    (∀ d x o a b xs ys, s.dies = [(d, x)] → x.colls = [o] → o.parents = [0xFFFF, 0, 0] → o.nodes = [a, b] → a.node = 0 → b.node = 1 →
      a.op = 0 → b.op = 0 → a.red = 0 → a.ty = 2 → a.loaded = true → b.loaded = true → a.heard = [] → a.parts = [(0, xs)] → b.parts = [(1, ys)] →
      does (.collectivePartialArrival o.opid 0 1) fun t => (t.die d).colls =
        [{ o with nodes := [{ a with heard := [1], parts := [(0, (xs.zip ys).map fun p => ((p.1.1 + p.2.1) % 2 ^ 32, p.1.2 || p.2.2))] }, b] }]) ∧
    (∀ core th c h f, let k := s.core core
      let r := k.rpt
      r.running = true → r.owner = some th.task → r.svc = false → th.svc = false → (slotAt k.slots 0).th = some th → k.slots.length = 16 →
      r.body[r.pos]? = some c → (r.instr c r.iter).vnums = [] → decodeBits (r.instr c r.iter).word = .ok (.aswap h f) → h.gp = 0 → h.gn = 0 →
      th.array = true → (s.ctx th.ctx).frozen = false → (s.rowprog core).getLsbD 10 = false → s.isJoined core = false → s.isPaired core = false → (∀ q ∈ s.quays, ∀ n ∈ q.2.chans, n.2.pending = []) →
      does (.sequenceInstruction core) fun t => (t.core core).arr.role = 1 - k.arr.role ∧ (t.core core).rpt =
        if r.pos + 1 < r.body.length then { r with pos := r.pos + 1 } else if r.iter + 1 < r.n then { r with pos := 0, iter := r.iter + 1 } else {}) ∧
    (∀ i r rest tok o w, let x := s.slate i
      x.draws = [r] → r.node = 0 → r.parents = [0xFFFF] → r.ranks.length = 1 → x.alloc = true → x.ctx = r.ctx → x.vb.toNat + 512 ≤ x.vocab.toNat →
      r.first + r.count ≤ x.vocab.toNat → x.stat = 0 → x.fq = (tok, o) :: rest → (s.slot r.loc).wins = [w] → w.major = 0x70 → w.tag = r.serial →
      r.loc.slot < (if r.loc.svc then (s.quay r.loc.unit).svc.length else (s.core r.loc.unit).slots.length) → r.xd ≤ 9 → r.xs ≤ 9 →
      s.aligned r.ctx (.sampler (i / 4096)) (locAgent r.loc) = true → s.intervalOpen (locCore r.loc) = false →
      let told := [LatchWrite.x r.xd { v := tok.setWidth 64, p := false },
        .x r.xs { v := BitVec.ofNat 64 (rest.length * 2 ^ 10 + o * 2 ^ 8 + 1), p := false }]
      does (.drawLock i) fun t => t.slate i = { x with fq := rest, step := x.step + 1, draws := [] } ∧
        (t.slot r.loc).wins = [{ w with decided := true, done := true, latch := told }]) ∧
    (Still s → ∀ d ctx va, does (.pageWalkComplete d ctx va) fun t =>
      (∀ l, l.svc = false → l.unit / 512 = d → (s.slot l).th.any (·.ctx == ctx) = true → (∃ w, (s.slot l).stall = some (.walk w) ∧ (s.ctx ctx).sameGranule va w = true) →
        t.slot l = { s.slot l with stall := none, granted := true }) ∧
      (∀ p, (s.ctx ctx).leaf va = some p → p.present = true → (t.ctx ctx).leaf va = some { p with accessed := true })) ∧
    (∀ l t th h, let u := s.setSlot l { s.slot l with stall := none, granted := true }
      let serves := fun (i : Instr) => (s.slot l).stall = some .request ∧ u.picked l = true ∧ u.present l = .ok (i, t)
      Runs t th h → t.curSlot.granted = true → t.curSlot.wins.length < 2 → Quiet t → t.poison = [] →
      let opens := fun (len : Nat) (latch : List LatchWrite) (o : Out) (holds : State → Prop) => ∃ u w, o = .next u ∧ holds u ∧
        u.thread = some { th with pc := th.pc + BitVec.ofNat 64 len } ∧ w.latch = latch ∧ w.left = h.la.toNat ∧
        u.curSlot.wins = t.curSlot.wins.map (fun x => { x with left := x.left - 1 }) ++ [w]
      (∀ f r off, serves (.ld h f) → th.anchored = true → let e := effective th f.a f.b f.fl f.imm
        let n := widthOf f.sz / 8
        let x := (t.ctx th.ctx).rank r
        e.p = false → e.v.toNat < 2 ^ 60 → e.v.toNat % 2 ^ 56 = 0x00FE000000000000 + r * 2 ^ 18 + off → r < 2 ^ 24 → off + n ≤ 2 ^ 18 → off % n = 0 →
        x.state = 1 → x.phys < 4096 → x.phys ≠ t.here → t.forwarding th.ctx r = false → t.aligned th.ctx (locAgent t.cur) (.core x.phys) = true →
        f.d.toNat ≤ 9 → opens 8
          [.x f.d.toNat { v := (BitVec.ofNat (widthOf f.sz) (ofBytes (t.mem.readN (spadHome x.phys off) n))).setWidth 64, p := false }]
          (exec (.remoteScratchpadAccess l) s) fun u => u.mem = t.mem ∧ u.net = t.net) ∧
      (∀ f q off, serves (.aadd h f) → let n := widthOf f.sz / 8
        let w := widthOf f.sz
        let old : BitVec w := BitVec.ofNat w (ofBytes (t.mem.readN (quayHome q off) n))
        (baseOf th f.a).p = false → QuayAt (baseOf th f.a).v q off n → t.mem.wf = true → f.fl.toNat % 4 = 0 → f.d.toNat ≤ 9 →
        opens 8 [.x f.d.toNat { v := old.setWidth 64, p := false }] (exec (.atomicPerformed l) s) fun u => ∀ a, u.mem.read a =
          if quayHome q off ≤ a ∧ a < quayHome q off + n then (old + (srcB f th).v.setWidth w).extractLsb' (8 * (a - quayHome q off)) 8
          else t.mem.read a) ∧
      (∀ f, serves (.slr h f) → (baseOf th f.a).p = false → (baseOf th f.a).v.toNat < 2 ^ 15 → f.imm.toNat < 8 → f.d.toNat ≤ 9 →
        let x := t.slate (baseOf th f.a).v.toNat
        x.alloc = true → x.ctx = th.ctx → t.aligned th.ctx (locAgent t.cur) (.sampler ((baseOf th f.a).v.toNat / 4096)) = true → opens 12 [.x f.d.toNat { v := x.s.toList.getD f.imm.toNat 0, p := x.sp.getLsbD f.imm.toNat }]
          (exec (.slateRequestAtSlate l) s) fun u => u.mem = t.mem ∧ u.slates = t.slates) ∧
      (∀ f off x, serves (.retain h f) → (baseOf th f.a).p = false → OwnAt th (baseOf th f.a).v off 16 → f.d.toNat ≤ 9 →
        let sl := ofBytes (t.mem.readN (spadHome t.here off) 16)
        let mine := fun (y : CaLine) => y.dom == (t.ctx th.ctx).desc.cadom && y.sl == sl && !y.removed
        sl ≠ 0 → sl % 256 ≤ 8 → t.decsAhead (sealHome sl) [sl] = false → t.ca.find? mine = some x → x.pinned = false → x.count < 0xFFFFFFFF →
        opens 12 [.x f.d.toNat { v := BitVec.ofNat 64 (x.count + 1), p := false }] (exec (.caRequestAtHome l) s) fun u => u.mem = t.mem ∧
          u.ca = t.ca.map fun y => if mine y then { y with count := y.count + 1 } else y)) ∧
    (∀ core unit, core < 4096 → s.isPaired (core / 2 * 2) = false → does (.uncorrectableError 1 core unit) fun t =>
      (spadHome core (unit % 2 ^ 18 / 8 * 8)) ∈ t.poison ∧ ∃ e, (Tab.get {} 1 (t.die (core / 512)).logs).entries.head? = some e ∧
        e.cls = 2 ∧ e.place = core ∧ e.ctx = (s.core core).owner.getD 0 ∧ e.addr = BitVec.ofNat 64 (0x00FFFFFFFFFC0000 + unit % 2 ^ 18) ∧ t.aer = 2 :: s.aer) ∧
    (∀ core unit, core < 4096 → core % 2 = 1 → s.isPaired (core - 1) = true → s.intervalDue (core - 1) = false →
      does (.uncorrectableError 1 core unit) fun t => (t.core (core - 1)).pair.upset = true ∧ t.mem = s.mem ∧
        ∃ e, (Tab.get {} 1 (t.die (core / 512)).logs).entries.head? = some e ∧ e.cls = 2 ∧ e.place = core) ∧
    (∀ d unit, d < 8 → (does (.uncorrectableError 11 d unit) fun t => t.fatal = true ∧ t.aer = 3 :: s.aer) ∧
      (does (.uncorrectableError 12 d unit) fun t => t.fatal = true ∧ t.aer = 3 :: s.aer)) ∧
    (∀ a, a < 8 * 96 * 2 ^ 30 → let u := a / 32 * 32
      (does (.patrolScrub a true) fun t => u ∈ t.poison ∧ ∃ e, (Tab.get {} 0 (t.die (homeDie u)).logs).entries.head? = some e ∧ e.cls = 2 ∧
        e.addr = BitVec.ofNat 64 u) ∧
      (u ∉ s.poison → s.latent = [] → exec (.patrolScrub a false) s = .next s)) ∧
    (∀ core, s.isPaired core = true → core % 2 = 0 → (∀ k ∈ s.ctxs, k.2.dueSave = none) → let c := s.core core
      (c.pair.upset = false → (∀ p ∈ c.pair.prints, p.even = p.odd) → c.pubs = [] → does (.pairIntervalEnd core) fun t => t.net = s.net ++ c.pair.gate ∧ t.mem = s.mem ∧
        (t.core core).pair.gate = [] ∧ (t.core core).pair.retired = 0 ∧ (t.core core).pair.agreed = (c.pair.agreed + 1) % 2 ^ 16 ∧
        (t.core core).pair.run = 0 ∧ (t.core core).pair.vregs = c.vregs) ∧
      (c.pair.upset = true ∨ (∃ p ∈ c.pair.prints, p.even ≠ p.odd) → c.pair.run < 2 → c.pair.undo = [] → does (.pairIntervalEnd core) fun t => t.net = c.pair.inbound.map Packet.again ++ s.net ∧ t.mem = s.mem ∧
        (t.core core).vregs = c.pair.vregs ∧ (t.core core).berths = c.pair.berths ∧ (t.core core).arr = c.pair.arr ∧
        (t.core core).queue = c.pair.queue ∧ (t.core core).pq = c.pair.pq ∧ (t.core core).pair.disagreed = min 255 (c.pair.disagreed + 1) ∧
        (t.core core).pair.run = c.pair.run + 1))

/-- The commands of work queues and the life of a launch (R286, R288, R291, R294, R297 to R301, R306, R308, R310 to R312, R314, R318, R319). A ready command
is taken from slot HEAD; a launch record becomes a launch, and any other kind that is no command completes with 0x20; CANCEL stops the launches
under its tag; RESOLVE without such a record completes with 0x21, and FAIL drops the item; RPC_REPLY sends its packet; INVAL removes translations,
for a privileged queue only. A launch is validated in one event, with OVERSIZE before any dependence retires, its berths are bound, its tasks are
dispatched, and it completes; a watchdog that runs out reports. A front end handles one event in a cycle, in the order of R283. What the model chooses
or reads by inference: that INVAL removes the global entries of every context (log entry 46), that each die's front end orders its own events and a
cancel reaches those of other dies as an event there (log entry 31), that front ends which act on one another do so on one side of a snapshot (log entry
61), and that a binding keeps a berth's waiters (log entry 65). -/
def Obligations.FrontEndEvents : Prop :=
  ∀ (s : State), s.mem.wf = true → (∀ q, (s.quay q).monitors = []) → (s.ctx 4096).member = false → s.poison = [] → s.latent = [] →
    (∀ q b, q < 2 ^ 15 → (s.queue q).head < 16 → Offers s q b →
      let x := s.queue q
      let byte := fun i => (b.getD i 0).toNat
      let cmd : Cmd := { q := q, slot := x.head, taken := x.taken, ltag := field b 12 2 }
      let unused := fun (used : Nat → Prop) => ∀ i < 127, i ≠ 0 → i ≠ 12 → i ≠ 13 → ¬ used i → byte i = 0
      (byte 0 ≤ 1 → ∃ t l, exec (.launchCommand q) s = .next t ∧ t.queue q = taken x ∧ Tab.find s.nextLaunch t.launches = some l ∧ l.ctx = x.ctx ∧
        l.src = .queue cmd x.priv ∧ l.phase = .reading ∧ l.rcd.kind = byte 0 ∧ l.rcd.ltag = field b 12 2 ∧ l.rcd.vq = byte 3 ∧
        l.rcd.entry = BitVec.ofNat 64 (field b 80 8) ∧ l.rcd.arg = BitVec.ofNat 64 (field b 88 8) ∧ t.nextLaunch = s.nextLaunch + 1 ∧ t.mem = s.mem) ∧
      (2 ≤ byte 0 → ¬ (0x80 ≤ byte 0 ∧ byte 0 ≤ 0x83) → Answers s s q 0x20 (exec (.launchCommand q) s)) ∧
      (byte 0 = 0x80 → s.feCancels 0 = false → exec (.cancel q) s = .next s) ∧
      (byte 0 = 0x80 → unused (fun i => i = 16 ∨ i = 18 ∨ i = 19) → s.feCancels 0 = true →
        ((∀ l ∈ s.launches, ¬ (l.2.ctx = x.ctx ∧ l.2.rcd.ltag = field b 18 2)) → byte 16 ≤ 1 → Answers s s q 0 (exec (.cancel q) s)) ∧
        (∀ l y c pr, s.launches = [(l, y)] → y.src = .queue c pr → y.ctx = x.ctx → y.rcd.ltag = field b 18 2 → byte 16 = 0 → y.cancels = [] →
          (s.cancelDies y = [0] →
            Answers s { s with launches := [(l, { y with todo := [], binds := [], waitsOn := [], phase := .dispatching, cancelled := true })] } q 0
              (exec (.cancel q) s)) ∧
          (∀ d, d ≠ 0 → s.cancelDies y = [d] →
            Answers s { s with launches := [(l, { y with cancelled := true, cancels := [{ die := d, at_ := s.cycle, abort := false }] })] } q 0
              (exec (.cancel q) s))) ∧
        (2 ≤ byte 16 → Answers s s q 0x20 (exec (.cancel q) s))) ∧
      (byte 0 = 0x81 → unused (fun i => 16 ≤ i ∧ i < 25) → byte 24 ≤ 1 →
        ((∀ p ∈ (s.ctx x.ctx).parked, p.n ≠ some (field b 16 8)) → Answers s s q 0x21 (exec (.resolve q) s)) ∧
        (∀ p k be dest d po sc l, (s.ctx x.ctx).parked = [p] → p.n = some (field b 16 8) → p.item = .place k → k.kind = .place be dest d po sc l none →
          (∀ y ∈ s.launches, y.1 ≠ l) → (s.ctx k.ctx).member = false → byte 24 = 1 → Answers s (s.updCtx x.ctx fun c => { c with parked := [] }) q 0 (exec (.resolve q) s))) ∧
      (byte 0 = 0x82 → let len := byte 32
        let rank := field b 16 4
        unused (fun i => (16 ≤ i ∧ i < 33) ∨ (40 ≤ i ∧ i < 40 + len)) → rank < 2 ^ 24 → field b 20 2 < 2048 → len ≤ 80 → len % 8 = 0 →
        (s.ctx x.ctx).member = false → exec (.rpcReply q) s = .next { s.updQueue q taken with
          net := s.net ++ [{ src := 16384, origin := rank, ctx := x.ctx, gen := field b 22 2, colour := false, rank := rank, marker := none,
                             kind := .place (field b 20 2) (field b 24 8) ((b.drop 40).take len) []
                               (if ((s.ctx x.ctx).rank rank).phys / 512 = 0 then 1 else 2) s.nextLaunch (some cmd) }] }) ∧
      (byte 0 = 0x83 → let va := field b 16 8
        let size := 2 ^ byte 24
        let keep := fun (l : List TlbEntry) => l.filter fun e =>
          !((e.ctx == x.ctx || e.pte.global) && decide (e.pte.va < va + size) && decide (va < e.pte.va + 2 ^ e.pte.lgs))
        (x.priv = false → Answers s s q 0x23 (exec (.inval q) s)) ∧
        (x.priv = true → unused (fun i => 16 ≤ i ∧ i < 25) → 16 ≤ byte 24 → byte 24 ≤ 56 → va % size = 0 → (s.ctx x.ctx).ranks = [] → s.quays = [] →
          Answers s { s with cores := s.cores.map fun c => (c.1, { c.2 with tlb := keep c.2.tlb }) } q 0 (exec (.inval q) s)))) ∧
    (∀ q e, let x := s.queue q
      x.held = [e] → x.lgc ≠ 0 → x.cqtail = x.cqhead → x.cqtail < 2 ^ 32 → x.cnt ≤ 1 →
      x.cqbase + 16 * 2 ^ x.lgc ≤ 2 ^ 64 → ∃ t, exec (.completionQueueFlush q) s = .next t ∧
        t.queue q = { x with held := [], cqtail := (x.cqtail + 1) % 2 ^ 32,
                             phase := if (x.cqtail + 1) % 2 ^ 32 % 2 ^ x.lgc = 0 then !x.phase else x.phase } ∧
        t.msix = x.vec :: s.msix ∧ t.mem.readN (2 ^ 64 + x.cqbase + 16 * (x.cqtail % 2 ^ x.lgc)) 16 =
          toBytes 2 (q % 2 ^ 15 + if x.phase then 2 ^ 15 else 0) ++ toBytes 1 e.slot ++ toBytes 1 e.status ++ toBytes 2 e.ltag ++ toBytes 1 e.code ++ [0] ++
            toBytes 4 e.taken ++ [0, 0, 0, 0]) ∧
    (∀ l y c pr, Tab.find l s.launches = some y → y.src = .queue c pr →
      let ends := fun (i : Instr) (st code : Nat) => ∃ t, exec i s = .next t ∧ t.launches = Tab.del l s.launches ∧
        t.mem.readN (0x04000000 + 32 * (16 * c.q + c.slot)) 4 = toBytes 1 st ++ toBytes 1 code ++ toBytes 2 c.ltag ∧
        t.mem.readN (0x04000000 + 32 * (16 * c.q + c.slot) + 4) 28 = toBytes 4 y.errcount ++ toBytes 8 y.dispatched ++ toBytes 8 y.exited ++
          toBytes 8 y.detail.toNat
      c.q < 2 ^ 15 → c.slot < 16 →
      let fed := fun (t : State) (d : Nat) => t.updDie d fun z => { z with feAt := some s.cycle }
      (y.phase = .reading → (∀ p ∈ (s.die y.die).pendAts, p.1 ≠ y.ctx) → s.feValidates y.die = true →
        s.heldBack l y = false →
        (y.rcd.legal = false → ends (.launchValidation l) 1 1) ∧
        (y.rcd.limits false = true → y.rcd.kind = 0 →
          (pr = false → y.rcd.super = true → ends (.launchValidation l) 1 6) ∧
          ((pr = true ∨ (y.rcd.super = false ∧ y.rcd.array = false)) → y.rcd.indirect = false →
            (∀ n, (∀ v ∈ y.rcd.levels, v.extent ≠ 0) → y.rcd.oversize = some n → ends (.launchValidation l) 2 n) ∧
            (∀ sc, s.launches = [(l, y)] → y.rcd.deps = [] → y.rcd.levels = [{ scope := sc, domain := 5, extent := 1 }] → y.rcd.fixed = true →
              y.rcd.chanTab = [] → y.rcd.xregs ≤ 10 → y.rcd.vq ≤ 32 → y.rcd.spad ≤ 256 → y.rcd.nberths ≤ 2048 → y.rcd.place.toNat < 2 ^ 24 →
              ((s.ctx y.ctx).rank y.rcd.place.toNat).state ≠ 0 → exec (.launchValidation l) s = .next ((fed s y.die).updLaunch l fun z =>
                { z with phase := .dispatching, waitsOn := [], clamped := false, binds := []
                         todo := [{ taskid := 0, rank := y.rcd.place.toNat, stage := 0, thread := 0 }] }))))) ∧
      (∀ k e cfg rest, y.binds = (k, e, cfg) :: rest → y.phase = .dispatching → ((s.ctx y.ctx).rank (k / 2048)).state = 1 → let n := cfg.toNat
        let core := ((s.ctx y.ctx).rank (k / 2048)).phys
        let old := (s.core core).berth (k % 2048)
        s.feAfterCancel (core / 512) = true → s.aligned y.ctx (.frontEnd (core / 512)) (.core core) = true →
        s.aligned y.ctx (.frontEnd (core / 512)) (.frontEnd y.die) = true →
        (old.kind ≠ 1 → old.waiters = [] → exec (.channelBinding l) s =
          .next (((fed s (core / 512)).updLaunch l fun z => { z with binds := rest }).updCore core fun x => x.updBerth (k % 2048) fun _ =>
            { kind := n / 2 ^ 62, cfg := cfg, count := if n / 2 ^ 62 = 2 then 2 ^ (n / 2 ^ 35 % 16) else 0 })) ∧
        ∃ t z, exec (.channelBinding l) s = .next t ∧ Tab.find l t.launches = some z ∧ z.binds = rest ∧ t.mem = s.mem ∧
          ((t.core core).berth (k % 2048)).kind = n / 2 ^ 62 ∧ ((t.core core).berth (k % 2048)).cfg = cfg) ∧
      (∀ tk, s.launches = [(l, y)] → y.phase = .dispatching → y.cancelled = false → (s.ctx y.ctx).state = 1 → y.binds = [] → y.todo = [tk] → y.live = [] →
        y.rcd.kind = 0 → y.rcd.vq ≤ 32 → let core := ((s.ctx y.ctx).rank tk.rank).phys
        (s.die (core / 512)).feAt ≠ some s.cycle → (s.die (core / 512)).exits = [] → s.cancelNext (core / 512) = false →
        s.aligned y.ctx (.frontEnd (core / 512)) (.frontEnd y.die) = true →
        let area : Word := if y.rcd.spad = 0 then 0 else BitVec.ofNat 64 (0x00FFFFFFFFFC0000 + (tk.thread + 1) * y.rcd.spad * 1024)
        ∃ t th p, exec (.dispatch l) s = .next t ∧ t.net = s.net ++ [p] ∧ p.kind = .context 0 th ∧ p.rank = tk.rank ∧ p.ctx = y.ctx ∧
          p.gen = (s.ctx y.ctx).gen ∧ th.pc = y.rcd.entry ∧ th.xreg 0 = { v := y.rcd.arg, p := false } ∧ th.xreg 8 = { v := area, p := false } ∧ (∀ r, r ≠ 0 → r ≠ 8 → r < 10 → th.xreg r = { v := 0, p := false }) ∧
          th.status = BitVec.ofNat 64 ((if y.rcd.super then 2 else 1) + (if y.rcd.vq ≠ 0 ∨ y.rcd.array = true then 16 else 0)
            + if s.isPaired core then 256 else 0) ∧
          th.taskid = tk.taskid ∧ th.rank = tk.rank ∧ th.vq = y.rcd.vq ∧ th.vbase = 0 ∧ th.array = y.rcd.array ∧
          ∃ z, t.launches = [(l, z)] ∧ z.todo = [] ∧ z.live = [{ tk with vbase := 0 }] ∧ z.dispatched = y.dispatched + 1) ∧
      (y.phase = .dispatching → y.todo = [] → y.binds = [] → y.live = [] → y.children = 0 → y.pendingPlace = 0 →
        let st := if y.cancelled then 3 else y.firstErr.getD 0
        ends (.launchCompletion l) st (if st = 0 ∧ y.clamped = true then 1 else 0)) ∧
      (∀ t0, y.rcd.wdog ≠ 0 → y.phase = .dispatching → y.silent = false → y.wdogFrom = some t0 → t0 + 2 ^ y.rcd.wdog * microUnits ≤ s.time →
        s.feValidates y.die = true → (∀ k ∈ s.launches, k.2.die = y.die → s.mayValidate k.1 k.2 = false) → ∃ t z, exec (.watchdogExpiry l) s = .next t ∧ Tab.find l t.launches = some z ∧ z = { y with silent := true } ∧
        t.mem.readN (0x04000000 + 32 * (16 * c.q + c.slot)) 4 = toBytes 1 0x10 ++ toBytes 1 0 ++ toBytes 2 c.ltag))

/-- The life of a context (R200, R201, R315, R316, R320 to R324, R326, R329, R330, R331, R334, R382): its creation from a descriptor, a save and a
resumption with the ERR that each leaves, its teardown, a load, a rank that moves to another core, and the host's answers about its pages. A request
that is accepted is in progress until its end, a step of its own (`State.finishRequest`), for which the chunks in flight land first. What the model
chooses: that a request is two steps (log entry 39), that a descriptor which breaks a limit at its second reading leaves the one before (log entry 62),
how an ATS range is aligned (log entry 24, PRESUMED), and how a creation or LOAD that names a degraded core ends (log entry 65). -/
def Obligations.ContextEvents : Prop :=
  ∀ (s : State) (c : Nat), (s.ctx 4096).member = false → let x := s.ctx c
    let does := fun (i : Instr) (p : State → Prop) => ∃ t, exec i s = .next t ∧ p t
    let ends := fun (p : State → Prop) => p (s.finishRequest c)
    let a := x.ctxd.toNat - x.ctxd.toNat % 256
    let told := fun (t : State) (e : Nat) => (t.ctx c).err = e ∧ t.msix.head? = some (t.ctx c).fqvec
    let empty := (∀ q ∈ s.quays, q.2.merge = [] ∧ q.2.monitors = []) ∧ (∀ d ∈ s.dies, d.2.merge = []) ∧ s.pkgMerge = []
    let quiet := fun (p : Nat) => (s.core p).gated = false ∧ (s.core p).pq = [] ∧ (s.core p).pubs = [] ∧ (s.core p).ni = [] ∧
      (∀ y ∈ (s.core p).slots, y.wins = []) ∧ s.isPaired p = false
    let ranksAre := fun (t : State) (n : Nat) => ∀ r, ((t.ctx c).rank r).state = if (x.rank r).state = 0 then 0 else n
    let clean := s.poison = [] ∧ s.latent = []
    let word := fun (n r : Nat) => ofBytes (s.mem.readN (n + 8 * r) 8)
    (∀ v : Word, x.state = 0 → v.toNat % 256 = 1 → v.toNat + 256 ≤ 8 * 96 * 2 ^ 30 → s.mem.wf = true → (∀ q, (s.quay q).monitors = []) → clean →
      let b := s.mem.readN (v.toNat - 1) 256
      (field b 4 4 = 0 → does (.contextCreate c v) fun t => (t.ctx c).state = 0 ∧ (t.ctx c).err = 4) ∧
      (descOk b = true → s.givesDegraded c (s.readRanks (descOf b)) = true → does (.contextCreate c v) fun t => (t.ctx c).state = 0 ∧ (t.ctx c).err = 5) ∧
      (descOk b = true → field b 8 8 + 8 * field b 4 4 ≤ 8 * 96 * 2 ^ 30 → s.givesDegraded c (s.readRanks (descOf b)) = false → does (.contextCreate c v) fun t => (t.ctx c).state = 1 ∧ (t.ctx c).err = 0 ∧
        (t.ctx c).gen = (x.gen + 1) % 2 ^ 16 ∧ t.mem.readN (v.toNat - 1) 2 = toBytes 2 (x.gen + 1) ∧ (t.ctx c).desc.nranks = field b 4 4 ∧
        (t.ctx c).desc.fqbase = field b 48 8 ∧ (t.ctx c).desc.savesize = field b 64 8 ∧ (∀ r < field b 4 4,
          let w := word (field b 8 8) r
          ((t.ctx c).rank r).state = w / 2 ^ 30 % 4 ∧ ((t.ctx c).rank r).phys = w % 2 ^ 12 ∧ ((t.ctx c).rank r).immig = w.testBit 29))) ∧
    (x.state ≠ 1 → exec (.preempt c) s = .next (s.updCtx c fun k => { k with err := 2 }) ∧
      exec (.loadI c) s = .next (s.updCtx c fun k => { k with err := 2 })) ∧
    (x.state ≠ 3 → exec (.resumeI c) s = .next (s.updCtx c fun k => { k with err := 2 })) ∧
    (x.state ≠ 1 → x.state ≠ 3 → exec (.teardown c) s = .next (s.updCtx c fun k => { k with err := 2 })) ∧
    (x.state = 1 → x.desc.savesize < 0x01100000 + x.desc.nranks * 0x80000 → does (.preempt c) fun t => (t.ctx c).state = 1 ∧ told t 7 ∧ t.mem = s.mem) ∧
    (x.state = 1 → 0x01100000 + x.desc.nranks * 0x80000 ≤ x.desc.savesize → x.dueSave = none → (∀ r ∈ x.ranks, r.2.moving = none) → empty → (∀ r ∈ x.ranks, r.2.state ≠ 0 → quiet r.2.phys) →
      (∀ q ∈ s.quays, q.2.svc = []) → does (.preempt c) fun t => (t.ctx c).state = 2 ∧ (t.ctx c).reqErr = 0 ∧ ranksAre t 2) ∧
    (x.state = 2 → s.chunksFly c = true → ends fun t => t = s) ∧
    (x.state = 2 → s.chunksFly c = false → empty → ends fun t => (t.ctx c).state = 3 ∧ told t x.reqErr ∧ (t.ctx c).save.isSome = true ∧ ranksAre t 3 ∧
      ∀ r ∈ x.ranks, r.2.state ≠ 0 → (t.core r.2.phys).owner = none) ∧
    (∀ sv, x.state = 3 → x.save = some sv → Still s → clean →
      let d := if inHdm a 256 then s.mem.readN a 256 else List.replicate 256 0
      let new := s.readRanks (if descOk d then descOf d else x.desc)
      (s.placementOk new sv = false → does (.resumeI c) fun t => (t.ctx c).state = 3 ∧ told t 5 ∧ t.mem = s.mem) ∧
      (s.placementOk new sv = true → does (.resumeI c) fun t => (t.ctx c).state = 4 ∧ (t.ctx c).save = some sv ∧
        (∀ r, ((t.ctx c).rank r).state = if (Tab.get {} r new).state = 0 then 0 else 2) ∧ ∀ r ∈ sv.cores, (t.core (Tab.get {} r.rank new).phys).owner = some c)) ∧
    (∀ sv, x.state = 4 → x.save = some sv → Still s → x.member = false → ends fun t => (t.ctx c).state = 1 ∧ told t 0 ∧ (t.ctx c).save = none ∧
      ranksAre t 1) ∧
    (x.state = 1 ∨ x.state = 3 → does (.teardown c) fun t => (t.ctx c).state = 6) ∧
    (x.state = 6 → s.chunksFly c = true → ends fun t => t = s) ∧
    (x.state = 6 → s.chunksFly c = false → ends fun t => (t.ctx c).state = 0 ∧ told t 0 ∧ (t.ctx c).ranks = [] ∧ (t.ctx c).parked = [] ∧
      (t.ctx c).save = none ∧ (t.ctx c).ctxd.getLsbD 0 = false ∧ ∀ i, ¬ ((t.slate i).alloc = true ∧ (t.slate i).ctx = c)) ∧
    (x.state = 1 → (∃ l ∈ s.launches, l.2.ctx = c) → exec (.loadI c) s = .next (s.updCtx c fun k => { k with err := 1 })) ∧
    (x.state = 1 → (∀ l ∈ s.launches, l.2.ctx ≠ c) → inHdm a 256 = true → clean →
      let b := s.mem.readN a 256
      let d := if descOk b then descOf b else x.desc
      (s.givesDegraded c (s.readRanks d) = true → does (.loadI c) fun t => (t.ctx c).state = 1 ∧ told t 5) ∧
      (s.givesDegraded c (s.readRanks d) = false → does (.loadI c) fun t => (t.ctx c).state = 5 ∧ (t.ctx c).desc = d ∧ t.mem = s.mem ∧ t.msix = s.msix ∧
        (d.ranktab + 8 * d.nranks ≤ 8 * 96 * 2 ^ 30 → ∀ r < d.nranks, let w := word d.ranktab r
          ((t.ctx c).rank r).state = w / 2 ^ 30 % 4 ∧ ((t.ctx c).rank r).phys = w % 2 ^ 12))) ∧
    (x.state = 5 → clean →
      (∀ e, s.readImage c = .error e → ends fun t => (t.ctx c).state = 1 ∧ told t e ∧ t.mem = s.mem) ∧
      (∀ r p parent rank file, s.readImage c = .ok ([r], [p], [(rank, parent)], file) → p.first ≤ rank → rank ≤ p.last → p.role = 0 → r.seglen = 0 →
        r.spoff + r.splen ≤ file.length → r.spdst + r.splen ≤ 2 ^ 18 → (x.rank rank).phys < 4096 → s.mem.wf = true → (∀ q, (s.quay q).monitors = []) →
        x.member = false → let core := (x.rank rank).phys
        ends fun t => (t.ctx c).state = 1 ∧ told t 0 ∧ (∀ m, t.mem.read m = if spadHome core r.spdst ≤ m ∧ m < spadHome core r.spdst + r.splen
            then file.getD (r.spoff + (m - spadHome core r.spdst)) 0 else s.mem.read m) ∧
          ∀ k ∈ x.ranks, k.2.state ≠ 0 → (t.core k.2.phys).pins = [] ∧ (t.core k.2.phys).ibuf = [])) ∧
    (∀ rank phys, let e := x.rank rank
      let old := s.core e.phys
      (e.state = 1 → x.state = 1 → phys < 4096 → (s.core phys).owner = none → (s.core phys).degraded = false → (s.gang (e.phys / 8)).joined = 0 →
        (s.gang (e.phys / 8)).arrived = 0 → (s.gang (e.phys / 8)).paired = false → (s.gang (phys / 8)).paired = false → phys ≠ e.phys → quiet e.phys →
        empty → does (.relocationAroundDefectiveCore c rank phys) fun t => ((t.ctx c).rank rank).state = 2 ∧
          ((t.ctx c).rank rank).moving = some phys ∧ (t.core phys).owner = some c ∧
          (t.core e.phys).owner = none ∧ (t.core phys).queue = old.queue ∧ (t.core phys).berths = old.berths ∧ (t.core phys).vregs = old.vregs ∧
          (t.core phys).arr = old.arr) ∧
      (e.state = 2 → x.state = 1 → e.moving = some phys → Still s → does (.rankRelocationComplete c rank phys) fun t =>
        ((t.ctx c).rank rank).state = 1 ∧ ((t.ctx c).rank rank).phys = phys ∧ ((t.ctx c).rank rank).held = [] ∧
          t.net = e.held.map (fun p => { p with fwd := some s.cycle, gen := (s.ctx p.ctx).gen }) ++ s.net)) ∧
    (∀ d iova size r w u, let k := iova / 4096 * 4096
      let lo := k / size * size
      (c, k) ∈ (s.die d).pendAts → Still s → does (.atsTranslationCompletion d c { iova := iova, size := size } r w u) fun t =>
        (t.die d).pendAts = (s.die d).pendAts.erase (c, k) ∧
        (t.die d).atc.head? = some { pasid := c, iova := lo, size := size, r := r, w := w, u := u } ∧
        (∀ y ∈ (t.die d).atc.drop 1, ¬ (y.pasid = c ∧ y.iova < lo + size ∧ lo < y.iova + y.size)) ∧
        ∀ l, l.svc = false → l.unit / 512 = d → (s.slot l).th.any (·.ctx == c) = true → (s.slot l).stall = some .ats → (t.slot l).stall = none) ∧
    (∀ iova size, does (.atsInvalidationRequest c iova size) fun t => t.mem = s.mem ∧ t.net = s.net ∧ ∀ d,
      (t.die d).atc = (s.die d).atc.filter fun y => !(y.pasid == c && decide (y.iova < iova + size) && decide (iova < y.iova + y.size))) ∧
    (∀ d iova, let k := iova / 4096 * 4096
      let asks := fun (y : PageReq) => y.die == d && y.pasid == c && y.iova == k
      s.pri.any asks = true →
      (x.parked = [] → ∀ ans, does (.priPageResponse d c iova ans) fun t => t.pri = s.pri.filter (fun y => !asks y) ∧ t.mem = s.mem) ∧
      (∀ p, x.parked = [p] → p.pri = some (d, k) → p.again = false → p.cmd = none → (x.fqtail - x.fqhead).toNat < x.desc.fqsize → p.bytes.length = 32 →
        s.mem.wf = true → let at_ := x.desc.fqbase + 32 * (x.fqtail.toNat % x.desc.fqsize)
        at_ + 32 ≤ 8 * 96 * 2 ^ 30 → ∀ ans, ans ≠ .success → does (.priPageResponse d c iova ans) fun t => t.pri = s.pri.filter (fun y => !asks y) ∧
          t.mem.readN at_ 32 = p.bytes ∧ (t.ctx c).fqtail = x.fqtail + 1 ∧ t.msix = x.fqvec :: s.msix ∧
          (t.ctx c).parked = [{ n := some x.fqtail.toNat, item := p.item, bytes := p.bytes, pri := none }]))
end

