-- ==== Sys2Proof/Laws/Memory.lean ====
section
/-!
SUPPORT. Memory: a read after a write, and the canonical form that every operation keeps.
-/

namespace Sys2Proof.Machine

theorem Memory.read_insert_same (m : Memory) (a : Nat) (v : Byte) : (Memory.insert m a v).read a = v := by
  induction m with
  | nil => simp [Memory.insert, Memory.read]
  | cons p t ih =>
    obtain ⟨k, b⟩ := p
    unfold Memory.insert
    by_cases h : k < a
    · simp [h, Memory.read, Nat.ne_of_lt h, ih]
    · by_cases g : k = a
      · simp [g, Memory.read]
      · simp [h, g, Memory.read]

theorem Memory.read_insert_other (m : Memory) {a b : Nat} (v : Byte) (n : b ≠ a) : (Memory.insert m a v).read b = m.read b := by
  induction m with
  | nil => simp [Memory.insert, Memory.read, Ne.symm n]
  | cons p t ih =>
    obtain ⟨k, c⟩ := p
    unfold Memory.insert
    by_cases h : k < a
    · simp [h, Memory.read, ih]
    · by_cases g : k = a
      · subst g
        simp [Memory.read, Ne.symm n]
      · simp [h, g, Memory.read, Ne.symm n]

/-- The form from a bound implies the form from a lower one. -/
theorem Memory.wfFrom_mono {lo lo' : Option Nat} (m : Memory) (h : m.wfFrom lo = true)
    (le : ∀ x, lo' = some x → ∃ y, lo = some y ∧ x ≤ y) : m.wfFrom lo' = true := by
  cases m with
  | nil => simp [Memory.wfFrom]
  | cons p t =>
    obtain ⟨k, b⟩ := p
    simp only [Memory.wfFrom, Bool.and_eq_true] at h ⊢
    refine ⟨⟨?_, h.1.2⟩, h.2⟩
    cases lo' with
    | none => rfl
    | some x =>
      obtain ⟨y, rfl, hy⟩ := le x rfl
      have := h.1.1
      simp only [decide_eq_true_eq] at this ⊢
      omega

theorem Memory.wfFrom_tail {lo : Option Nat} {k : Nat} {b : Byte} {t : Memory} (h : Memory.wfFrom lo ((k, b) :: t) = true) :
    Memory.wfFrom (some k) t = true := by
  simp only [Memory.wfFrom, Bool.and_eq_true] at h
  exact h.2

/-- In canonical form nothing is listed at or below the bound. -/
theorem Memory.read_below {lo : Nat} (m : Memory) (h : m.wfFrom (some lo) = true) {a : Nat} (le : a ≤ lo) : m.read a = unwritten := by
  induction m generalizing lo with
  | nil => simp [Memory.read]
  | cons p t ih =>
    obtain ⟨k, b⟩ := p
    simp only [Memory.wfFrom, Bool.and_eq_true, decide_eq_true_eq] at h
    have hk : k ≠ a := by omega
    simp only [Memory.read, hk, if_false]
    exact ih h.2 (by omega)

theorem Memory.wfFrom_erase {lo : Option Nat} (m : Memory) (a : Nat) (h : m.wfFrom lo = true) : (m.erase a).wfFrom lo = true := by
  induction m generalizing lo with
  | nil => simpa [Memory.erase] using h
  | cons p t ih =>
    obtain ⟨k, b⟩ := p
    unfold Memory.erase
    by_cases g : k < a
    · simp only [g, if_true]
      simp only [Memory.wfFrom, Bool.and_eq_true] at h ⊢
      exact ⟨h.1, ih h.2⟩
    · simp only [g, if_false]
      by_cases e : k = a
      · simp only [e, if_true]
        refine Memory.wfFrom_mono t (Memory.wfFrom_tail h) ?_
        rintro x rfl
        simp only [Memory.wfFrom, Bool.and_eq_true, decide_eq_true_eq] at h
        exact ⟨k, rfl, by omega⟩
      · simpa only [e, if_false] using h

theorem above_bound (lo : Option Nat) (a : Nat) : (∀ x, lo = some x → x < a) → (match lo with
    | none => true
    | some l => decide (l < a)) = true := by
  cases lo with
  | none => exact fun _ => rfl
  | some x => exact fun h => by simpa using h x rfl

theorem Memory.wfFrom_insert {lo : Option Nat} (m : Memory) (a : Nat) (v : Byte) (hv : v ≠ unwritten) (h : m.wfFrom lo = true)
    (hlo : ∀ x, lo = some x → x < a) : (m.insert a v).wfFrom lo = true := by
  induction m generalizing lo with
  | nil =>
    simp only [Memory.insert, Memory.wfFrom, Bool.and_eq_true]
    exact ⟨⟨above_bound lo a hlo, by simpa using hv⟩, trivial⟩
  | cons p t ih =>
    obtain ⟨k, b⟩ := p
    unfold Memory.insert
    by_cases g : k < a
    · simp only [g, if_true]
      simp only [Memory.wfFrom, Bool.and_eq_true] at h ⊢
      exact ⟨h.1, ih h.2 (by rintro x ⟨⟩; exact g)⟩
    · simp only [g, if_false]
      by_cases e : k = a
      · simp only [e, if_true]
        subst e
        simp only [Memory.wfFrom, Bool.and_eq_true] at h ⊢
        exact ⟨⟨h.1.1, by simpa using hv⟩, h.2⟩
      · simp only [e, if_false]
        simp only [Memory.wfFrom, Bool.and_eq_true] at h ⊢
        exact ⟨⟨above_bound lo a hlo, by simpa using hv⟩, ⟨by simp; omega, h.1.2⟩, h.2⟩

/-- A write keeps the canonical form. -/
theorem Memory.wf_write (m : Memory) (a : Nat) (v : Byte) (h : m.wf = true) : (m.write a v).wf = true := by
  unfold Memory.write Memory.wf
  split
  · exact Memory.wfFrom_erase m a h
  · exact Memory.wfFrom_insert m a v ‹_› h (by rintro x ⟨⟩)

theorem Memory.read_erase_same {lo : Option Nat} (m : Memory) (a : Nat) (h : m.wfFrom lo = true) : (m.erase a).read a = unwritten := by
  induction m generalizing lo with
  | nil => simp [Memory.erase, Memory.read]
  | cons p t ih =>
    obtain ⟨k, b⟩ := p
    unfold Memory.erase
    by_cases g : k < a
    · simp only [g, if_true, Memory.read, Nat.ne_of_lt g, if_false]
      exact ih (Memory.wfFrom_tail h)
    · simp only [g, if_false]
      by_cases e : k = a
      · simp only [e, if_true]
        subst e
        exact Memory.read_below t (Memory.wfFrom_tail h) (Nat.le_refl k)
      · simp only [e, if_false, Memory.read]
        exact Memory.read_below t (Memory.wfFrom_tail h) (by omega)

theorem Memory.read_erase_other (m : Memory) {a b : Nat} (n : b ≠ a) : (m.erase a).read b = m.read b := by
  induction m with
  | nil => simp [Memory.erase]
  | cons p t ih =>
    obtain ⟨k, c⟩ := p
    unfold Memory.erase
    by_cases g : k < a
    · simp [g, Memory.read, ih]
    · by_cases e : k = a
      · subst e
        simp [Memory.read, Ne.symm n]
      · simp [g, e]

/-- A read after a write to the same address gives the value written. -/
theorem Memory.read_write_same (m : Memory) (a : Nat) (v : Byte) (h : m.wf = true) : (m.write a v).read a = v := by
  unfold Memory.write
  split
  · rename_i e
    rw [e]
    exact Memory.read_erase_same m a h
  · exact Memory.read_insert_same m a v

/-- A write leaves every other address alone. -/
theorem Memory.read_write_other (m : Memory) {a b : Nat} (v : Byte) (n : b ≠ a) : (m.write a v).read b = m.read b := by
  unfold Memory.write
  split
  · exact Memory.read_erase_other m n
  · exact Memory.read_insert_other m v n

theorem Memory.wf_writeN (m : Memory) (a : Nat) (l : List Byte) (h : m.wf = true) : (m.writeN a l).wf = true := by
  induction l generalizing m a with
  | nil => simpa [Memory.writeN] using h
  | cons b t ih => simpa [Memory.writeN] using ih _ _ (Memory.wf_write m a b h)

theorem Memory.wf_patch (m : Memory) (a : Nat) (l : Patch) (h : m.wf = true) : (m.patch a l).wf = true := by
  induction l generalizing m a with
  | nil => simpa [Memory.patch] using h
  | cons o t ih => cases o with
    | none => simpa [Memory.patch] using ih _ _ h
    | some p => simpa [Memory.patch] using ih _ _ (Memory.wf_write m a p.1 h)

/-- A patch leaves every address outside its run alone. -/
theorem Memory.read_patch_other (m : Memory) (a b : Nat) (l : Patch) (h : b < a ∨ a + l.length ≤ b) : (m.patch a l).read b = m.read b := by
  induction l generalizing m a with
  | nil => simp [Memory.patch]
  | cons o t ih =>
    have h' : b < a + 1 ∨ a + 1 + t.length ≤ b := by simp at h; omega
    cases o with
    | none => simpa [Memory.patch] using ih m (a + 1) h'
    | some p =>
      simp only [Memory.patch]
      rw [ih _ (a + 1) h', Memory.read_write_other m p.1 (by simp at h; omega)]

/-- Some of the cells of a memory in canonical form are in canonical form. -/
theorem Memory.wf_filter (m : Memory) (p : Host.Cell → Bool) (h : m.wf = true) : Memory.wf (m.filter p) = true := by
  unfold Memory.wf at *
  suffices ∀ lo, Memory.wfFrom lo m = true → Memory.wfFrom lo (m.filter p) = true from this none h
  intro lo hm
  clear h
  induction m generalizing lo with
  | nil => simpa using hm
  | cons c t ih =>
    obtain ⟨k, b⟩ := c
    have ht := Memory.wfFrom_tail hm
    simp only [List.filter_cons]
    split
    · simp only [Memory.wfFrom, Bool.and_eq_true] at hm ⊢
      exact ⟨hm.1, ih _ ht⟩
    · refine Memory.wfFrom_mono _ (ih _ ht) ?_
      rintro x rfl
      simp only [Memory.wfFrom, Bool.and_eq_true, decide_eq_true_eq] at hm
      exact ⟨k, rfl, by omega⟩

end Sys2Proof.Machine
end

