-- ==== Sys2Proof/Laws/Tab.lean ====
section
/-!
SUPPORT. Reading sparse tables and lists after an update.
-/

namespace Sys2Proof

variable {α : Type}

@[simp] theorem Tab.get_set_same (d a : α) (k : Nat) (t : Tab α) : Tab.get d k (Tab.set k a t) = a := by
  induction t with
  | nil => simp [Tab.set, Tab.get]
  | cons p t ih =>
    obtain ⟨j, b⟩ := p
    unfold Tab.set
    by_cases h : j = k
    · simp [h, Tab.get]
    · by_cases g : k < j
      · simp [h, g, Tab.get]
      · simp [h, g, Tab.get, ih]

theorem Tab.get_set_other (d a : α) {k n : Nat} (h : n ≠ k) (t : Tab α) : Tab.get d n (Tab.set k a t) = Tab.get d n t := by
  induction t with
  | nil => simp [Tab.set, Tab.get, Ne.symm h]
  | cons p t ih =>
    obtain ⟨j, b⟩ := p
    unfold Tab.set
    by_cases e : j = k
    · subst e
      simp [Tab.get, Ne.symm h]
    · by_cases g : k < j
      · simp [e, g, Tab.get, Ne.symm h]
      · simp [e, g, Tab.get, ih]

theorem Tab.get_set (d a : α) (k n : Nat) (t : Tab α) : Tab.get d n (Tab.set k a t) = if n = k then a else Tab.get d n t := by
  by_cases h : n = k
  · simp [h]
  · simp [h, Tab.get_set_other d a h]

@[simp] theorem Tab.find_set_same (a : α) (k : Nat) (t : Tab α) : Tab.find k (Tab.set k a t) = some a := by
  induction t with
  | nil => simp [Tab.set, Tab.find]
  | cons p t ih =>
    obtain ⟨j, b⟩ := p
    unfold Tab.set
    by_cases h : j = k
    · simp [h, Tab.find]
    · by_cases g : k < j
      · simp [h, g, Tab.find]
      · simp [h, g, Tab.find, ih]

theorem Tab.find_set_other (a : α) {k n : Nat} (h : n ≠ k) (t : Tab α) : Tab.find n (Tab.set k a t) = Tab.find n t := by
  induction t with
  | nil => simp [Tab.set, Tab.find, Ne.symm h]
  | cons p t ih =>
    obtain ⟨j, b⟩ := p
    unfold Tab.set
    by_cases e : j = k
    · subst e
      simp [Tab.find, Ne.symm h]
    · by_cases g : k < j
      · simp [e, g, Tab.find, Ne.symm h]
      · simp [e, g, Tab.find, ih]

/-- A table that lists a key reads what it lists. -/
theorem Tab.get_of_find (d a : α) (k : Nat) (t : Tab α) (h : Tab.find k t = some a) : Tab.get d k t = a := by
  induction t with
  | nil => simp [Tab.find] at h
  | cons p t ih =>
    obtain ⟨j, b⟩ := p
    by_cases e : j = k
    · simp [Tab.find, e] at h
      simp [Tab.get, e, h]
    · simp [Tab.find, e] at h
      simp [Tab.get, e, ih h]

/-- Every value of a table changed, where the change keeps the default. -/
theorem Tab.get_mapVals (d : α) (f : Nat → α → α) (k : Nat) (t : Tab α) (h : f k d = d) :
    Tab.get d k (Tab.mapVals f t) = f k (Tab.get d k t) := by
  induction t with
  | nil => simp [Tab.mapVals, Tab.get, h]
  | cons p t ih =>
    obtain ⟨j, b⟩ := p
    by_cases e : j = k
    · simp [Tab.mapVals, Tab.get, e]
    · simpa [Tab.mapVals, Tab.get, e] using ih

@[simp] theorem setNth_length (a : α) (i : Nat) (l : List α) : (setNth a i l).length = l.length := by
  induction l generalizing i with
  | nil => simp [setNth]
  | cons b t ih => cases i <;> simp [setNth, ih]

theorem setNth_get_same (a : α) (i : Nat) (l : List α) (h : i < l.length) : (setNth a i l)[i]? = some a := by
  induction l generalizing i with
  | nil => simp at h
  | cons b t ih =>
    cases i with
    | zero => simp [setNth]
    | succ i => simpa [setNth] using ih i (by simpa using h)

theorem setNth_get_other (a : α) {i j : Nat} (n : j ≠ i) (l : List α) : (setNth a i l)[j]? = l[j]? := by
  induction l generalizing i j with
  | nil => simp [setNth]
  | cons b t ih =>
    cases i with
    | zero => cases j with
      | zero => exact absurd rfl n
      | succ j => simp [setNth]
    | succ i => cases j with
      | zero => simp [setNth]
      | succ j => simpa [setNth] using ih (by omega)

theorem setNth_self (a : α) (i : Nat) (l : List α) (h : l[i]? = some a) : setNth a i l = l := by
  induction l generalizing i with
  | nil => simp [setNth]
  | cons b t ih =>
    cases i with
    | zero => simp at h; simp [setNth, h]
    | succ i => simp at h; simp [setNth, ih i h]

theorem setNth_setNth (a b : α) (i : Nat) (l : List α) : setNth a i (setNth b i l) = setNth a i l := by
  induction l generalizing i with
  | nil => simp [setNth]
  | cons c t ih => cases i <;> simp [setNth, ih]

end Sys2Proof
end

