-- ==== Sys2Proof/Laws/State.lean ====
section
/-!
SUPPORT. What the updates of State change and what they leave: one lemma for each field and update, and reading a table after a change of it.
-/

namespace Sys2Proof.Machine

@[simp] theorem State.setCore_gangs (s : State) (p : Nat) (c : Core) : (s.setCore p c).gangs = s.gangs := rfl
@[simp] theorem State.setCore_quays (s : State) (p : Nat) (c : Core) : (s.setCore p c).quays = s.quays := rfl
@[simp] theorem State.setCore_dies (s : State) (p : Nat) (c : Core) : (s.setCore p c).dies = s.dies := rfl
@[simp] theorem State.setCore_pkgMerge (s : State) (p : Nat) (c : Core) : (s.setCore p c).pkgMerge = s.pkgMerge := rfl
@[simp] theorem State.setCore_ca (s : State) (p : Nat) (c : Core) : (s.setCore p c).ca = s.ca := rfl
@[simp] theorem State.setCore_ctxs (s : State) (p : Nat) (c : Core) : (s.setCore p c).ctxs = s.ctxs := rfl
@[simp] theorem State.setCore_slates (s : State) (p : Nat) (c : Core) : (s.setCore p c).slates = s.slates := rfl
@[simp] theorem State.setCore_launches (s : State) (p : Nat) (c : Core) : (s.setCore p c).launches = s.launches := rfl
@[simp] theorem State.setCore_nextLaunch (s : State) (p : Nat) (c : Core) : (s.setCore p c).nextLaunch = s.nextLaunch := rfl
@[simp] theorem State.setCore_queues (s : State) (p : Nat) (c : Core) : (s.setCore p c).queues = s.queues := rfl
@[simp] theorem State.setCore_jobs (s : State) (p : Nat) (c : Core) : (s.setCore p c).jobs = s.jobs := rfl
@[simp] theorem State.setCore_mem (s : State) (p : Nat) (c : Core) : (s.setCore p c).mem = s.mem := rfl
@[simp] theorem State.setCore_poison (s : State) (p : Nat) (c : Core) : (s.setCore p c).poison = s.poison := rfl
@[simp] theorem State.setCore_tags (s : State) (p : Nat) (c : Core) : (s.setCore p c).tags = s.tags := rfl
@[simp] theorem State.setCore_net (s : State) (p : Nat) (c : Core) : (s.setCore p c).net = s.net := rfl
@[simp] theorem State.setCore_markers (s : State) (p : Nat) (c : Core) : (s.setCore p c).markers = s.markers := rfl
@[simp] theorem State.setCore_fw (s : State) (p : Nat) (c : Core) : (s.setCore p c).fw = s.fw := rfl
@[simp] theorem State.setCore_msix (s : State) (p : Nat) (c : Core) : (s.setCore p c).msix = s.msix := rfl
@[simp] theorem State.setCore_aer (s : State) (p : Nat) (c : Core) : (s.setCore p c).aer = s.aer := rfl
@[simp] theorem State.setCore_pri (s : State) (p : Nat) (c : Core) : (s.setCore p c).pri = s.pri := rfl
@[simp] theorem State.setCore_cycle (s : State) (p : Nat) (c : Core) : (s.setCore p c).cycle = s.cycle := rfl
@[simp] theorem State.setCore_time (s : State) (p : Nat) (c : Core) : (s.setCore p c).time = s.time := rfl
@[simp] theorem State.setCore_latent (s : State) (p : Nat) (c : Core) : (s.setCore p c).latent = s.latent := rfl
@[simp] theorem State.setCore_cur (s : State) (p : Nat) (c : Core) : (s.setCore p c).cur = s.cur := rfl
@[simp] theorem State.setCore_schedule (s : State) (p : Nat) (c : Core) : (s.setCore p c).schedule = s.schedule := rfl
@[simp] theorem State.setCore_prompt (s : State) (p : Nat) (c : Core) : (s.setCore p c).prompt = s.prompt := rfl
@[simp] theorem State.setCore_frees (s : State) (p : Nat) (c : Core) : (s.setCore p c).frees = s.frees := rfl
@[simp] theorem State.setCore_serial (s : State) (p : Nat) (c : Core) : (s.setCore p c).serial = s.serial := rfl
@[simp] theorem State.setCore_fatal (s : State) (p : Nat) (c : Core) : (s.setCore p c).fatal = s.fatal := rfl
@[simp] theorem State.setCore_recent (s : State) (p : Nat) (c : Core) : (s.setCore p c).recent = s.recent := rfl

@[simp] theorem State.updCore_gangs (s : State) (p : Nat) (f : Core → Core) : (s.updCore p f).gangs = s.gangs := rfl
@[simp] theorem State.updCore_quays (s : State) (p : Nat) (f : Core → Core) : (s.updCore p f).quays = s.quays := rfl
@[simp] theorem State.updCore_dies (s : State) (p : Nat) (f : Core → Core) : (s.updCore p f).dies = s.dies := rfl
@[simp] theorem State.updCore_pkgMerge (s : State) (p : Nat) (f : Core → Core) : (s.updCore p f).pkgMerge = s.pkgMerge := rfl
@[simp] theorem State.updCore_ca (s : State) (p : Nat) (f : Core → Core) : (s.updCore p f).ca = s.ca := rfl
@[simp] theorem State.updCore_ctxs (s : State) (p : Nat) (f : Core → Core) : (s.updCore p f).ctxs = s.ctxs := rfl
@[simp] theorem State.updCore_slates (s : State) (p : Nat) (f : Core → Core) : (s.updCore p f).slates = s.slates := rfl
@[simp] theorem State.updCore_launches (s : State) (p : Nat) (f : Core → Core) : (s.updCore p f).launches = s.launches := rfl
@[simp] theorem State.updCore_nextLaunch (s : State) (p : Nat) (f : Core → Core) : (s.updCore p f).nextLaunch = s.nextLaunch := rfl
@[simp] theorem State.updCore_queues (s : State) (p : Nat) (f : Core → Core) : (s.updCore p f).queues = s.queues := rfl
@[simp] theorem State.updCore_jobs (s : State) (p : Nat) (f : Core → Core) : (s.updCore p f).jobs = s.jobs := rfl
@[simp] theorem State.updCore_mem (s : State) (p : Nat) (f : Core → Core) : (s.updCore p f).mem = s.mem := rfl
@[simp] theorem State.updCore_poison (s : State) (p : Nat) (f : Core → Core) : (s.updCore p f).poison = s.poison := rfl
@[simp] theorem State.updCore_tags (s : State) (p : Nat) (f : Core → Core) : (s.updCore p f).tags = s.tags := rfl
@[simp] theorem State.updCore_net (s : State) (p : Nat) (f : Core → Core) : (s.updCore p f).net = s.net := rfl
@[simp] theorem State.updCore_markers (s : State) (p : Nat) (f : Core → Core) : (s.updCore p f).markers = s.markers := rfl
@[simp] theorem State.updCore_fw (s : State) (p : Nat) (f : Core → Core) : (s.updCore p f).fw = s.fw := rfl
@[simp] theorem State.updCore_msix (s : State) (p : Nat) (f : Core → Core) : (s.updCore p f).msix = s.msix := rfl
@[simp] theorem State.updCore_aer (s : State) (p : Nat) (f : Core → Core) : (s.updCore p f).aer = s.aer := rfl
@[simp] theorem State.updCore_pri (s : State) (p : Nat) (f : Core → Core) : (s.updCore p f).pri = s.pri := rfl
@[simp] theorem State.updCore_cycle (s : State) (p : Nat) (f : Core → Core) : (s.updCore p f).cycle = s.cycle := rfl
@[simp] theorem State.updCore_time (s : State) (p : Nat) (f : Core → Core) : (s.updCore p f).time = s.time := rfl
@[simp] theorem State.updCore_latent (s : State) (p : Nat) (f : Core → Core) : (s.updCore p f).latent = s.latent := rfl
@[simp] theorem State.updCore_cur (s : State) (p : Nat) (f : Core → Core) : (s.updCore p f).cur = s.cur := rfl
@[simp] theorem State.updCore_schedule (s : State) (p : Nat) (f : Core → Core) : (s.updCore p f).schedule = s.schedule := rfl
@[simp] theorem State.updCore_prompt (s : State) (p : Nat) (f : Core → Core) : (s.updCore p f).prompt = s.prompt := rfl
@[simp] theorem State.updCore_frees (s : State) (p : Nat) (f : Core → Core) : (s.updCore p f).frees = s.frees := rfl
@[simp] theorem State.updCore_serial (s : State) (p : Nat) (f : Core → Core) : (s.updCore p f).serial = s.serial := rfl
@[simp] theorem State.updCore_fatal (s : State) (p : Nat) (f : Core → Core) : (s.updCore p f).fatal = s.fatal := rfl
@[simp] theorem State.updCore_recent (s : State) (p : Nat) (f : Core → Core) : (s.updCore p f).recent = s.recent := rfl

@[simp] theorem State.updGang_cores (s : State) (g : Nat) (f : Gang → Gang) : (s.updGang g f).cores = s.cores := rfl
@[simp] theorem State.updGang_quays (s : State) (g : Nat) (f : Gang → Gang) : (s.updGang g f).quays = s.quays := rfl
@[simp] theorem State.updGang_dies (s : State) (g : Nat) (f : Gang → Gang) : (s.updGang g f).dies = s.dies := rfl
@[simp] theorem State.updGang_pkgMerge (s : State) (g : Nat) (f : Gang → Gang) : (s.updGang g f).pkgMerge = s.pkgMerge := rfl
@[simp] theorem State.updGang_ca (s : State) (g : Nat) (f : Gang → Gang) : (s.updGang g f).ca = s.ca := rfl
@[simp] theorem State.updGang_ctxs (s : State) (g : Nat) (f : Gang → Gang) : (s.updGang g f).ctxs = s.ctxs := rfl
@[simp] theorem State.updGang_slates (s : State) (g : Nat) (f : Gang → Gang) : (s.updGang g f).slates = s.slates := rfl
@[simp] theorem State.updGang_launches (s : State) (g : Nat) (f : Gang → Gang) : (s.updGang g f).launches = s.launches := rfl
@[simp] theorem State.updGang_nextLaunch (s : State) (g : Nat) (f : Gang → Gang) : (s.updGang g f).nextLaunch = s.nextLaunch := rfl
@[simp] theorem State.updGang_queues (s : State) (g : Nat) (f : Gang → Gang) : (s.updGang g f).queues = s.queues := rfl
@[simp] theorem State.updGang_jobs (s : State) (g : Nat) (f : Gang → Gang) : (s.updGang g f).jobs = s.jobs := rfl
@[simp] theorem State.updGang_mem (s : State) (g : Nat) (f : Gang → Gang) : (s.updGang g f).mem = s.mem := rfl
@[simp] theorem State.updGang_poison (s : State) (g : Nat) (f : Gang → Gang) : (s.updGang g f).poison = s.poison := rfl
@[simp] theorem State.updGang_tags (s : State) (g : Nat) (f : Gang → Gang) : (s.updGang g f).tags = s.tags := rfl
@[simp] theorem State.updGang_net (s : State) (g : Nat) (f : Gang → Gang) : (s.updGang g f).net = s.net := rfl
@[simp] theorem State.updGang_markers (s : State) (g : Nat) (f : Gang → Gang) : (s.updGang g f).markers = s.markers := rfl
@[simp] theorem State.updGang_fw (s : State) (g : Nat) (f : Gang → Gang) : (s.updGang g f).fw = s.fw := rfl
@[simp] theorem State.updGang_msix (s : State) (g : Nat) (f : Gang → Gang) : (s.updGang g f).msix = s.msix := rfl
@[simp] theorem State.updGang_aer (s : State) (g : Nat) (f : Gang → Gang) : (s.updGang g f).aer = s.aer := rfl
@[simp] theorem State.updGang_pri (s : State) (g : Nat) (f : Gang → Gang) : (s.updGang g f).pri = s.pri := rfl
@[simp] theorem State.updGang_cycle (s : State) (g : Nat) (f : Gang → Gang) : (s.updGang g f).cycle = s.cycle := rfl
@[simp] theorem State.updGang_time (s : State) (g : Nat) (f : Gang → Gang) : (s.updGang g f).time = s.time := rfl
@[simp] theorem State.updGang_latent (s : State) (g : Nat) (f : Gang → Gang) : (s.updGang g f).latent = s.latent := rfl
@[simp] theorem State.updGang_cur (s : State) (g : Nat) (f : Gang → Gang) : (s.updGang g f).cur = s.cur := rfl
@[simp] theorem State.updGang_schedule (s : State) (g : Nat) (f : Gang → Gang) : (s.updGang g f).schedule = s.schedule := rfl
@[simp] theorem State.updGang_prompt (s : State) (g : Nat) (f : Gang → Gang) : (s.updGang g f).prompt = s.prompt := rfl
@[simp] theorem State.updGang_frees (s : State) (g : Nat) (f : Gang → Gang) : (s.updGang g f).frees = s.frees := rfl
@[simp] theorem State.updGang_serial (s : State) (g : Nat) (f : Gang → Gang) : (s.updGang g f).serial = s.serial := rfl
@[simp] theorem State.updGang_fatal (s : State) (g : Nat) (f : Gang → Gang) : (s.updGang g f).fatal = s.fatal := rfl
@[simp] theorem State.updGang_recent (s : State) (g : Nat) (f : Gang → Gang) : (s.updGang g f).recent = s.recent := rfl

@[simp] theorem State.updQuay_cores (s : State) (q : Nat) (f : Quay → Quay) : (s.updQuay q f).cores = s.cores := rfl
@[simp] theorem State.updQuay_gangs (s : State) (q : Nat) (f : Quay → Quay) : (s.updQuay q f).gangs = s.gangs := rfl
@[simp] theorem State.updQuay_dies (s : State) (q : Nat) (f : Quay → Quay) : (s.updQuay q f).dies = s.dies := rfl
@[simp] theorem State.updQuay_pkgMerge (s : State) (q : Nat) (f : Quay → Quay) : (s.updQuay q f).pkgMerge = s.pkgMerge := rfl
@[simp] theorem State.updQuay_ca (s : State) (q : Nat) (f : Quay → Quay) : (s.updQuay q f).ca = s.ca := rfl
@[simp] theorem State.updQuay_ctxs (s : State) (q : Nat) (f : Quay → Quay) : (s.updQuay q f).ctxs = s.ctxs := rfl
@[simp] theorem State.updQuay_slates (s : State) (q : Nat) (f : Quay → Quay) : (s.updQuay q f).slates = s.slates := rfl
@[simp] theorem State.updQuay_launches (s : State) (q : Nat) (f : Quay → Quay) : (s.updQuay q f).launches = s.launches := rfl
@[simp] theorem State.updQuay_nextLaunch (s : State) (q : Nat) (f : Quay → Quay) : (s.updQuay q f).nextLaunch = s.nextLaunch := rfl
@[simp] theorem State.updQuay_queues (s : State) (q : Nat) (f : Quay → Quay) : (s.updQuay q f).queues = s.queues := rfl
@[simp] theorem State.updQuay_jobs (s : State) (q : Nat) (f : Quay → Quay) : (s.updQuay q f).jobs = s.jobs := rfl
@[simp] theorem State.updQuay_mem (s : State) (q : Nat) (f : Quay → Quay) : (s.updQuay q f).mem = s.mem := rfl
@[simp] theorem State.updQuay_poison (s : State) (q : Nat) (f : Quay → Quay) : (s.updQuay q f).poison = s.poison := rfl
@[simp] theorem State.updQuay_tags (s : State) (q : Nat) (f : Quay → Quay) : (s.updQuay q f).tags = s.tags := rfl
@[simp] theorem State.updQuay_net (s : State) (q : Nat) (f : Quay → Quay) : (s.updQuay q f).net = s.net := rfl
@[simp] theorem State.updQuay_markers (s : State) (q : Nat) (f : Quay → Quay) : (s.updQuay q f).markers = s.markers := rfl
@[simp] theorem State.updQuay_fw (s : State) (q : Nat) (f : Quay → Quay) : (s.updQuay q f).fw = s.fw := rfl
@[simp] theorem State.updQuay_msix (s : State) (q : Nat) (f : Quay → Quay) : (s.updQuay q f).msix = s.msix := rfl
@[simp] theorem State.updQuay_aer (s : State) (q : Nat) (f : Quay → Quay) : (s.updQuay q f).aer = s.aer := rfl
@[simp] theorem State.updQuay_pri (s : State) (q : Nat) (f : Quay → Quay) : (s.updQuay q f).pri = s.pri := rfl
@[simp] theorem State.updQuay_cycle (s : State) (q : Nat) (f : Quay → Quay) : (s.updQuay q f).cycle = s.cycle := rfl
@[simp] theorem State.updQuay_time (s : State) (q : Nat) (f : Quay → Quay) : (s.updQuay q f).time = s.time := rfl
@[simp] theorem State.updQuay_latent (s : State) (q : Nat) (f : Quay → Quay) : (s.updQuay q f).latent = s.latent := rfl
@[simp] theorem State.updQuay_cur (s : State) (q : Nat) (f : Quay → Quay) : (s.updQuay q f).cur = s.cur := rfl
@[simp] theorem State.updQuay_schedule (s : State) (q : Nat) (f : Quay → Quay) : (s.updQuay q f).schedule = s.schedule := rfl
@[simp] theorem State.updQuay_prompt (s : State) (q : Nat) (f : Quay → Quay) : (s.updQuay q f).prompt = s.prompt := rfl
@[simp] theorem State.updQuay_frees (s : State) (q : Nat) (f : Quay → Quay) : (s.updQuay q f).frees = s.frees := rfl
@[simp] theorem State.updQuay_serial (s : State) (q : Nat) (f : Quay → Quay) : (s.updQuay q f).serial = s.serial := rfl
@[simp] theorem State.updQuay_fatal (s : State) (q : Nat) (f : Quay → Quay) : (s.updQuay q f).fatal = s.fatal := rfl
@[simp] theorem State.updQuay_recent (s : State) (q : Nat) (f : Quay → Quay) : (s.updQuay q f).recent = s.recent := rfl

@[simp] theorem State.updDie_cores (s : State) (d : Nat) (f : Die → Die) : (s.updDie d f).cores = s.cores := rfl
@[simp] theorem State.updDie_gangs (s : State) (d : Nat) (f : Die → Die) : (s.updDie d f).gangs = s.gangs := rfl
@[simp] theorem State.updDie_quays (s : State) (d : Nat) (f : Die → Die) : (s.updDie d f).quays = s.quays := rfl
@[simp] theorem State.updDie_pkgMerge (s : State) (d : Nat) (f : Die → Die) : (s.updDie d f).pkgMerge = s.pkgMerge := rfl
@[simp] theorem State.updDie_ca (s : State) (d : Nat) (f : Die → Die) : (s.updDie d f).ca = s.ca := rfl
@[simp] theorem State.updDie_ctxs (s : State) (d : Nat) (f : Die → Die) : (s.updDie d f).ctxs = s.ctxs := rfl
@[simp] theorem State.updDie_slates (s : State) (d : Nat) (f : Die → Die) : (s.updDie d f).slates = s.slates := rfl
@[simp] theorem State.updDie_launches (s : State) (d : Nat) (f : Die → Die) : (s.updDie d f).launches = s.launches := rfl
@[simp] theorem State.updDie_nextLaunch (s : State) (d : Nat) (f : Die → Die) : (s.updDie d f).nextLaunch = s.nextLaunch := rfl
@[simp] theorem State.updDie_queues (s : State) (d : Nat) (f : Die → Die) : (s.updDie d f).queues = s.queues := rfl
@[simp] theorem State.updDie_jobs (s : State) (d : Nat) (f : Die → Die) : (s.updDie d f).jobs = s.jobs := rfl
@[simp] theorem State.updDie_mem (s : State) (d : Nat) (f : Die → Die) : (s.updDie d f).mem = s.mem := rfl
@[simp] theorem State.updDie_poison (s : State) (d : Nat) (f : Die → Die) : (s.updDie d f).poison = s.poison := rfl
@[simp] theorem State.updDie_tags (s : State) (d : Nat) (f : Die → Die) : (s.updDie d f).tags = s.tags := rfl
@[simp] theorem State.updDie_net (s : State) (d : Nat) (f : Die → Die) : (s.updDie d f).net = s.net := rfl
@[simp] theorem State.updDie_markers (s : State) (d : Nat) (f : Die → Die) : (s.updDie d f).markers = s.markers := rfl
@[simp] theorem State.updDie_fw (s : State) (d : Nat) (f : Die → Die) : (s.updDie d f).fw = s.fw := rfl
@[simp] theorem State.updDie_msix (s : State) (d : Nat) (f : Die → Die) : (s.updDie d f).msix = s.msix := rfl
@[simp] theorem State.updDie_aer (s : State) (d : Nat) (f : Die → Die) : (s.updDie d f).aer = s.aer := rfl
@[simp] theorem State.updDie_pri (s : State) (d : Nat) (f : Die → Die) : (s.updDie d f).pri = s.pri := rfl
@[simp] theorem State.updDie_cycle (s : State) (d : Nat) (f : Die → Die) : (s.updDie d f).cycle = s.cycle := rfl
@[simp] theorem State.updDie_time (s : State) (d : Nat) (f : Die → Die) : (s.updDie d f).time = s.time := rfl
@[simp] theorem State.updDie_latent (s : State) (d : Nat) (f : Die → Die) : (s.updDie d f).latent = s.latent := rfl
@[simp] theorem State.updDie_cur (s : State) (d : Nat) (f : Die → Die) : (s.updDie d f).cur = s.cur := rfl
@[simp] theorem State.updDie_schedule (s : State) (d : Nat) (f : Die → Die) : (s.updDie d f).schedule = s.schedule := rfl
@[simp] theorem State.updDie_prompt (s : State) (d : Nat) (f : Die → Die) : (s.updDie d f).prompt = s.prompt := rfl
@[simp] theorem State.updDie_frees (s : State) (d : Nat) (f : Die → Die) : (s.updDie d f).frees = s.frees := rfl
@[simp] theorem State.updDie_serial (s : State) (d : Nat) (f : Die → Die) : (s.updDie d f).serial = s.serial := rfl
@[simp] theorem State.updDie_fatal (s : State) (d : Nat) (f : Die → Die) : (s.updDie d f).fatal = s.fatal := rfl
@[simp] theorem State.updDie_recent (s : State) (d : Nat) (f : Die → Die) : (s.updDie d f).recent = s.recent := rfl

@[simp] theorem State.updCtx_cores (s : State) (c : Nat) (f : Context → Context) : (s.updCtx c f).cores = s.cores := rfl
@[simp] theorem State.updCtx_gangs (s : State) (c : Nat) (f : Context → Context) : (s.updCtx c f).gangs = s.gangs := rfl
@[simp] theorem State.updCtx_quays (s : State) (c : Nat) (f : Context → Context) : (s.updCtx c f).quays = s.quays := rfl
@[simp] theorem State.updCtx_dies (s : State) (c : Nat) (f : Context → Context) : (s.updCtx c f).dies = s.dies := rfl
@[simp] theorem State.updCtx_pkgMerge (s : State) (c : Nat) (f : Context → Context) : (s.updCtx c f).pkgMerge = s.pkgMerge := rfl
@[simp] theorem State.updCtx_ca (s : State) (c : Nat) (f : Context → Context) : (s.updCtx c f).ca = s.ca := rfl
@[simp] theorem State.updCtx_slates (s : State) (c : Nat) (f : Context → Context) : (s.updCtx c f).slates = s.slates := rfl
@[simp] theorem State.updCtx_launches (s : State) (c : Nat) (f : Context → Context) : (s.updCtx c f).launches = s.launches := rfl
@[simp] theorem State.updCtx_nextLaunch (s : State) (c : Nat) (f : Context → Context) : (s.updCtx c f).nextLaunch = s.nextLaunch := rfl
@[simp] theorem State.updCtx_queues (s : State) (c : Nat) (f : Context → Context) : (s.updCtx c f).queues = s.queues := rfl
@[simp] theorem State.updCtx_jobs (s : State) (c : Nat) (f : Context → Context) : (s.updCtx c f).jobs = s.jobs := rfl
@[simp] theorem State.updCtx_mem (s : State) (c : Nat) (f : Context → Context) : (s.updCtx c f).mem = s.mem := rfl
@[simp] theorem State.updCtx_poison (s : State) (c : Nat) (f : Context → Context) : (s.updCtx c f).poison = s.poison := rfl
@[simp] theorem State.updCtx_tags (s : State) (c : Nat) (f : Context → Context) : (s.updCtx c f).tags = s.tags := rfl
@[simp] theorem State.updCtx_net (s : State) (c : Nat) (f : Context → Context) : (s.updCtx c f).net = s.net := rfl
@[simp] theorem State.updCtx_markers (s : State) (c : Nat) (f : Context → Context) : (s.updCtx c f).markers = s.markers := rfl
@[simp] theorem State.updCtx_fw (s : State) (c : Nat) (f : Context → Context) : (s.updCtx c f).fw = s.fw := rfl
@[simp] theorem State.updCtx_msix (s : State) (c : Nat) (f : Context → Context) : (s.updCtx c f).msix = s.msix := rfl
@[simp] theorem State.updCtx_aer (s : State) (c : Nat) (f : Context → Context) : (s.updCtx c f).aer = s.aer := rfl
@[simp] theorem State.updCtx_pri (s : State) (c : Nat) (f : Context → Context) : (s.updCtx c f).pri = s.pri := rfl
@[simp] theorem State.updCtx_cycle (s : State) (c : Nat) (f : Context → Context) : (s.updCtx c f).cycle = s.cycle := rfl
@[simp] theorem State.updCtx_time (s : State) (c : Nat) (f : Context → Context) : (s.updCtx c f).time = s.time := rfl
@[simp] theorem State.updCtx_latent (s : State) (c : Nat) (f : Context → Context) : (s.updCtx c f).latent = s.latent := rfl
@[simp] theorem State.updCtx_cur (s : State) (c : Nat) (f : Context → Context) : (s.updCtx c f).cur = s.cur := rfl
@[simp] theorem State.updCtx_schedule (s : State) (c : Nat) (f : Context → Context) : (s.updCtx c f).schedule = s.schedule := rfl
@[simp] theorem State.updCtx_prompt (s : State) (c : Nat) (f : Context → Context) : (s.updCtx c f).prompt = s.prompt := rfl
@[simp] theorem State.updCtx_frees (s : State) (c : Nat) (f : Context → Context) : (s.updCtx c f).frees = s.frees := rfl
@[simp] theorem State.updCtx_serial (s : State) (c : Nat) (f : Context → Context) : (s.updCtx c f).serial = s.serial := rfl
@[simp] theorem State.updCtx_fatal (s : State) (c : Nat) (f : Context → Context) : (s.updCtx c f).fatal = s.fatal := rfl
@[simp] theorem State.updCtx_recent (s : State) (c : Nat) (f : Context → Context) : (s.updCtx c f).recent = s.recent := rfl

@[simp] theorem State.updSlate_cores (s : State) (i : Nat) (f : Slate → Slate) : (s.updSlate i f).cores = s.cores := rfl
@[simp] theorem State.updSlate_gangs (s : State) (i : Nat) (f : Slate → Slate) : (s.updSlate i f).gangs = s.gangs := rfl
@[simp] theorem State.updSlate_quays (s : State) (i : Nat) (f : Slate → Slate) : (s.updSlate i f).quays = s.quays := rfl
@[simp] theorem State.updSlate_dies (s : State) (i : Nat) (f : Slate → Slate) : (s.updSlate i f).dies = s.dies := rfl
@[simp] theorem State.updSlate_pkgMerge (s : State) (i : Nat) (f : Slate → Slate) : (s.updSlate i f).pkgMerge = s.pkgMerge := rfl
@[simp] theorem State.updSlate_ca (s : State) (i : Nat) (f : Slate → Slate) : (s.updSlate i f).ca = s.ca := rfl
@[simp] theorem State.updSlate_ctxs (s : State) (i : Nat) (f : Slate → Slate) : (s.updSlate i f).ctxs = s.ctxs := rfl
@[simp] theorem State.updSlate_launches (s : State) (i : Nat) (f : Slate → Slate) : (s.updSlate i f).launches = s.launches := rfl
@[simp] theorem State.updSlate_nextLaunch (s : State) (i : Nat) (f : Slate → Slate) : (s.updSlate i f).nextLaunch = s.nextLaunch := rfl
@[simp] theorem State.updSlate_queues (s : State) (i : Nat) (f : Slate → Slate) : (s.updSlate i f).queues = s.queues := rfl
@[simp] theorem State.updSlate_jobs (s : State) (i : Nat) (f : Slate → Slate) : (s.updSlate i f).jobs = s.jobs := rfl
@[simp] theorem State.updSlate_mem (s : State) (i : Nat) (f : Slate → Slate) : (s.updSlate i f).mem = s.mem := rfl
@[simp] theorem State.updSlate_poison (s : State) (i : Nat) (f : Slate → Slate) : (s.updSlate i f).poison = s.poison := rfl
@[simp] theorem State.updSlate_tags (s : State) (i : Nat) (f : Slate → Slate) : (s.updSlate i f).tags = s.tags := rfl
@[simp] theorem State.updSlate_net (s : State) (i : Nat) (f : Slate → Slate) : (s.updSlate i f).net = s.net := rfl
@[simp] theorem State.updSlate_markers (s : State) (i : Nat) (f : Slate → Slate) : (s.updSlate i f).markers = s.markers := rfl
@[simp] theorem State.updSlate_fw (s : State) (i : Nat) (f : Slate → Slate) : (s.updSlate i f).fw = s.fw := rfl
@[simp] theorem State.updSlate_msix (s : State) (i : Nat) (f : Slate → Slate) : (s.updSlate i f).msix = s.msix := rfl
@[simp] theorem State.updSlate_aer (s : State) (i : Nat) (f : Slate → Slate) : (s.updSlate i f).aer = s.aer := rfl
@[simp] theorem State.updSlate_pri (s : State) (i : Nat) (f : Slate → Slate) : (s.updSlate i f).pri = s.pri := rfl
@[simp] theorem State.updSlate_cycle (s : State) (i : Nat) (f : Slate → Slate) : (s.updSlate i f).cycle = s.cycle := rfl
@[simp] theorem State.updSlate_time (s : State) (i : Nat) (f : Slate → Slate) : (s.updSlate i f).time = s.time := rfl
@[simp] theorem State.updSlate_latent (s : State) (i : Nat) (f : Slate → Slate) : (s.updSlate i f).latent = s.latent := rfl
@[simp] theorem State.updSlate_cur (s : State) (i : Nat) (f : Slate → Slate) : (s.updSlate i f).cur = s.cur := rfl
@[simp] theorem State.updSlate_schedule (s : State) (i : Nat) (f : Slate → Slate) : (s.updSlate i f).schedule = s.schedule := rfl
@[simp] theorem State.updSlate_prompt (s : State) (i : Nat) (f : Slate → Slate) : (s.updSlate i f).prompt = s.prompt := rfl
@[simp] theorem State.updSlate_frees (s : State) (i : Nat) (f : Slate → Slate) : (s.updSlate i f).frees = s.frees := rfl
@[simp] theorem State.updSlate_serial (s : State) (i : Nat) (f : Slate → Slate) : (s.updSlate i f).serial = s.serial := rfl
@[simp] theorem State.updSlate_fatal (s : State) (i : Nat) (f : Slate → Slate) : (s.updSlate i f).fatal = s.fatal := rfl
@[simp] theorem State.updSlate_recent (s : State) (i : Nat) (f : Slate → Slate) : (s.updSlate i f).recent = s.recent := rfl

@[simp] theorem State.updQueue_cores (s : State) (q : Nat) (f : WorkQueue → WorkQueue) : (s.updQueue q f).cores = s.cores := rfl
@[simp] theorem State.updQueue_gangs (s : State) (q : Nat) (f : WorkQueue → WorkQueue) : (s.updQueue q f).gangs = s.gangs := rfl
@[simp] theorem State.updQueue_quays (s : State) (q : Nat) (f : WorkQueue → WorkQueue) : (s.updQueue q f).quays = s.quays := rfl
@[simp] theorem State.updQueue_dies (s : State) (q : Nat) (f : WorkQueue → WorkQueue) : (s.updQueue q f).dies = s.dies := rfl
@[simp] theorem State.updQueue_pkgMerge (s : State) (q : Nat) (f : WorkQueue → WorkQueue) : (s.updQueue q f).pkgMerge = s.pkgMerge := rfl
@[simp] theorem State.updQueue_ca (s : State) (q : Nat) (f : WorkQueue → WorkQueue) : (s.updQueue q f).ca = s.ca := rfl
@[simp] theorem State.updQueue_ctxs (s : State) (q : Nat) (f : WorkQueue → WorkQueue) : (s.updQueue q f).ctxs = s.ctxs := rfl
@[simp] theorem State.updQueue_slates (s : State) (q : Nat) (f : WorkQueue → WorkQueue) : (s.updQueue q f).slates = s.slates := rfl
@[simp] theorem State.updQueue_launches (s : State) (q : Nat) (f : WorkQueue → WorkQueue) : (s.updQueue q f).launches = s.launches := rfl
@[simp] theorem State.updQueue_nextLaunch (s : State) (q : Nat) (f : WorkQueue → WorkQueue) : (s.updQueue q f).nextLaunch = s.nextLaunch := rfl
@[simp] theorem State.updQueue_jobs (s : State) (q : Nat) (f : WorkQueue → WorkQueue) : (s.updQueue q f).jobs = s.jobs := rfl
@[simp] theorem State.updQueue_mem (s : State) (q : Nat) (f : WorkQueue → WorkQueue) : (s.updQueue q f).mem = s.mem := rfl
@[simp] theorem State.updQueue_poison (s : State) (q : Nat) (f : WorkQueue → WorkQueue) : (s.updQueue q f).poison = s.poison := rfl
@[simp] theorem State.updQueue_tags (s : State) (q : Nat) (f : WorkQueue → WorkQueue) : (s.updQueue q f).tags = s.tags := rfl
@[simp] theorem State.updQueue_net (s : State) (q : Nat) (f : WorkQueue → WorkQueue) : (s.updQueue q f).net = s.net := rfl
@[simp] theorem State.updQueue_markers (s : State) (q : Nat) (f : WorkQueue → WorkQueue) : (s.updQueue q f).markers = s.markers := rfl
@[simp] theorem State.updQueue_fw (s : State) (q : Nat) (f : WorkQueue → WorkQueue) : (s.updQueue q f).fw = s.fw := rfl
@[simp] theorem State.updQueue_msix (s : State) (q : Nat) (f : WorkQueue → WorkQueue) : (s.updQueue q f).msix = s.msix := rfl
@[simp] theorem State.updQueue_aer (s : State) (q : Nat) (f : WorkQueue → WorkQueue) : (s.updQueue q f).aer = s.aer := rfl
@[simp] theorem State.updQueue_pri (s : State) (q : Nat) (f : WorkQueue → WorkQueue) : (s.updQueue q f).pri = s.pri := rfl
@[simp] theorem State.updQueue_cycle (s : State) (q : Nat) (f : WorkQueue → WorkQueue) : (s.updQueue q f).cycle = s.cycle := rfl
@[simp] theorem State.updQueue_time (s : State) (q : Nat) (f : WorkQueue → WorkQueue) : (s.updQueue q f).time = s.time := rfl
@[simp] theorem State.updQueue_latent (s : State) (q : Nat) (f : WorkQueue → WorkQueue) : (s.updQueue q f).latent = s.latent := rfl
@[simp] theorem State.updQueue_cur (s : State) (q : Nat) (f : WorkQueue → WorkQueue) : (s.updQueue q f).cur = s.cur := rfl
@[simp] theorem State.updQueue_schedule (s : State) (q : Nat) (f : WorkQueue → WorkQueue) : (s.updQueue q f).schedule = s.schedule := rfl
@[simp] theorem State.updQueue_prompt (s : State) (q : Nat) (f : WorkQueue → WorkQueue) : (s.updQueue q f).prompt = s.prompt := rfl
@[simp] theorem State.updQueue_frees (s : State) (q : Nat) (f : WorkQueue → WorkQueue) : (s.updQueue q f).frees = s.frees := rfl
@[simp] theorem State.updQueue_serial (s : State) (q : Nat) (f : WorkQueue → WorkQueue) : (s.updQueue q f).serial = s.serial := rfl
@[simp] theorem State.updQueue_fatal (s : State) (q : Nat) (f : WorkQueue → WorkQueue) : (s.updQueue q f).fatal = s.fatal := rfl
@[simp] theorem State.updQueue_recent (s : State) (q : Nat) (f : WorkQueue → WorkQueue) : (s.updQueue q f).recent = s.recent := rfl

@[simp] theorem State.updJob_cores (s : State) (j : Nat) (f : Job → Job) : (s.updJob j f).cores = s.cores := rfl
@[simp] theorem State.updJob_gangs (s : State) (j : Nat) (f : Job → Job) : (s.updJob j f).gangs = s.gangs := rfl
@[simp] theorem State.updJob_quays (s : State) (j : Nat) (f : Job → Job) : (s.updJob j f).quays = s.quays := rfl
@[simp] theorem State.updJob_dies (s : State) (j : Nat) (f : Job → Job) : (s.updJob j f).dies = s.dies := rfl
@[simp] theorem State.updJob_pkgMerge (s : State) (j : Nat) (f : Job → Job) : (s.updJob j f).pkgMerge = s.pkgMerge := rfl
@[simp] theorem State.updJob_ca (s : State) (j : Nat) (f : Job → Job) : (s.updJob j f).ca = s.ca := rfl
@[simp] theorem State.updJob_ctxs (s : State) (j : Nat) (f : Job → Job) : (s.updJob j f).ctxs = s.ctxs := rfl
@[simp] theorem State.updJob_slates (s : State) (j : Nat) (f : Job → Job) : (s.updJob j f).slates = s.slates := rfl
@[simp] theorem State.updJob_launches (s : State) (j : Nat) (f : Job → Job) : (s.updJob j f).launches = s.launches := rfl
@[simp] theorem State.updJob_nextLaunch (s : State) (j : Nat) (f : Job → Job) : (s.updJob j f).nextLaunch = s.nextLaunch := rfl
@[simp] theorem State.updJob_queues (s : State) (j : Nat) (f : Job → Job) : (s.updJob j f).queues = s.queues := rfl
@[simp] theorem State.updJob_mem (s : State) (j : Nat) (f : Job → Job) : (s.updJob j f).mem = s.mem := rfl
@[simp] theorem State.updJob_poison (s : State) (j : Nat) (f : Job → Job) : (s.updJob j f).poison = s.poison := rfl
@[simp] theorem State.updJob_tags (s : State) (j : Nat) (f : Job → Job) : (s.updJob j f).tags = s.tags := rfl
@[simp] theorem State.updJob_net (s : State) (j : Nat) (f : Job → Job) : (s.updJob j f).net = s.net := rfl
@[simp] theorem State.updJob_markers (s : State) (j : Nat) (f : Job → Job) : (s.updJob j f).markers = s.markers := rfl
@[simp] theorem State.updJob_fw (s : State) (j : Nat) (f : Job → Job) : (s.updJob j f).fw = s.fw := rfl
@[simp] theorem State.updJob_msix (s : State) (j : Nat) (f : Job → Job) : (s.updJob j f).msix = s.msix := rfl
@[simp] theorem State.updJob_aer (s : State) (j : Nat) (f : Job → Job) : (s.updJob j f).aer = s.aer := rfl
@[simp] theorem State.updJob_pri (s : State) (j : Nat) (f : Job → Job) : (s.updJob j f).pri = s.pri := rfl
@[simp] theorem State.updJob_cycle (s : State) (j : Nat) (f : Job → Job) : (s.updJob j f).cycle = s.cycle := rfl
@[simp] theorem State.updJob_time (s : State) (j : Nat) (f : Job → Job) : (s.updJob j f).time = s.time := rfl
@[simp] theorem State.updJob_latent (s : State) (j : Nat) (f : Job → Job) : (s.updJob j f).latent = s.latent := rfl
@[simp] theorem State.updJob_cur (s : State) (j : Nat) (f : Job → Job) : (s.updJob j f).cur = s.cur := rfl
@[simp] theorem State.updJob_schedule (s : State) (j : Nat) (f : Job → Job) : (s.updJob j f).schedule = s.schedule := rfl
@[simp] theorem State.updJob_prompt (s : State) (j : Nat) (f : Job → Job) : (s.updJob j f).prompt = s.prompt := rfl
@[simp] theorem State.updJob_frees (s : State) (j : Nat) (f : Job → Job) : (s.updJob j f).frees = s.frees := rfl
@[simp] theorem State.updJob_serial (s : State) (j : Nat) (f : Job → Job) : (s.updJob j f).serial = s.serial := rfl
@[simp] theorem State.updJob_fatal (s : State) (j : Nat) (f : Job → Job) : (s.updJob j f).fatal = s.fatal := rfl
@[simp] theorem State.updJob_recent (s : State) (j : Nat) (f : Job → Job) : (s.updJob j f).recent = s.recent := rfl

@[simp] theorem State.setCore_gang (s : State) (p : Nat) (c : Core) (n : Nat) : (s.setCore p c).gang n = s.gang n := rfl
@[simp] theorem State.setCore_quay (s : State) (p : Nat) (c : Core) (n : Nat) : (s.setCore p c).quay n = s.quay n := rfl
@[simp] theorem State.setCore_die (s : State) (p : Nat) (c : Core) (n : Nat) : (s.setCore p c).die n = s.die n := rfl
@[simp] theorem State.setCore_ctx (s : State) (p : Nat) (c : Core) (n : Nat) : (s.setCore p c).ctx n = s.ctx n := rfl
@[simp] theorem State.setCore_slate (s : State) (p : Nat) (c : Core) (n : Nat) : (s.setCore p c).slate n = s.slate n := rfl
@[simp] theorem State.setCore_queue (s : State) (p : Nat) (c : Core) (n : Nat) : (s.setCore p c).queue n = s.queue n := rfl
@[simp] theorem State.setCore_job (s : State) (p : Nat) (c : Core) (n : Nat) : (s.setCore p c).job n = s.job n := rfl
@[simp] theorem State.setCore_launch (s : State) (p : Nat) (c : Core) (n : Nat) : (s.setCore p c).launch n = s.launch n := rfl

@[simp] theorem State.updCore_gang (s : State) (p : Nat) (f : Core → Core) (n : Nat) : (s.updCore p f).gang n = s.gang n := rfl
@[simp] theorem State.updCore_quay (s : State) (p : Nat) (f : Core → Core) (n : Nat) : (s.updCore p f).quay n = s.quay n := rfl
@[simp] theorem State.updCore_die (s : State) (p : Nat) (f : Core → Core) (n : Nat) : (s.updCore p f).die n = s.die n := rfl
@[simp] theorem State.updCore_ctx (s : State) (p : Nat) (f : Core → Core) (n : Nat) : (s.updCore p f).ctx n = s.ctx n := rfl
@[simp] theorem State.updCore_slate (s : State) (p : Nat) (f : Core → Core) (n : Nat) : (s.updCore p f).slate n = s.slate n := rfl
@[simp] theorem State.updCore_queue (s : State) (p : Nat) (f : Core → Core) (n : Nat) : (s.updCore p f).queue n = s.queue n := rfl
@[simp] theorem State.updCore_job (s : State) (p : Nat) (f : Core → Core) (n : Nat) : (s.updCore p f).job n = s.job n := rfl
@[simp] theorem State.updCore_launch (s : State) (p : Nat) (f : Core → Core) (n : Nat) : (s.updCore p f).launch n = s.launch n := rfl

@[simp] theorem State.updGang_core (s : State) (g : Nat) (f : Gang → Gang) (n : Nat) : (s.updGang g f).core n = s.core n := rfl
@[simp] theorem State.updGang_quay (s : State) (g : Nat) (f : Gang → Gang) (n : Nat) : (s.updGang g f).quay n = s.quay n := rfl
@[simp] theorem State.updGang_die (s : State) (g : Nat) (f : Gang → Gang) (n : Nat) : (s.updGang g f).die n = s.die n := rfl
@[simp] theorem State.updGang_ctx (s : State) (g : Nat) (f : Gang → Gang) (n : Nat) : (s.updGang g f).ctx n = s.ctx n := rfl
@[simp] theorem State.updGang_slate (s : State) (g : Nat) (f : Gang → Gang) (n : Nat) : (s.updGang g f).slate n = s.slate n := rfl
@[simp] theorem State.updGang_queue (s : State) (g : Nat) (f : Gang → Gang) (n : Nat) : (s.updGang g f).queue n = s.queue n := rfl
@[simp] theorem State.updGang_job (s : State) (g : Nat) (f : Gang → Gang) (n : Nat) : (s.updGang g f).job n = s.job n := rfl
@[simp] theorem State.updGang_launch (s : State) (g : Nat) (f : Gang → Gang) (n : Nat) : (s.updGang g f).launch n = s.launch n := rfl

@[simp] theorem State.updQuay_core (s : State) (q : Nat) (f : Quay → Quay) (n : Nat) : (s.updQuay q f).core n = s.core n := rfl
@[simp] theorem State.updQuay_gang (s : State) (q : Nat) (f : Quay → Quay) (n : Nat) : (s.updQuay q f).gang n = s.gang n := rfl
@[simp] theorem State.updQuay_die (s : State) (q : Nat) (f : Quay → Quay) (n : Nat) : (s.updQuay q f).die n = s.die n := rfl
@[simp] theorem State.updQuay_ctx (s : State) (q : Nat) (f : Quay → Quay) (n : Nat) : (s.updQuay q f).ctx n = s.ctx n := rfl
@[simp] theorem State.updQuay_slate (s : State) (q : Nat) (f : Quay → Quay) (n : Nat) : (s.updQuay q f).slate n = s.slate n := rfl
@[simp] theorem State.updQuay_queue (s : State) (q : Nat) (f : Quay → Quay) (n : Nat) : (s.updQuay q f).queue n = s.queue n := rfl
@[simp] theorem State.updQuay_job (s : State) (q : Nat) (f : Quay → Quay) (n : Nat) : (s.updQuay q f).job n = s.job n := rfl
@[simp] theorem State.updQuay_launch (s : State) (q : Nat) (f : Quay → Quay) (n : Nat) : (s.updQuay q f).launch n = s.launch n := rfl

@[simp] theorem State.updDie_core (s : State) (d : Nat) (f : Die → Die) (n : Nat) : (s.updDie d f).core n = s.core n := rfl
@[simp] theorem State.updDie_gang (s : State) (d : Nat) (f : Die → Die) (n : Nat) : (s.updDie d f).gang n = s.gang n := rfl
@[simp] theorem State.updDie_quay (s : State) (d : Nat) (f : Die → Die) (n : Nat) : (s.updDie d f).quay n = s.quay n := rfl
@[simp] theorem State.updDie_ctx (s : State) (d : Nat) (f : Die → Die) (n : Nat) : (s.updDie d f).ctx n = s.ctx n := rfl
@[simp] theorem State.updDie_slate (s : State) (d : Nat) (f : Die → Die) (n : Nat) : (s.updDie d f).slate n = s.slate n := rfl
@[simp] theorem State.updDie_queue (s : State) (d : Nat) (f : Die → Die) (n : Nat) : (s.updDie d f).queue n = s.queue n := rfl
@[simp] theorem State.updDie_job (s : State) (d : Nat) (f : Die → Die) (n : Nat) : (s.updDie d f).job n = s.job n := rfl
@[simp] theorem State.updDie_launch (s : State) (d : Nat) (f : Die → Die) (n : Nat) : (s.updDie d f).launch n = s.launch n := rfl

@[simp] theorem State.updCtx_core (s : State) (c : Nat) (f : Context → Context) (n : Nat) : (s.updCtx c f).core n = s.core n := rfl
@[simp] theorem State.updCtx_gang (s : State) (c : Nat) (f : Context → Context) (n : Nat) : (s.updCtx c f).gang n = s.gang n := rfl
@[simp] theorem State.updCtx_quay (s : State) (c : Nat) (f : Context → Context) (n : Nat) : (s.updCtx c f).quay n = s.quay n := rfl
@[simp] theorem State.updCtx_die (s : State) (c : Nat) (f : Context → Context) (n : Nat) : (s.updCtx c f).die n = s.die n := rfl
@[simp] theorem State.updCtx_slate (s : State) (c : Nat) (f : Context → Context) (n : Nat) : (s.updCtx c f).slate n = s.slate n := rfl
@[simp] theorem State.updCtx_queue (s : State) (c : Nat) (f : Context → Context) (n : Nat) : (s.updCtx c f).queue n = s.queue n := rfl
@[simp] theorem State.updCtx_job (s : State) (c : Nat) (f : Context → Context) (n : Nat) : (s.updCtx c f).job n = s.job n := rfl
@[simp] theorem State.updCtx_launch (s : State) (c : Nat) (f : Context → Context) (n : Nat) : (s.updCtx c f).launch n = s.launch n := rfl

@[simp] theorem State.updSlate_core (s : State) (i : Nat) (f : Slate → Slate) (n : Nat) : (s.updSlate i f).core n = s.core n := rfl
@[simp] theorem State.updSlate_gang (s : State) (i : Nat) (f : Slate → Slate) (n : Nat) : (s.updSlate i f).gang n = s.gang n := rfl
@[simp] theorem State.updSlate_quay (s : State) (i : Nat) (f : Slate → Slate) (n : Nat) : (s.updSlate i f).quay n = s.quay n := rfl
@[simp] theorem State.updSlate_die (s : State) (i : Nat) (f : Slate → Slate) (n : Nat) : (s.updSlate i f).die n = s.die n := rfl
@[simp] theorem State.updSlate_ctx (s : State) (i : Nat) (f : Slate → Slate) (n : Nat) : (s.updSlate i f).ctx n = s.ctx n := rfl
@[simp] theorem State.updSlate_queue (s : State) (i : Nat) (f : Slate → Slate) (n : Nat) : (s.updSlate i f).queue n = s.queue n := rfl
@[simp] theorem State.updSlate_job (s : State) (i : Nat) (f : Slate → Slate) (n : Nat) : (s.updSlate i f).job n = s.job n := rfl
@[simp] theorem State.updSlate_launch (s : State) (i : Nat) (f : Slate → Slate) (n : Nat) : (s.updSlate i f).launch n = s.launch n := rfl

@[simp] theorem State.updQueue_core (s : State) (q : Nat) (f : WorkQueue → WorkQueue) (n : Nat) : (s.updQueue q f).core n = s.core n := rfl
@[simp] theorem State.updQueue_gang (s : State) (q : Nat) (f : WorkQueue → WorkQueue) (n : Nat) : (s.updQueue q f).gang n = s.gang n := rfl
@[simp] theorem State.updQueue_quay (s : State) (q : Nat) (f : WorkQueue → WorkQueue) (n : Nat) : (s.updQueue q f).quay n = s.quay n := rfl
@[simp] theorem State.updQueue_die (s : State) (q : Nat) (f : WorkQueue → WorkQueue) (n : Nat) : (s.updQueue q f).die n = s.die n := rfl
@[simp] theorem State.updQueue_ctx (s : State) (q : Nat) (f : WorkQueue → WorkQueue) (n : Nat) : (s.updQueue q f).ctx n = s.ctx n := rfl
@[simp] theorem State.updQueue_slate (s : State) (q : Nat) (f : WorkQueue → WorkQueue) (n : Nat) : (s.updQueue q f).slate n = s.slate n := rfl
@[simp] theorem State.updQueue_job (s : State) (q : Nat) (f : WorkQueue → WorkQueue) (n : Nat) : (s.updQueue q f).job n = s.job n := rfl
@[simp] theorem State.updQueue_launch (s : State) (q : Nat) (f : WorkQueue → WorkQueue) (n : Nat) : (s.updQueue q f).launch n = s.launch n := rfl

@[simp] theorem State.updJob_core (s : State) (j : Nat) (f : Job → Job) (n : Nat) : (s.updJob j f).core n = s.core n := rfl
@[simp] theorem State.updJob_gang (s : State) (j : Nat) (f : Job → Job) (n : Nat) : (s.updJob j f).gang n = s.gang n := rfl
@[simp] theorem State.updJob_quay (s : State) (j : Nat) (f : Job → Job) (n : Nat) : (s.updJob j f).quay n = s.quay n := rfl
@[simp] theorem State.updJob_die (s : State) (j : Nat) (f : Job → Job) (n : Nat) : (s.updJob j f).die n = s.die n := rfl
@[simp] theorem State.updJob_ctx (s : State) (j : Nat) (f : Job → Job) (n : Nat) : (s.updJob j f).ctx n = s.ctx n := rfl
@[simp] theorem State.updJob_slate (s : State) (j : Nat) (f : Job → Job) (n : Nat) : (s.updJob j f).slate n = s.slate n := rfl
@[simp] theorem State.updJob_queue (s : State) (j : Nat) (f : Job → Job) (n : Nat) : (s.updJob j f).queue n = s.queue n := rfl
@[simp] theorem State.updJob_launch (s : State) (j : Nat) (f : Job → Job) (n : Nat) : (s.updJob j f).launch n = s.launch n := rfl

@[simp] theorem State.setCore_core_same (s : State) (p : Nat) (c : Core) : (s.setCore p c).core p = c := by
  simp [State.setCore, State.core]

theorem State.setCore_core_other (s : State) {p n : Nat} (c : Core) (h : n ≠ p) : (s.setCore p c).core n = s.core n := by
  simp [State.setCore, State.core, Tab.get_set_other _ _ h]

@[simp] theorem State.updCore_core_same (s : State) (p : Nat) (f : Core → Core) : (s.updCore p f).core p = f (s.core p) := by
  simp [State.updCore, State.core, State.setCore]

theorem State.updCore_core_other (s : State) {p n : Nat} (f : Core → Core) (h : n ≠ p) : (s.updCore p f).core n = s.core n := by
  simp [State.updCore, State.core, State.setCore, Tab.get_set_other _ _ h]

theorem State.updCore_core (s : State) (p : Nat) (f : Core → Core) (n : Nat) : (s.updCore p f).core n = if n = p then f (s.core p) else s.core n := by
  simp [State.updCore, State.core, State.setCore, Tab.get_set]

@[simp] theorem State.updGang_gang_same (s : State) (g : Nat) (f : Gang → Gang) : (s.updGang g f).gang g = f (s.gang g) := by
  simp [State.updGang, State.gang]

theorem State.updGang_gang_other (s : State) {g n : Nat} (f : Gang → Gang) (h : n ≠ g) : (s.updGang g f).gang n = s.gang n := by
  simp [State.updGang, State.gang, Tab.get_set_other _ _ h]

theorem State.updGang_gang (s : State) (g : Nat) (f : Gang → Gang) (n : Nat) : (s.updGang g f).gang n = if n = g then f (s.gang g) else s.gang n := by
  simp [State.updGang, State.gang, Tab.get_set]

@[simp] theorem State.updQuay_quay_same (s : State) (q : Nat) (f : Quay → Quay) : (s.updQuay q f).quay q = f (s.quay q) := by
  simp [State.updQuay, State.quay]

theorem State.updQuay_quay_other (s : State) {q n : Nat} (f : Quay → Quay) (h : n ≠ q) : (s.updQuay q f).quay n = s.quay n := by
  simp [State.updQuay, State.quay, Tab.get_set_other _ _ h]

theorem State.updQuay_quay (s : State) (q : Nat) (f : Quay → Quay) (n : Nat) : (s.updQuay q f).quay n = if n = q then f (s.quay q) else s.quay n := by
  simp [State.updQuay, State.quay, Tab.get_set]

@[simp] theorem State.updDie_die_same (s : State) (d : Nat) (f : Die → Die) : (s.updDie d f).die d = f (s.die d) := by
  simp [State.updDie, State.die]

theorem State.updDie_die_other (s : State) {d n : Nat} (f : Die → Die) (h : n ≠ d) : (s.updDie d f).die n = s.die n := by
  simp [State.updDie, State.die, Tab.get_set_other _ _ h]

theorem State.updDie_die (s : State) (d : Nat) (f : Die → Die) (n : Nat) : (s.updDie d f).die n = if n = d then f (s.die d) else s.die n := by
  simp [State.updDie, State.die, Tab.get_set]

@[simp] theorem State.updCtx_ctx_same (s : State) (c : Nat) (f : Context → Context) : (s.updCtx c f).ctx c = f (s.ctx c) := by
  simp [State.updCtx, State.ctx]

theorem State.updCtx_ctx_other (s : State) {c n : Nat} (f : Context → Context) (h : n ≠ c) : (s.updCtx c f).ctx n = s.ctx n := by
  simp [State.updCtx, State.ctx, Tab.get_set_other _ _ h]

theorem State.updCtx_ctx (s : State) (c : Nat) (f : Context → Context) (n : Nat) : (s.updCtx c f).ctx n = if n = c then f (s.ctx c) else s.ctx n := by
  simp [State.updCtx, State.ctx, Tab.get_set]

@[simp] theorem State.updSlate_slate_same (s : State) (i : Nat) (f : Slate → Slate) : (s.updSlate i f).slate i = f (s.slate i) := by
  simp [State.updSlate, State.slate]

theorem State.updSlate_slate_other (s : State) {i n : Nat} (f : Slate → Slate) (h : n ≠ i) : (s.updSlate i f).slate n = s.slate n := by
  simp [State.updSlate, State.slate, Tab.get_set_other _ _ h]

theorem State.updSlate_slate (s : State) (i : Nat) (f : Slate → Slate) (n : Nat) : (s.updSlate i f).slate n = if n = i then f (s.slate i) else s.slate n := by
  simp [State.updSlate, State.slate, Tab.get_set]

@[simp] theorem State.updQueue_queue_same (s : State) (q : Nat) (f : WorkQueue → WorkQueue) : (s.updQueue q f).queue q = f (s.queue q) := by
  simp [State.updQueue, State.queue]

theorem State.updQueue_queue_other (s : State) {q n : Nat} (f : WorkQueue → WorkQueue) (h : n ≠ q) : (s.updQueue q f).queue n = s.queue n := by
  simp [State.updQueue, State.queue, Tab.get_set_other _ _ h]

theorem State.updQueue_queue (s : State) (q : Nat) (f : WorkQueue → WorkQueue) (n : Nat) : (s.updQueue q f).queue n = if n = q then f (s.queue q) else s.queue n := by
  simp [State.updQueue, State.queue, Tab.get_set]

@[simp] theorem State.updJob_job_same (s : State) (j : Nat) (f : Job → Job) : (s.updJob j f).job j = f (s.job j) := by
  simp [State.updJob, State.job]

theorem State.updJob_job_other (s : State) {j n : Nat} (f : Job → Job) (h : n ≠ j) : (s.updJob j f).job n = s.job n := by
  simp [State.updJob, State.job, Tab.get_set_other _ _ h]

theorem State.updJob_job (s : State) (j : Nat) (f : Job → Job) (n : Nat) : (s.updJob j f).job n = if n = j then f (s.job j) else s.job n := by
  simp [State.updJob, State.job, Tab.get_set]

/-- A slot that holds a thread is one that there is. -/
theorem slotAt_isSome {l : List Slot} {i : Nat} (h : (slotAt l i).th.isSome = true) : i < l.length := by
  by_cases g : i < l.length
  · exact g
  · simp [slotAt, List.getElem?_eq_none (Nat.le_of_not_lt g)] at h

/-- A service slot that holds a thread is one that there is. -/
theorem svcAt_isSome {q : Quay} {i : Nat} (h : (q.svcAt i).slot.th.isSome = true) : i < q.svc.length := by
  by_cases g : i < q.svc.length
  · exact g
  · simp [Quay.svcAt, List.getElem?_eq_none (Nat.le_of_not_lt g)] at h

theorem slotAt_setNth_same {l : List Slot} {i : Nat} (x : Slot) (h : i < l.length) : slotAt (setNth x i l) i = x := by
  simp [slotAt, setNth_get_same x i l h]

theorem slotAt_setNth_other {l : List Slot} {i j : Nat} (x : Slot) (h : j ≠ i) : slotAt (setNth x i l) j = slotAt l j := by
  simp [slotAt, setNth_get_other x h l]

/-- The slot of a place that holds a thread, after it has been replaced. -/
theorem State.setSlot_slot_same (s : State) (l : Loc) (x : Slot) (h : (s.slot l).th.isSome = true) : (s.setSlot l x).slot l = x := by
  unfold State.setSlot State.slot at *
  by_cases v : l.svc = true
  · simp only [v, if_true] at *
    simp [Quay.svcAt, setNth_get_same _ _ _ (svcAt_isSome h)]
  · simp only [v] at *
    simpa using slotAt_setNth_same x (slotAt_isSome h)

/-- Every other place keeps its slot. -/
theorem State.setSlot_slot_other (s : State) {l m : Loc} (x : Slot) (h : m ≠ l) : (s.setSlot l x).slot m = s.slot m := by
  obtain ⟨v, u, i⟩ := l
  obtain ⟨w, y, j⟩ := m
  have hn : ¬(w = v ∧ y = u ∧ j = i) := fun ⟨a, b, c⟩ => h (by simp [a, b, c])
  unfold State.setSlot State.slot
  cases v <;> cases w <;> simp only [Bool.false_eq_true, if_true, if_false, State.updQuay_core, State.updCore_quay]
  · by_cases e : y = u
    · subst e
      simp [slotAt_setNth_other x (show j ≠ i from fun g => hn ⟨rfl, rfl, g⟩)]
    · simp [State.updCore_core_other _ _ e]
  · by_cases e : y = u
    · subst e
      have g : j ≠ i := fun g => hn ⟨rfl, rfl, g⟩
      simp [Quay.svcAt, setNth_get_other _ g]
    · simp [State.updQuay_quay_other _ _ e]

@[simp] theorem State.setSlot_gangs (s : State) (l : Loc) (x : Slot) : (s.setSlot l x).gangs = s.gangs := by
  unfold State.setSlot; split <;> rfl
@[simp] theorem State.setSlot_dies (s : State) (l : Loc) (x : Slot) : (s.setSlot l x).dies = s.dies := by
  unfold State.setSlot; split <;> rfl
@[simp] theorem State.setSlot_pkgMerge (s : State) (l : Loc) (x : Slot) : (s.setSlot l x).pkgMerge = s.pkgMerge := by
  unfold State.setSlot; split <;> rfl
@[simp] theorem State.setSlot_ca (s : State) (l : Loc) (x : Slot) : (s.setSlot l x).ca = s.ca := by
  unfold State.setSlot; split <;> rfl
@[simp] theorem State.setSlot_ctxs (s : State) (l : Loc) (x : Slot) : (s.setSlot l x).ctxs = s.ctxs := by
  unfold State.setSlot; split <;> rfl
@[simp] theorem State.setSlot_slates (s : State) (l : Loc) (x : Slot) : (s.setSlot l x).slates = s.slates := by
  unfold State.setSlot; split <;> rfl
@[simp] theorem State.setSlot_launches (s : State) (l : Loc) (x : Slot) : (s.setSlot l x).launches = s.launches := by
  unfold State.setSlot; split <;> rfl
@[simp] theorem State.setSlot_nextLaunch (s : State) (l : Loc) (x : Slot) : (s.setSlot l x).nextLaunch = s.nextLaunch := by
  unfold State.setSlot; split <;> rfl
@[simp] theorem State.setSlot_queues (s : State) (l : Loc) (x : Slot) : (s.setSlot l x).queues = s.queues := by
  unfold State.setSlot; split <;> rfl
@[simp] theorem State.setSlot_jobs (s : State) (l : Loc) (x : Slot) : (s.setSlot l x).jobs = s.jobs := by
  unfold State.setSlot; split <;> rfl
@[simp] theorem State.setSlot_mem (s : State) (l : Loc) (x : Slot) : (s.setSlot l x).mem = s.mem := by
  unfold State.setSlot; split <;> rfl
@[simp] theorem State.setSlot_poison (s : State) (l : Loc) (x : Slot) : (s.setSlot l x).poison = s.poison := by
  unfold State.setSlot; split <;> rfl
@[simp] theorem State.setSlot_tags (s : State) (l : Loc) (x : Slot) : (s.setSlot l x).tags = s.tags := by
  unfold State.setSlot; split <;> rfl
@[simp] theorem State.setSlot_net (s : State) (l : Loc) (x : Slot) : (s.setSlot l x).net = s.net := by
  unfold State.setSlot; split <;> rfl
@[simp] theorem State.setSlot_markers (s : State) (l : Loc) (x : Slot) : (s.setSlot l x).markers = s.markers := by
  unfold State.setSlot; split <;> rfl
@[simp] theorem State.setSlot_fw (s : State) (l : Loc) (x : Slot) : (s.setSlot l x).fw = s.fw := by
  unfold State.setSlot; split <;> rfl
@[simp] theorem State.setSlot_msix (s : State) (l : Loc) (x : Slot) : (s.setSlot l x).msix = s.msix := by
  unfold State.setSlot; split <;> rfl
@[simp] theorem State.setSlot_aer (s : State) (l : Loc) (x : Slot) : (s.setSlot l x).aer = s.aer := by
  unfold State.setSlot; split <;> rfl
@[simp] theorem State.setSlot_pri (s : State) (l : Loc) (x : Slot) : (s.setSlot l x).pri = s.pri := by
  unfold State.setSlot; split <;> rfl
@[simp] theorem State.setSlot_cycle (s : State) (l : Loc) (x : Slot) : (s.setSlot l x).cycle = s.cycle := by
  unfold State.setSlot; split <;> rfl
@[simp] theorem State.setSlot_time (s : State) (l : Loc) (x : Slot) : (s.setSlot l x).time = s.time := by
  unfold State.setSlot; split <;> rfl
@[simp] theorem State.setSlot_latent (s : State) (l : Loc) (x : Slot) : (s.setSlot l x).latent = s.latent := by
  unfold State.setSlot; split <;> rfl
@[simp] theorem State.setSlot_cur (s : State) (l : Loc) (x : Slot) : (s.setSlot l x).cur = s.cur := by
  unfold State.setSlot; split <;> rfl
@[simp] theorem State.setSlot_schedule (s : State) (l : Loc) (x : Slot) : (s.setSlot l x).schedule = s.schedule := by
  unfold State.setSlot; split <;> rfl
@[simp] theorem State.setSlot_prompt (s : State) (l : Loc) (x : Slot) : (s.setSlot l x).prompt = s.prompt := by
  unfold State.setSlot; split <;> rfl
@[simp] theorem State.setSlot_frees (s : State) (l : Loc) (x : Slot) : (s.setSlot l x).frees = s.frees := by
  unfold State.setSlot; split <;> rfl
@[simp] theorem State.setSlot_serial (s : State) (l : Loc) (x : Slot) : (s.setSlot l x).serial = s.serial := by
  unfold State.setSlot; split <;> rfl
@[simp] theorem State.setSlot_fatal (s : State) (l : Loc) (x : Slot) : (s.setSlot l x).fatal = s.fatal := by
  unfold State.setSlot; split <;> rfl
@[simp] theorem State.setSlot_recent (s : State) (l : Loc) (x : Slot) : (s.setSlot l x).recent = s.recent := by
  unfold State.setSlot; split <;> rfl
@[simp] theorem State.setSlot_gang (s : State) (l : Loc) (x : Slot) (n : Nat) : (s.setSlot l x).gang n = s.gang n := by
  unfold State.setSlot; split <;> rfl
@[simp] theorem State.setSlot_die (s : State) (l : Loc) (x : Slot) (n : Nat) : (s.setSlot l x).die n = s.die n := by
  unfold State.setSlot; split <;> rfl
@[simp] theorem State.setSlot_ctx (s : State) (l : Loc) (x : Slot) (n : Nat) : (s.setSlot l x).ctx n = s.ctx n := by
  unfold State.setSlot; split <;> rfl
@[simp] theorem State.setSlot_slate (s : State) (l : Loc) (x : Slot) (n : Nat) : (s.setSlot l x).slate n = s.slate n := by
  unfold State.setSlot; split <;> rfl
@[simp] theorem State.setSlot_queue (s : State) (l : Loc) (x : Slot) (n : Nat) : (s.setSlot l x).queue n = s.queue n := by
  unfold State.setSlot; split <;> rfl
@[simp] theorem State.setSlot_job (s : State) (l : Loc) (x : Slot) (n : Nat) : (s.setSlot l x).job n = s.job n := by
  unfold State.setSlot; split <;> rfl
@[simp] theorem State.setSlot_launch (s : State) (l : Loc) (x : Slot) (n : Nat) : (s.setSlot l x).launch n = s.launch n := by
  unfold State.setSlot; split <;> rfl

/-- A core after the slot of a place is replaced: nothing but its slots can have changed. -/
theorem State.setSlot_core (s : State) (l : Loc) (x : Slot) (n : Nat) :
    (s.setSlot l x).core n = if l.svc = false ∧ n = l.unit then { s.core n with slots := setNth x l.slot (s.core n).slots } else s.core n := by
  unfold State.setSlot
  by_cases v : l.svc = true
  · simp [v]
  · by_cases e : n = l.unit
    · subst e; simp [v]
    · simp [v, e, State.updCore_core_other _ _ e]

/-- A quay after the slot of a place is replaced: nothing but its service slots can have changed. -/
theorem State.setSlot_quay (s : State) (l : Loc) (x : Slot) (n : Nat) :
    (s.setSlot l x).quay n
      = if l.svc = true ∧ n = l.unit then { s.quay n with svc := setNth { (s.quay n).svcAt l.slot with slot := x } l.slot (s.quay n).svc }
        else s.quay n := by
  unfold State.setSlot
  by_cases v : l.svc = true
  · by_cases e : n = l.unit
    · subst e; simp [v]
    · simp [v, e, State.updQuay_quay_other _ _ e]
  · simp [v]

end Sys2Proof.Machine
end

