-- ==== Sys2Proof/Laws/Ops.lean ====
section
/-!
SUPPORT. What the shared operations of the machine do: the frames in which instructions run, retiring, writing registers, and what they keep.
-/

namespace Sys2Proof.Machine

/-! The frames -/

theorem repView_of_free {c : Core} {th : Thread} (i : Instr) (maj fn : Nat) (h : c.rpt.owner ≠ some th.task) :
    repView c th i maj fn = .run := by
  have : (c.rpt.owner == some th.task) = false := by simpa using h
  simp [repView, this]

theorem Runs.isSome {s : State} {th : Thread} {h : Hdr} (r : Runs s th h) : (s.slot s.cur).th.isSome = true := by
  have := r.thread
  unfold State.thread State.curSlot at this
  simp [this]

/-- An instruction with a false guard only moves the PC (R48). -/
theorem framed_nullified {i : Instr} {h : Hdr} {maj fn len : Nat} {s : State} {th : Thread} {body : Thread → Out}
    (ht : s.thread = some th) (hg : guardOk h th = false) :
    framed i h maj fn len s body = .next (s.retire s.cur (th.after len) none) := by
  simp [framed, ht, hg]

theorem framed_runs {i : Instr} {h : Hdr} {maj fn len : Nat} {s : State} {th : Thread} {body : Thread → Out} (r : Runs s th h) :
    framed i h maj fn len s body = body th := by
  simp [framed, r.thread, r.guard, repView_of_free i maj fn r.free]

theorem issueJ_runs {i : Instr} {h : Hdr} {maj fn len : Nat} {s : State} {th : Thread} {body : Thread → M Word} (r : Runs s th h) :
    issueJ i h maj fn len s body = finish s.cur s (body th s) := by
  simp [issueJ, framed_runs r]

theorem issueJ_ok {i : Instr} {h : Hdr} {maj fn len : Nat} {s t : State} {th : Thread} {body : Thread → M Word} {pc : Word}
    (r : Runs s th h) (hb : body th s = .ok (pc, t)) : issueJ i h maj fn len s body = .next (t.retire s.cur pc none) := by
  simp [issueJ_runs r, hb, finish]

theorem issue_ok {i : Instr} {h : Hdr} {maj fn len : Nat} {s t : State} {th : Thread} {body : Thread → M Unit}
    (r : Runs s th h) (hb : body th s = .ok ((), t)) : issue i h maj fn len s body = .next (t.retire s.cur (th.after len) none) := by
  unfold issue
  exact issueJ_ok r (by simp [bind, StateT.bind, Except.bind, hb, pure, StateT.pure, Except.pure])

theorem issueLong_ok {i : Instr} {h : Hdr} {maj fn len : Nat} {s t : State} {th : Thread} {body : Thread → M Opening} {o : Opening}
    (r : Runs s th h) (hw : s.curSlot.wins.length < 2) (hb : body th s = .ok (o, t)) :
    issueLong i h maj fn len s body = .next (t.retire s.cur (th.after len) (some
      { major := maj, left := h.la.toNat, done := false, decided := o.decided, latch := o.latch, late := o.late, refresh := o.refresh
        tag := o.tag })) := by
  unfold State.curSlot at hw
  simp [issueLong, framed_runs r, hw, hb, finishLong]

theorem issueJ_trap {i : Instr} {h : Hdr} {maj fn len : Nat} {s : State} {th : Thread} {body : Thread → M Word} {c : Nat} {e : Word}
    (r : Runs s th h) (hb : body th s = .error (.trap c e)) : issueJ i h maj fn len s body = .next (s.trapEnter s.cur c e) := by
  simp [issueJ_runs r, hb, finish]

theorem issue_trap {i : Instr} {h : Hdr} {maj fn len : Nat} {s : State} {th : Thread} {body : Thread → M Unit} {c : Nat} {e : Word}
    (r : Runs s th h) (hb : body th s = .error (.trap c e)) : issue i h maj fn len s body = .next (s.trapEnter s.cur c e) := by
  unfold issue
  exact issueJ_trap r (by simp [bind, StateT.bind, Except.bind, hb])

theorem issueLong_trap {i : Instr} {h : Hdr} {maj fn len : Nat} {s : State} {th : Thread} {body : Thread → M Opening} {c : Nat} {e : Word}
    (r : Runs s th h) (hw : s.curSlot.wins.length < 2) (hb : body th s = .error (.trap c e)) :
    issueLong i h maj fn len s body = .next (s.trapEnter s.cur c e) := by
  unfold State.curSlot at hw
  simp [issueLong, framed_runs r, hw, hb, finishLong]

theorem issue_gone {i : Instr} {h : Hdr} {maj fn len : Nat} {s t : State} {th : Thread} {body : Thread → M Unit}
    (r : Runs s th h) (hb : body th s = .error (.gone t)) : issue i h maj fn len s body = .next t := by
  unfold issue
  simp [issueJ_runs r, bind, StateT.bind, Except.bind, hb, finish]

theorem issueJ_gone {i : Instr} {h : Hdr} {maj fn len : Nat} {s t : State} {th : Thread} {body : Thread → M Word}
    (r : Runs s th h) (hb : body th s = .error (.gone t)) : issueJ i h maj fn len s body = .next t := by
  simp [issueJ_runs r, hb, finish]

/-! The steps of the meanings' monad -/

@[simp] theorem run_pure {α : Type} (a : α) (s : State) : (pure a : M α) s = .ok (a, s) := rfl
@[simp] theorem run_bind {α β : Type} (x : M α) (f : α → M β) (s : State) :
    (x >>= f) s = match x s with
      | .ok (a, t) => f a t
      | .error e => .error e := by
  simp only [bind, StateT.bind, Except.bind]
  cases x s <;> rfl
@[simp] theorem run_getS (s : State) : getS s = .ok (s, s) := rfl
@[simp] theorem run_setS (t s : State) : setS t s = .ok ((), t) := rfl
@[simp] theorem run_modS (f : State → State) (s : State) : modS f s = .ok ((), f s) := rfl
@[simp] theorem run_trapM {α : Type} (c : Nat) (e : Word) (s : State) : (trapM c e : M α) s = .error (.trap c e) := rfl
@[simp] theorem run_killM {α : Type} (s : State) : (killM : M α) s = .error .kill := rfl
@[simp] theorem run_goneM {α : Type} (s : State) : (goneM : M α) s = .error (.gone s) := rfl
@[simp] theorem run_stallM {α : Type} (w : Stall) (s : State) : (stallM w : M α) s = .error (.stall w s) := rfl
@[simp] theorem run_require (b : Bool) (c : Nat) (e : Word) (s : State) :
    require b c e s = if b then .ok ((), s) else .error (.trap c e) := by
  cases b <;> rfl
@[simp] theorem run_cleanUse (w : PWord) (s : State) : cleanUse w s = if w.p then .error .kill else .ok (w.v, s) := by
  unfold cleanUse
  cases w.p <;> rfl
@[simp] theorem run_ite {α : Type} (c : Prop) [Decidable c] (x y : M α) (s : State) : (if c then x else y) s = if c then x s else y s := by
  split <;> rfl

/-! What the shared operations keep -/

namespace Keeps

theorem refl (s : State) : Keeps s s := ⟨rfl, fun _ => rfl, fun _ => rfl, fun _ _ => rfl⟩

theorem cur {s t : State} (k : Keeps s t) : t.cur = s.cur := by
  have := congrArg State.cur k.rest
  simpa [State.rest] using this

theorem trans {s t u : State} (a : Keeps s t) (b : Keeps t u) : Keeps s u :=
  ⟨b.rest.trans a.rest, fun n => (b.cores n).trans (a.cores n), fun n => (b.quays n).trans (a.quays n),
    fun l h => (b.places l (by rw [a.cur]; exact h)).trans (a.places l h)⟩

theorem setSlot (s : State) (x : Slot) : Keeps s (s.setSlot s.cur x) := by
  refine ⟨?_, fun n => ?_, fun n => ?_, fun l h => State.setSlot_slot_other s x h⟩
  · unfold State.setSlot; split <;> rfl
  · rw [State.setSlot_core]; split <;> rfl
  · rw [State.setSlot_quay]; split <;> rfl

theorem updThread (s : State) (f : Thread → Thread) : Keeps s (s.updThread f) := setSlot s _

/-- A change of a core that keeps its slots and its rest. -/
theorem updCore (s : State) (p : Nat) (f : Core → Core) (hr : ∀ c, (f c).rest = c.rest) (hs : ∀ c, (f c).slots = c.slots) :
    Keeps s (s.updCore p f) := by
  refine ⟨rfl, fun n => ?_, fun _ => rfl, fun l _ => ?_⟩
  · rw [State.updCore_core]; split
    · rename_i e; rw [e]; exact hr _
    · rfl
  · unfold State.slot
    split
    · rfl
    · rw [State.updCore_core]; split
      · rename_i e; rw [e, hs]
      · rfl

/-- A change of a quay that keeps its service slots and its rest. -/
theorem updQuay (s : State) (p : Nat) (f : Quay → Quay) (hr : ∀ c, (f c).rest = c.rest) (hs : ∀ c, (f c).svc = c.svc) :
    Keeps s (s.updQuay p f) := by
  refine ⟨rfl, fun _ => rfl, fun n => ?_, fun l _ => ?_⟩
  · rw [State.updQuay_quay]; split
    · rename_i e; rw [e]; exact hr _
    · rfl
  · unfold State.slot
    split
    · rw [State.updQuay_quay]; split
      · rename_i e; rw [e]; simp [Quay.svcAt, hs]
      · rfl
    · rfl

theorem disarm (s : State) (core : Nat) : Keeps s (s.disarm core) := updCore s _ _ (fun _ => rfl) (fun _ => rfl)

theorem corrupt (s : State) (u : Upset) : Keeps s (s.corrupt u) := ⟨rfl, fun _ => rfl, fun _ => rfl, fun _ _ => rfl⟩

theorem inject (s : State) (core array place unit : Nat) : Keeps s (s.inject core array place unit) := by
  unfold State.inject
  split
  · exact refl s
  · exact (disarm s core).trans (corrupt _ _)

theorem rewrote (s : State) (array place : Nat) (unit : Nat → Bool) : Keeps s (s.rewrote array place unit) := by
  unfold State.rewrote
  split
  · exact refl s
  · exact ⟨rfl, fun _ => rfl, fun _ => rfl, fun _ _ => rfl⟩

theorem refill (s : State) (core array place unit : Nat) : Keeps s (s.refill core array place unit) :=
  (rewrote s _ _ _).trans (inject _ _ _ _ _)

/-- A fingerprint (R414) is no part of what an instruction may not change. -/
theorem print (s : State) (l : Loc) (f : Fingerprint → Fingerprint) : Keeps s (s.print l f) := by
  unfold State.print
  split
  · split
    · exact updCore s _ _ (fun _ => rfl) (fun _ => rfl)
    · exact refl s
  · exact refl s

theorem printPois (s : State) (l : Loc) (p : Bool) : Keeps s (s.printPois l p) := by
  unfold State.printPois
  split
  · exact updCore s _ _ (fun _ => rfl) (fun _ => rfl)
  · exact refl s

theorem printX (s : State) (l : Loc) (r : Nat) (w : PWord) : Keeps s (s.printX l r w) := (print s _ _).trans (printPois _ _ _)

theorem printWords (s : State) (l : Loc) (ws : List Word) (p : Bool) : Keeps s (s.printWords l ws p) := (print s _ _).trans (printPois _ _ _)

/-- The record of the last issues (R11) is no part of what an instruction may not change. -/
theorem record (s : State) (r : List (Nat × TaskId × Nat)) : Keeps s { s with recent := r } := ⟨rfl, fun _ => rfl, fun _ => rfl, fun _ _ => rfl⟩

theorem noteIssue (s : State) (l : Loc) : Keeps s (s.noteIssue l) := by
  unfold State.noteIssue
  split
  · exact refl s
  · simp only
    split
    · exact (record s _).trans (updQuay _ _ _ (fun _ => rfl) (fun _ => rfl))
    · exact (record s _).trans (updCore _ _ _ (fun _ => rfl) (fun _ => rfl))

theorem countInstr (s : State) (core : Nat) : Keeps s (s.countInstr core) := by
  unfold State.countInstr
  exact updCore s _ _ (fun _ => rfl) (fun _ => rfl)

theorem retire (s : State) (pc : Word) (w : Option Window) : Keeps s (s.retire s.cur pc w) := by
  unfold State.retire
  exact ((setSlot s _).trans (noteIssue _ _)).trans (countInstr _ _)

end Keeps

/-! The current place after an update -/

theorem State.slot_of_slots {s t : State} (l : Loc) (hc : ∀ n, (t.core n).slots = (s.core n).slots) (hq : ∀ n, (t.quay n).svc = (s.quay n).svc) :
    t.slot l = s.slot l := by
  unfold State.slot Quay.svcAt
  split <;> simp [hc, hq]

@[simp] theorem State.updThread_cur (s : State) (f : Thread → Thread) : (s.updThread f).cur = s.cur := by
  simp [State.updThread]

theorem State.updThread_thread (s : State) (f : Thread → Thread) {th : Thread} (h : s.thread = some th) : (s.updThread f).thread = some (f th) := by
  have hs : (s.slot s.cur).th = some th := h
  unfold State.thread State.curSlot
  rw [State.updThread_cur]
  unfold State.updThread
  rw [State.setSlot_slot_same s s.cur _ (by simp [hs])]
  simp [State.curSlot, hs]

@[simp] theorem State.disarm_cur (s : State) (c : Nat) : (s.disarm c).cur = s.cur := rfl

@[simp] theorem State.disarm_slot (s : State) (c : Nat) (l : Loc) : (s.disarm c).slot l = s.slot l := by
  refine State.slot_of_slots l (fun n => ?_) (fun _ => rfl)
  unfold State.disarm
  rw [State.updCore_core]
  split
  · rename_i e; rw [e]
  · rfl

@[simp] theorem State.corrupt_cur (s : State) (u : Upset) : (s.corrupt u).cur = s.cur := rfl

@[simp] theorem State.corrupt_slot (s : State) (u : Upset) (l : Loc) : (s.corrupt u).slot l = s.slot l := rfl

@[simp] theorem State.inject_cur (s : State) (c a p u : Nat) : (s.inject c a p u).cur = s.cur := by
  unfold State.inject; split <;> rfl

@[simp] theorem State.inject_slot (s : State) (c a p u : Nat) (l : Loc) : (s.inject c a p u).slot l = s.slot l := by
  unfold State.inject; split <;> simp

theorem State.inject_thread (s : State) (c a p u : Nat) : (s.inject c a p u).thread = s.thread := by
  simp [State.thread, State.curSlot]

@[simp] theorem State.rewrote_cur (s : State) (a p : Nat) (f : Nat → Bool) : (s.rewrote a p f).cur = s.cur := by
  unfold State.rewrote; split <;> rfl

@[simp] theorem State.rewrote_slot (s : State) (a p : Nat) (f : Nat → Bool) (l : Loc) : (s.rewrote a p f).slot l = s.slot l := by
  unfold State.rewrote; split <;> rfl

@[simp] theorem State.refill_cur (s : State) (c a p u : Nat) : (s.refill c a p u).cur = s.cur := by simp [State.refill]

@[simp] theorem State.refill_slot (s : State) (c a p u : Nat) (l : Loc) : (s.refill c a p u).slot l = s.slot l := by simp [State.refill]

/-- A change of a core that keeps its slots keeps every place. -/
theorem State.updCore_slot (s : State) (p : Nat) (f : Core → Core) (h : ∀ c, (f c).slots = c.slots) (l : Loc) : (s.updCore p f).slot l = s.slot l := by
  refine State.slot_of_slots l (fun n => ?_) (fun _ => rfl)
  rw [State.updCore_core]; split
  · rename_i e; rw [e, h]
  · rfl

@[simp] theorem State.print_cur (s : State) (l : Loc) (f : Fingerprint → Fingerprint) : (s.print l f).cur = s.cur := by
  unfold State.print; split
  · split <;> rfl
  · rfl

@[simp] theorem State.print_slot (s : State) (l : Loc) (f : Fingerprint → Fingerprint) (m : Loc) : (s.print l f).slot m = s.slot m := by
  unfold State.print; split
  · split
    · exact (State.updCore_slot _ _ _ (by intro _; rfl) m)
    · rfl
  · rfl

@[simp] theorem State.printPois_cur (s : State) (l : Loc) (p : Bool) : (s.printPois l p).cur = s.cur := by
  unfold State.printPois; split <;> rfl

@[simp] theorem State.printPois_slot (s : State) (l : Loc) (p : Bool) (m : Loc) : (s.printPois l p).slot m = s.slot m := by
  unfold State.printPois; split
  · exact (State.updCore_slot _ _ _ (by intro _; rfl) m)
  · rfl

@[simp] theorem State.printX_cur (s : State) (l : Loc) (r : Nat) (w : PWord) : (s.printX l r w).cur = s.cur := by simp [State.printX]

@[simp] theorem State.printX_slot (s : State) (l : Loc) (r : Nat) (w : PWord) (m : Loc) : (s.printX l r w).slot m = s.slot m := by simp [State.printX]

@[simp] theorem State.printWords_cur (s : State) (l : Loc) (ws : List Word) (p : Bool) : (s.printWords l ws p).cur = s.cur := by
  simp [State.printWords]

@[simp] theorem State.printWords_slot (s : State) (l : Loc) (ws : List Word) (p : Bool) (m : Loc) : (s.printWords l ws p).slot m = s.slot m := by
  simp [State.printWords]

@[simp] theorem State.noteIssue_cur (s : State) (l : Loc) : (s.noteIssue l).cur = s.cur := by
  unfold State.noteIssue; split
  · rfl
  · simp only; split <;> rfl

@[simp] theorem State.noteIssue_slot (s : State) (l m : Loc) : (s.noteIssue l).slot m = s.slot m := by
  unfold State.noteIssue
  split
  · rfl
  · simp only
    split
    · refine State.slot_of_slots m (fun _ => rfl) (fun n => ?_)
      rw [State.updQuay_quay]; split
      · rename_i e; rw [e]; rfl
      · rfl
    · refine State.slot_of_slots m (fun n => ?_) (fun _ => rfl)
      rw [State.updCore_core]; split
      · rename_i e; rw [e]; rfl
      · rfl

@[simp] theorem State.countInstr_cur (s : State) (c : Nat) : (s.countInstr c).cur = s.cur := rfl

@[simp] theorem State.countInstr_slot (s : State) (c : Nat) (m : Loc) : (s.countInstr c).slot m = s.slot m := by
  refine State.slot_of_slots m (fun n => ?_) (fun _ => rfl)
  unfold State.countInstr
  simp only
  rw [State.updCore_core]; split
  · rename_i e; rw [e]
  · rfl

/-- The slot of a thread whose instruction has retired: its windows count it, and the one that it opens is the youngest (R10, R17). -/
theorem State.retire_slot (s : State) (l : Loc) (pc : Word) (w : Option Window) (h : (s.slot l).th.isSome = true) :
    (s.retire l pc w).slot l = { (s.slot l).counted with
      th := (s.slot l).th.map fun t => { t with pc := pc }
      wins := (s.slot l).counted.wins ++ w.toList } := by
  unfold State.retire
  simp only [State.countInstr_slot, State.noteIssue_slot]
  rw [State.setSlot_slot_same s l _ h]
  rfl

@[simp] theorem State.retire_cur (s : State) (l : Loc) (pc : Word) (w : Option Window) : (s.retire l pc w).cur = s.cur := by
  simp [State.retire]

theorem State.retire_thread (s : State) (pc : Word) (w : Option Window) {th : Thread} (h : s.thread = some th) :
    (s.retire s.cur pc w).thread = some { th with pc := pc } := by
  have hs : (s.slot s.cur).th = some th := h
  unfold State.thread State.curSlot
  rw [State.retire_cur, State.retire_slot s s.cur pc w (by simp [hs])]
  simp [hs]

/-! Instructions that go on -/

/-- A thread's instruction that leaves `t`, retired. -/
theorem Goes.retire {base t : State} {th : Thread} (pc : Word) (k : Keeps base t) (h : t.thread = some th) :
    Goes base { th with pc := pc } (.next (t.retire base.cur pc none)) := by
  rw [← k.cur]
  exact ⟨_, rfl, State.retire_thread t pc none h, k.trans (Keeps.retire t pc none)⟩

/-- A thread's instruction that opens a window, retired. -/
theorem Opens.retire {s base t : State} {th : Thread} {h : Hdr} {maj : Nat} {latch : List LatchWrite} (pc : Word) (w : Window)
    (k : Keeps base t) (ht : t.thread = some th) (hw : t.curSlot.wins = s.curSlot.wins)
    (e : w.major = maj ∧ w.left = h.la.toNat ∧ w.latch = latch ∧ w.late = []) :
    Opens s base { th with pc := pc } maj h latch (.next (t.retire base.cur pc (some w))) := by
  rw [← k.cur]
  refine ⟨_, rfl, State.retire_thread t pc _ ht, k.trans (Keeps.retire t pc _), w, ?_, e⟩
  have hs : (t.slot t.cur).th = some th := ht
  unfold State.curSlot
  rw [State.retire_cur, State.retire_slot t t.cur pc _ (by simp [hs])]
  simp only [Slot.counted, Option.toList_some]
  unfold State.curSlot at hw
  rw [hw]

/-- The current thread changed, and its place's windows left as they are. -/
theorem State.updThread_wins (s : State) (f : Thread → Thread) {th : Thread} (h : s.thread = some th) :
    (s.updThread f).curSlot.wins = s.curSlot.wins := by
  have hs : (s.slot s.cur).th = some th := h
  unfold State.curSlot
  rw [State.updThread_cur]
  unfold State.updThread
  rw [State.setSlot_slot_same s s.cur _ (by simp [hs])]
  rfl

/-- write_x of R83 on the current thread. -/
@[simp] theorem run_writeX (code : BitVec 4) (w : PWord) (s : State) :
    writeX code w s = .ok ((), if code.toNat ≤ 9 then
        ((s.updThread fun t => t.writeX code w).refill s.here 5 s.here (threadUnit s.cur code.toNat)).printX s.cur code.toNat w
      else s.updThread fun t => t.writeX code w) := rfl

/-- Writing an X register changes the thread and nothing else. -/
theorem writeX_ok (code : BitVec 4) (w : PWord) (s : State) {th : Thread} (h : s.thread = some th) :
    ∃ t, writeX code w s = .ok ((), t) ∧ t.thread = some (th.writeX code w) ∧ Keeps s t ∧ t.curSlot.wins = s.curSlot.wins := by
  have hu := State.updThread_thread s (fun t => t.writeX code w) h
  have hk := Keeps.updThread s (fun t => t.writeX code w)
  have hw := State.updThread_wins s (fun t => t.writeX code w) h
  rw [run_writeX]
  by_cases c : code.toNat ≤ 9
  · rw [if_pos c]
    refine ⟨_, rfl, ?_, hk.trans ((Keeps.refill _ _ _ _ _).trans (Keeps.printX _ _ _ _)), ?_⟩
    · simpa [State.thread, State.curSlot] using hu
    · simpa [State.curSlot] using hw
  · rw [if_neg c]
    exact ⟨_, rfl, hu, hk, hw⟩

/-- Writing a predicate changes the thread and nothing else. -/
theorem writeP_ok (i : Nat) (b : Bool) (s : State) {th : Thread} (h : s.thread = some th) :
    ∃ t, writeP i b s = .ok ((), t) ∧ t.thread = some (th.setP i b) ∧ Keeps s t ∧ t.curSlot.wins = s.curSlot.wins := by
  have hu := State.updThread_thread s (fun t => t.setP i b) h
  have hw := State.updThread_wins s (fun t => t.setP i b) h
  refine ⟨_, rfl, ?_, (Keeps.updThread s (fun t => t.setP i b)).trans (Keeps.printWords _ _ _ _), ?_⟩
  · simpa [State.thread, State.curSlot] using hu
  · simpa [State.curSlot] using hw

end Sys2Proof.Machine
end

