-- ==== Sys2Proof/Laws/Stored.lean ====
section
/-!
SUPPORT. The wider writes of memory, sectors under a key and ranges put back, keep its canonical form.
-/

namespace Sys2Proof.Machine

/-- Cells written one after another keep the canonical form, in whatever order they come. -/
theorem Memory.wf_writes (m : Memory) (cells : List (Nat × Byte)) (h : m.wf = true) :
    Memory.wf (cells.foldl (fun t c => Memory.write t c.1 c.2) m) = true := by
  induction cells generalizing m with
  | nil => simpa using h
  | cons c t ih => exact ih _ (Memory.wf_write m c.1 c.2 h)

theorem Memory.wf_replace (m : Memory) (lo hi : Nat) (cells : List (Nat × Byte)) (h : m.wf = true) : (m.replace lo hi cells).wf = true :=
  Memory.wf_writes _ cells (Memory.wf_filter m _ h)

theorem wf_sectorStore (key : List Nat) (m : Memory) (u : Nat) (bytes : List Byte) (h : m.wf = true) : (sectorStore key m u bytes).wf = true :=
  Memory.wf_writeN m u _ h

/-- A fold whose steps keep the canonical form keeps it. -/
theorem Memory.wf_foldl {α : Type} (f : Memory → α → Memory) (hf : ∀ m a, m.wf = true → (f m a).wf = true) (l : List α) (m : Memory)
    (h : m.wf = true) : (l.foldl f m).wf = true := by
  induction l generalizing m with
  | nil => exact h
  | cons a t ih => exact ih _ (hf m a h)

theorem wf_patchKeyed (key : List Nat) (p : Nat) (l : Patch) (m : Memory) (h : m.wf = true) : (patchKeyed key p l m).wf = true := by
  refine Memory.wf_foldl _ (fun m u hm => ?_) _ m h
  split
  · exact wf_sectorStore key m u _ hm
  · exact hm

theorem State.wf_putPlain (s : State) (slot a : Nat) (p : PageImage) (h : s.mem.wf = true) : (s.putPlain slot a p).wf = true := by
  unfold State.putPlain
  split
  · exact Memory.wf_replace _ _ _ _ h
  · exact Memory.wf_foldl _ (fun m k hm => wf_sectorStore _ m _ _ hm) _ _ h

end Sys2Proof.Machine
end

