-- ==== Sys2Proof/Tests/Slice0.lean ====
section
/-!
SUPPORT. Tests: encodings written out from the manual, one step on small states, and witnesses that the hypotheses of the statements can be met.
-/

namespace Sys2Proof.Tests

open Sys2Proof Sys2Proof.Machine

set_option Elab.async false

/-! Events: one move each on a small state (sources: the rules named) -/

/-- What an outcome's next state meets. -/
def ok (o : Out) (p : State → Bool) : Bool :=
  match o with
  | .next t => p t
  | _ => false

/-- Reset with a context, its rank 0 on core 0, and rank 1 on core 32 of another quay. -/
def live : State := (State.reset.updCtx 1 fun c =>
  { c with state := 1, gen := 5, ranks := [(0, { state := 1, phys := 0 }), (1, { state := 1, phys := 32 })], fqvec := 9, desc := { fqbase := 0x20000000 } }).updCore 0 fun c =>
  { c with owner := some 1 }

/-- A packet of context 1 to its rank 0. -/
def pkt (k : PKind) : Packet := { src := 32, origin := 1, ctx := 1, gen := 5, colour := false, rank := 0, marker := none, kind := k }

/-- The state with one packet on the way. -/
def withPkt (s : State) (k : PKind) : State := { s with net := [pkt k] }

/-- A task of context 1 on rank 0. -/
def task1 : Thread := { ctx := 1, status := 1, pc := 0x1000 }

-- R305: QCTL arms a disarmed queue: HEAD and TAKEN 0, EGEN 1, CQTAIL 0, phase 1
theorem test_qctlWrite_arms : ok (exec (.qctlWrite 3 0x0000_0053_0000_0000) (State.reset.updQueue 3 fun q => { q with head := 4, egen := 7 }))
    (fun t => (t.queue 3).armed && (t.queue 3).priv && (t.queue 3).head == 0 && (t.queue 3).egen == 1 && (t.queue 3).ctx == 5) = true := by decide +kernel
-- R305: LGC takes 0 or 4 to 12 only
theorem test_qcqWrite_bad_size : ok (exec (.qcqWrite 0 0x1234_5D00) (State.reset.updQueue 0 fun q => { q with lgc := 6 }))
    (fun t => (t.queue 0).lgc == 6 && (t.queue 0).cqbase == 0x1234_5000) = true := by decide +kernel
-- R305: CNT and TMR of 0 read as 1 and 8
theorem test_qintWrite_zero : ok (exec (.qintWrite 0 7) State.reset)
    (fun t => (t.queue 0).cnt == 1 && (t.queue 0).tmr == 8 && (t.queue 0).vec == 7) = true := by decide +kernel
theorem test_qcqhWrite : ok (exec (.qcqhWrite 2 0x1_0000_0005) State.reset) (fun t => (t.queue 2).cqhead == 5) = true := by decide +kernel
-- R317: a waiting record is written when HEAD makes room
theorem test_fqheadWrite_waiting : ok (exec (.fqheadWrite 1 1) (live.updCtx 1 fun c =>
      { c with fqtail := 16, parked := [{ n := none, item := .none, bytes := rep 32 7#8, pri := none }] }))
    (fun t => (t.ctx 1).fqtail == 17 && t.mem.readN 0x20000000 32 == rep 32 7#8 && t.msix == [9]) = true := by decide +kernel
-- R409: CLEAR clears the selected log
theorem test_errselWrite_clear : ok (exec (.errselWrite 1 0x0510) (State.reset.updDie 1 fun d => { d with logs := [(5, { overflow := 3 })] }))
    (fun t => (t.die 1).errsel == 0x0500 && Tab.get {} 5 (t.die 1).logs == {}) = true := by decide +kernel
-- R410: classes above 9 take no KIND
theorem test_errinjWrite : ok (exec (.errinjWrite 4 0x0A03) State.reset) (fun t => (t.core 4).errinj == 0x0A00) = true := by decide +kernel
-- R430: CAP is held between 2400 and 4400
theorem test_pwrctlWrite_clamps : ok (exec (.pwrctlWrite 100) State.reset) (fun t => t.fw.cap == 2400) = true := by decide +kernel
-- R266: a quantum that is no multiple of 2048 is refused
theorem test_registerWrite_quantum : ok (exec (.registerWrite (.quantum 1 2) 3000) State.reset) (fun t => (t.quay 1).quanta == [16384, 8192, 4096, 2048]) = true := by
  decide +kernel
theorem test_registerWrite_owner : ok (exec (.registerWrite (.channelOwner 1 2) 0x1003) State.reset) (fun t => ((t.quay 1).chan 2).owner == some 3) = true := by
  decide +kernel
-- R304: the reserved part of the control region drops host writes
theorem test_hostMemoryWrite_reserved : ok (exec (.hostMemoryWrite (.bytes 0x04FFFFFF [1, 2])) State.reset)
    (fun t => t.mem.read 0x04FFFFFF == 1 && t.mem.read 0x05000000 == 0) = true := by decide +kernel
theorem test_slateGrant : ok (exec (.slateGrant 7 3) (State.reset.updSlate 7 fun x => { x with stat := 2 }))
    (fun t => (t.slate 7).alloc && (t.slate 7).ctx == 3 && (t.slate 7).stat == 0) = true := by decide +kernel
-- R429: SLOT outside 1 to 127 keeps the old slot; KEYDATA reads 0 after LOAD
theorem test_keyLoad : ok (exec (.keyLoad 200) { State.reset with fw := { keydata := rep 8 5#64 } })
    (fun t => Tab.find 1 t.fw.keys == some (rep 8 5#64) && t.fw.keydata == rep 8 0#64) = true := by decide +kernel
theorem test_keyErase : ok (exec (.keyErase 4) { State.reset with fw := { keys := [(4, rep 8 5#64)] } }) (fun t => t.fw.keys == []) = true := by decide +kernel
-- R425: a context in use refuses PATCH with ERR 1; zeros at FWADDR are no image, ERR 2
theorem test_patch_busy : ok (exec .patch live) (fun t => t.fw.err == 1) = true := by decide +kernel
theorem test_patch_no_image : ok (exec .patch State.reset) (fun t => t.fw.err == 2) = true := by decide +kernel
-- R412: device reset keeps memory, which holds the retained snapshots, and ends the fatal stop
theorem test_deviceReset : ok (exec .deviceReset { live with mem := [(5, 1), (2 ^ 64, 2)], fatal := true })
    (fun t => t.mem.read 5 == 1 && t.mem.read (2 ^ 64) == 2 && !t.fatal && (t.ctx 1).state == 0) = true := by decide +kernel
-- R420, R421: the smallest of the 8 slacks below LOW raises the offset; at VMAX the quay is degraded
/-- The turn of quay 2 of die 0 to be sampled. -/
def turn2 : State := State.reset.updDie 0 fun d => { d with marginNext := 2 }
theorem test_marginSample_raise : ok (exec (.marginSample 2 [300, 90, 10, 50, 60, 70, 80, 90]) { turn2 with fw := { active := { plan := rep 3 { low := 20, high := 40, vmax := 2 } } } })
    (fun t => (t.quay 2).offset == 1 && (t.quay 2).slack == 10) = true := by decide +kernel
theorem test_marginSample_degrade : ok (exec (.marginSample 2 [10, 11, 12, 13, 14, 15, 16, 17]) { turn2 with fw := { active := { plan := rep 3 { low := 20, high := 40, vmax := 0 } } } })
    (fun t => (t.quay 2).degraded && (t.core 65).degraded && t.fw.flash.degraded == [2]) = true := by decide +kernel
-- R431: above CAP the clock falls one step
theorem test_clockAdjust_down : ok (exec (.clockAdjust 4500) State.reset) (fun t => t.fw.clk == 19 && t.fw.pwrnow == 4500) = true := by decide +kernel
-- R432: an idle core is gated after 100 µs and wakes
theorem test_corePowerGate : ok (exec (.corePowerGate 5) { State.reset with time := 100 * microUnits }) (fun t => (t.core 5).gated) = true := by decide +kernel
-- R215: increments of a gated core wait in its quay core's shadow and are restored when it wakes
theorem test_coreWake : ok (exec (.coreWake 0) (((live.updCore 0 fun c => { c with gated := true, wake := some 0 }).updQuay 0 fun q =>
      { q with shadow := [(0, pkt (.inc 4 none))] })))
    (fun t => !(t.core 0).gated && ((t.core 0).berth 4).count == 1 && (t.quay 0).shadow == []) = true := by decide +kernel

/-! Packets -/

-- R212: an increment at 0xFFFFFFFF sets OVF
theorem test_berthIncrementArrival_top : ok (exec (.berthIncrementArrival 0) (withPkt (live.updCore 0 fun c =>
      c.updBerth 3 fun b => { b with count := 0xFFFFFFFF }) (.inc 3 none)))
    (fun t => ((t.core 0).berth 3).ovf && ((t.core 0).berth 3).count == 0xFFFFFFFF && t.net == []) = true := by decide +kernel
-- R213, R217: it wakes the waiter that it satisfies
theorem test_berthIncrementArrival_wakes : ok (exec (.berthIncrementArrival 0) (withPkt (live.updCore 0 fun c =>
      c.updBerth 3 fun b => { b with count := 1, waiters := [{ th := task1, kind := .wait 2 false, woken := none }] }) (.inc 3 none)))
    (fun t => (t.core 0).woke.map Prod.snd == [task1] && ((t.core 0).berth 3).count == 0 && (slotAt (t.core 0).slots 0).th == none && (slotAt (t.core 0).betweenCycles.slots 0).th == some task1) = true := by decide +kernel
-- R220: the last arrival at a berth that is not ROOT sends the outward arrival to (rank 1, berth 7)
theorem test_barrierArrival_outward : ok (exec (.barrierArrival 0) (withPkt (live.updCore 0 fun c =>
      c.updBerth 3 fun b => { b with kind := 3, cfg := 0xC000_1000_0700_0001#64 }) (.inc 3 none)))
    (fun t => ((t.core 0).berth 3).pending && t.net.map (fun p => (p.rank, p.kind)) == [(1, .inc 7 (some { rank := 0, berth := 3 }))]) = true := by decide +kernel
theorem test_barrierRelease : ok (exec (.barrierRelease 0) (withPkt (live.updCore 0 fun c =>
      c.updBerth 3 fun b => { b with kind := 3, cfg := 0xC000_1000_0700_0001#64, pending := true, gen := 255, origins := [{ rank := 1, berth := 9 }] }) (.release 3)))
    (fun t => ((t.core 0).berth 3).gen == 0 && t.net.map (fun p => (p.rank, p.kind)) == [(1, .release 9)]) = true := by decide +kernel
-- R103: a trapped context takes a free service slot
theorem test_serviceArrival : ok (exec (.serviceArrival 0) (withPkt live (.context 2 task1)))
    (fun t => ((t.quay 0).svcAt 0).slot.th == some task1) = true := by decide +kernel
-- R195, R199: a context takes the lowest free slot in the next cycle, after a refresh
theorem test_contextArrival : ok (exec (.contextArrival 0) (withPkt (live.updCore 0 fun c => { c with pins := [{ home := 0, va := 0, data := 0, pois := 0 }] }) (.context 1 task1)))
    (fun t => (slotAt (t.core 0).slots 0).th == none && (slotAt (t.core 0).betweenCycles.slots 0).th == some task1 && (t.core 0).betweenCycles.pins == []) = true := by decide +kernel
-- R219: the payload is placed, then the berth counts it
theorem test_messagePlacement : ok (exec (.messagePlacement 0) (withPkt live (.place 3 0x00FFFFFFFFFC0040 [1, 2, 3, 4, 5, 6, 7, 8] [] 2 0 none)))
    (fun t => t.mem.readN (spadHome 0 0x40) 8 == [1, 2, 3, 4, 5, 6, 7, 8] && ((t.core 0).berth 3).count == 1) = true := by decide +kernel
theorem test_messagePlacement_quay_scope : ok (exec (.messagePlacement 0) (withPkt live (.place 3 0x00FFFFFFFFFC003C [1, 2, 3, 4, 5, 6, 7, 8] [] 0 0 none)))
    (fun t => t.mem.readN (spadHome 0 0x3C) 8 == [1, 2, 3, 4, 5, 6, 7, 8] && ((t.core 0).berth 3).count == 1) = true := by decide +kernel
-- R225, R226: slots of 32 bytes from BASE 16 × 2; the message is cut at the slot
theorem test_channelLanding : ok (exec (.channelLanding 0) (withPkt (live.updCore 0 fun c =>
      c.updBerth 3 fun b => { b with kind := 1, cfg := 0x4002_0020_0000_0000#64, widx := 1 }) (.chan 3 24 (rep 24 9#8) [] 2 0)))
    (fun t => t.mem.readN (spadHome 0 64) 16 == [24, 0, 0, 0, 1, 0, 0, 0, 1, 0, 0, 0, 1, 0, 0, 0] && t.mem.readN (spadHome 0 80) 17 == rep 16 9#8 ++ [0]
      && ((t.core 0).berth 3).widx == 2 && ((t.core 0).berth 3).count == 1) = true := by decide +kernel
-- R271: an aborted copy ends, and its CTAG counts
theorem test_lighterAbort : ok (exec (.lighterAbort 0) { live.updQuay 0 (fun q => q.updChan 2 fun c => { c with owner := some 1, copies := [{
      kick := { value := 0, core := 0, rank := 0, ctx := 1, gen := 5, task := { launch := 0, taskid := 0 }, copyout := false, serial := 1 }, t := { ctag := 6, drank := 1 } }] })
      with net := [{ pkt (.abort 0 2) with rank := 2 ^ 25 }] })
    (fun t => ((t.quay 0).chan 2).copies == [] && t.net.map (fun p => (p.rank, p.kind)) == [(1, .inc 6 none)]) = true := by decide +kernel
-- R370: a count of 1 that is lowered reclaims a leaf
theorem test_caDecrementArrival : ok (exec (.caDecrementArrival 0) { live with
      ca := [{ dom := 2, sl := 0x50100, data := [], pois := false, count := 1, pinned := false, removed := false },
             { dom := 3, sl := 0x50100, data := [], pois := false, count := 1, pinned := false, removed := false }]
      net := [{ pkt (.caDec 2 0x50100) with rank := 2 ^ 24 + 5 }] })
    (fun t => t.ca.map (·.dom) == [3]) = true := by decide +kernel
theorem test_flushMarkerArrival : ok (exec (.flushMarkerArrival { core := 8, path := 1 } 6) State.reset) (fun t => t.markers == [(8, 1, 6)]) = true := by decide +kernel

/-! Cores and engines -/

/-- A window of a latch that writes X1. -/
def win1 : Window := { major := 0x50, left := 3, done := false, decided := true, latch := [.x 1 { v := 7, p := false }], late := [], refresh := false, tag := 0 }

/-- A thread in slot 0 of core 0. -/
def inSlot (th : Thread) (s : State) : State := s.updCore 0 fun c => { c with slots := setNth { th := some th } 0 c.slots }

-- R17: the oldest operation that has not completed completes
theorem test_longOperationComplete : ok (exec (.longOperationComplete { svc := false, unit := 0, slot := 0 })
      (live.updCore 0 fun c => { c with slots := [{ th := some task1, wins := [{ win1 with done := true }, win1, win1] }] }))
    (fun t => (slotAt (t.core 0).slots 0).wins.map (·.done) == [true, true, false]) = true := by decide +kernel
-- R198
theorem test_threadRotation : ok (exec (.threadRotation 0 0) (live.updCore 0 fun c => { c with
      issuedAt := some 0, slots := [{ th := some task1, count := 4096 }], queue := [{ task1 with rank := 1 }] }))
    (fun t => (slotAt (t.core 0).slots 0).th == some { task1 with rank := 1 } && (t.core 0).queue == [task1]) = true := by decide +kernel
/-- A store entry of HBM line 0x1000 that writes byte 2. -/
def entry1 : QEntry := { piece := 0x1000, ctx := 1, core := 4096, colour := false, op := .store 4#64 0x55_0000#512 0 }
-- R232: at QUAY scope an HBM line stops at the quay merge buffer
theorem test_publishComplete : ok (exec (.publishComplete 0) (live.updCore 0 fun c => { c with pq := [entry1, entry1], pubs := [{ scope := 0, n := 1 }] }))
    (fun t => (t.core 0).pq == [entry1] && (t.quay 0).merge == [{ line := 0x1000, ops := [entry1] }] && t.mem == []) = true := by decide +kernel
-- R234: it drains to the home on its own die, and to the die buffer from another die
theorem test_mergeBufferDrain_home : ok (exec (.mergeBufferDrain 0 0 0x1000) (live.updQuay 0 fun q => { q with merge := [{ line := 0x1000, ops := [entry1] }] }))
    (fun t => t.mem == [(0x1002, 0x55)] && (t.quay 0).merge == []) = true := by decide +kernel
theorem test_mergeBufferDrain_die : ok (exec (.mergeBufferDrain 0 16 0x1000) (live.updQuay 16 fun q => { q with merge := [{ line := 0x1000, ops := [entry1] }] }))
    (fun t => t.mem == [] && (t.die 1).merge == [{ line := 0x1000, ops := [entry1] }]) = true := by decide +kernel

/-- A copy of 40 bytes from offset 0x100 to offset 0x200 of quay 0's shared memory, with PTAG 3 and CTAG 4 of rank 1. -/
def copy1 : Copy :=
  { kick := { value := 0, core := 0, rank := 0, ctx := 1, gen := 5, task := { launch := 0, taskid := 0 }, copyout := false, serial := 1 }
    t := { src := 0x00FD000000000100, dst := 0x00FD000000000200, rowbytes := 40, rows := 1, drank := 1, ptag := 3, ctag := 4 } }

/-- A channel of quay 0 with copies. -/
def withCopies (cs : List Copy) (s : State) : State := s.updQuay 0 fun q => { q with chans := [(2, { owner := some 1, copies := cs })] }

-- R266: one chunk is sent; the class has no more, so its deficit is cleared
theorem test_chunkSend : ok (exec (.chunkSend 0) (withCopies [copy1] live))
    (fun t => ((t.quay 0).chan 2).copies == [{ copy1 with next := 1, flight := [{ j := 0 }] }] && (t.quay 0).deficit == [0, 0, 0, 0] && (t.quay 0).drrClass == 1) = true := by
  decide +kernel
-- R263, R267: the chunk lands, then PTAG and CTAG count, and the copy leaves
theorem test_chunkLanded : ok (exec (.chunkLanded 0 2 0) { withCopies [{ copy1 with next := 1, flight := [{ j := 0 }] }] live with mem := [(quayHome 0 0x100, 1), (quayHome 0 0x127, 2)] })
    (fun t => t.mem.read (quayHome 0 0x200) == 1 && t.mem.read (quayHome 0 0x227) == 2 && t.net.map (·.kind) == [.inc 3 none, .inc 4 none]
      && ((t.quay 0).chan 2).copies == []) = true := by decide +kernel
/-- A participant of an I32 SUM. -/
def node1 (n v : Nat) : CollNode :=
  { node := n, rank := n, op := 0, red := 0, ty := 2, count := 1, src := 0, dst := 0, ptag := 0, loaded := true, parts := [(n, [(v, false)])] }
-- R280
theorem test_collectivePartialArrival : ok (exec (.collectivePartialArrival 9 0 1) (live.updDie 0 fun d => { d with
      colls := [{ opid := 9, ctx := 1, parents := [0xFFFF, 0, 0], ranks := [0, 1, 2], nodes := [node1 0 0xFFFFFFFF, node1 1 3] }] }))
    (fun t => (t.die 0).colls.flatMap (fun o => o.nodes.map (·.parts)) == [[(0, [(2, false)])], [(1, [(3, false)])]]) = true := by decide +kernel

/-- ASWAP as the repetition buffer captures it. -/
def aswapWord : Nat := (encode (.aswap { la := 0, gn := 0, gp := 0 } { d := 0, a := 0, b := 0, sz := 0, fl := 0, imm := 0 })).getD 0
/-- A sequence of two iterations of ASWAP of the thread in slot 0. -/
def seq1 : State := inSlot { task1 with array := true } (live.updCore 0 fun c => { c with rpt := { owner := some task1.task, running := true, n := 2, body := [{ word := aswapWord, pc := 0x2000 }] } })
-- R275
theorem test_sequenceInstruction : ok (exec (.sequenceInstruction 0) seq1)
    (fun t => (t.core 0).arr.role == 1 && (t.core 0).rpt.iter == 1 && (t.core 0).rpt.pos == 0 && (slotAt (t.core 0).slots 0).th == some { task1 with array := true }) = true := by
  decide +kernel

/-- A DRAW of one participant whose thread is in slot 0 of core 0. -/
def draw1 : DrawReq :=
  { node := 0, nth := 0, task := task1.task, loc := { svc := false, unit := 0, slot := 0 }, ctx := 1, rank := 0, pc := 0x1000, serial := 3, xd := 1, xs := 2,
    logits := 0, first := 0, count := 1, fmt := 0, parents := [0xFFFF], ranks := [0], invT := 0 }
-- R346, R347: a forced token: CODE 1, ORIGIN 2, one token left
theorem test_drawLock_forced : ok (exec (.drawLock 7) ((live.updSlate 7 fun x => { x with
      alloc := true, ctx := 1, vocab := 1000, draws := [draw1], fq := [(77, 2), (78, 0)] }).updCore 0 fun c => { c with
      slots := [{ th := some task1, wins := [{ win1 with major := 0x70, decided := false, latch := [], tag := 3 }], stall := some .windowResult }] }))
    (fun t => (t.slate 7).fq == [(78, 0)] && (t.slate 7).step == 1 && (slotAt (t.core 0).slots 0).stall == none
      && (slotAt (t.core 0).slots 0).wins.map (·.latch) == [[.x 1 { v := 77, p := false }, .x 2 { v := 0x601, p := false }]]) = true := by decide +kernel

/-- A 64 KiB page of context 1. -/
def page1 : Pte := { codePage with va := 0x20000, frame := 0x30000 }
-- R313: the walk sets accessed and lets a thread go that waits at another address of its leaf granule
theorem test_pageWalkComplete : ok (exec (.pageWalkComplete 0 1 0x20010) ((live.updCtx 1 fun c => { c with ptes := [page1] }).updCore 0 fun c =>
      { c with slots := [{ th := some task1, stall := some (.walk 0x2F000) }] }))
    (fun t => (t.ctx 1).ptes == [{ page1 with accessed := true }] && (slotAt (t.core 0).slots 0).stall == none && (slotAt (t.core 0).slots 0).granted) = true := by
  decide +kernel

/-- Slot 0 of core 0 waits for another agent at an instruction of context 1's code page. -/
def waiting (i : Instr) (th : Thread) (s : State) : State :=
  ((s.updCtx 1 fun c => { c with ptes := [codePage] }).updCore 0 fun c =>
    { c with slots := [{ th := some { th with pc := BitVec.ofNat 64 codeBase }, stall := some .request }],
             ibuf := [(codeBase / 32, toBytes 32 ((encode i).getD 0))] })
/-- A machine whose replies all come at once. -/
def served (s : State) (mem : Memory) : State := { s with mem := mem, prompt := false }
def loc0 : Loc := { svc := false, unit := 0, slot := 0 }
def hdr0 : Hdr := { la := 0, gn := 0, gp := 0 }
/-- The latches of slot 0's windows. -/
def latches (t : State) : List (List LatchWrite) := (slotAt (t.core 0).slots 0).wins.map (·.latch)
-- R172: an anchored thread's LD of rank 1's scratchpad at offset 8
theorem test_remoteScratchpadAccess : ok (exec (.remoteScratchpadAccess loc0) (served (waiting (.ld hdr0 { d := 1, a := 2, b := 11, sz := 0, fl := 0, imm := 8 })
      ({ task1 with status := 0x11 }.setX 2 { v := 0x00FE000000040000, p := false }) live) [(spadHome 32 8, 0x2A)]))
    (fun t => latches t == [[.x 1 { v := 0x2A, p := false }]]) = true := by decide +kernel
-- R183: AADD on quay shared memory
theorem test_atomicPerformed : ok (exec (.atomicPerformed loc0) (served (waiting (.aadd hdr0 { d := 1, a := 2, b := 11, sz := 0, fl := 0, imm := 5 })
      (task1.setX 2 { v := 0x00FD000000000010, p := false }) live) [(quayHome 0 0x10, 0xFF)]))
    (fun t => latches t == [[.x 1 { v := 0xFF, p := false }]] && t.mem.readN (quayHome 0 0x10) 2 == [4, 1]) = true := by decide +kernel
-- R340: SLR of S3
theorem test_slateRequestAtSlate : ok (exec (.slateRequestAtSlate loc0) (served (waiting (.slr hdr0 { d := 1, a := 2, b := 0, sz := 0, fl := 0, imm := 3, tail := 0 })
      (task1.setX 2 { v := 7, p := false }) (live.updSlate 7 fun x => { x with alloc := true, ctx := 1, s := Vector.ofFn fun i => if i = 3 then 99 else 0 })) []))
    (fun t => latches t == [[.x 1 { v := 99, p := false }]]) = true := by decide +kernel
-- R376: RETAIN counts the line of the seal at scratchpad offset 0
theorem test_caRequestAtHome : ok (exec (.caRequestAtHome loc0) (served (waiting (.retain hdr0 { d := 1, a := 2, b := 0, sz := 0, fl := 0, imm := 0, tail := 0 })
      (task1.setX 2 { v := 0x00FFFFFFFFFC0000, p := false }) { live with ca := [{ dom := 0, sl := 0x50100, data := [], pois := false, count := 1, pinned := false, removed := false }] })
      [(spadHome 0 1, 1), (spadHome 0 2, 5)]))
    (fun t => latches t == [[.x 1 { v := 2, p := false }]] && t.ca.map (·.count) == [2]) = true := by decide +kernel
-- R403, R408: a scratchpad unit is poisoned and logged as contained
theorem test_uncorrectableError_spad : ok (exec (.uncorrectableError 1 0 0x13) live)
    (fun t => t.poison == [spadHome 0 0x10] && t.aer == [2] && (Tab.get {} 1 (t.die 0).logs).entries.map (fun e => (e.cls, e.ctx, e.place)) == [(2, 1, 0)]) = true := by
  decide +kernel
theorem test_uncorrectableError_fatal : ok (exec (.uncorrectableError 12 3 0) live) (fun t => t.fatal && t.aer == [3]) = true := by decide +kernel
-- R407
theorem test_patrolScrub : ok (exec (.patrolScrub 0x105 true) live) (fun t => t.poison == [0x100] && t.aer == [2]) = true := by decide +kernel
/-- Core 0 paired, with an interval under way. -/
def paired0 (up : Bool) : State := (live.updGang 0 fun g => { g with paired := true }).updCore 0 fun c => { c with
  vregs := [(0, 5)], pair := { retired := 3, upset := up, gate := [pkt (.inc 1 none)], inbound := [pkt (.inc 2 none)], vregs := [(0, 4)] } }
-- R416: agreement sends the gated packets; R417: disagreement takes the checkpoint back
theorem test_pairIntervalEnd_agree : ok (exec (.pairIntervalEnd 0) (paired0 false))
    (fun t => t.net.map (·.kind) == [.inc 1 none] && (t.core 0).pair.agreed == 1 && (t.core 0).vregs == [(0, 5)]) = true := by decide +kernel
theorem test_pairIntervalEnd_disagree : ok (exec (.pairIntervalEnd 0) (paired0 true))
    (fun t => t.net.map (·.kind) == [.inc 2 none] && (t.core 0).pair.run == 1 && (t.core 0).vregs == [(0, 4)]) = true := by decide +kernel
/-! Front ends and contexts -/

/-- A 128-byte command: fields (offset, bytes, value), and the generation byte 1. -/
def command (fs : List (Nat × Nat × Nat)) : Nat := (fs.map fun f => f.2.2 % 2 ^ (8 * f.2.1) * 2 ^ (8 * f.1)).sum + 2 ^ (8 * 127)
/-- Queue 3 of context 1 with a command in slot 0. -/
def offer (priv : Bool) (s : State) (fs : List (Nat × Nat × Nat)) : State :=
  { s.updQueue 3 (fun q => { q with armed := true, priv := priv, ctx := 1, egen := 1, head := 0 }) with mem := s.mem.writeN (128 * 16 * 3) (toBytes 128 (command fs)) }
/-- The outcome record of queue 3's slot 0: STATUS, CODE and LTAG. -/
def outcome (t : State) : List Nat := (t.mem.readN (0x04000000 + 32 * 16 * 3) 4).map (·.toNat)
/-- The fields of a grid of one task on rank 0. -/
def grid1 : List (Nat × Nat × Nat) := [(0, 1, 0), (1, 1, 1), (2, 1, 8), (12, 2, 0x77), (16, 8, 0x5_0000_0001), (80, 8, 0x4000), (88, 8, 0x1234)]
def launched : State := match exec (.launchCommand 3) (offer false live grid1) with | .next t => t | _ => live
def validated : State := match exec (.launchValidation 0) launched with | .next t => t | _ => live
/-- A cycle later, its front end is free. -/
def dispatching : State := { validated with cycle := validated.cycle + 1 }

-- R306: a record becomes a launch
theorem test_launchCommand : ok (exec (.launchCommand 3) (offer false live grid1)) (fun t => (t.queue 3).head == 1 && (t.queue 3).taken == 1
      && t.launches.map (fun l => (l.2.rcd.entry, l.2.rcd.arg, l.2.rcd.ltag)) == [(0x4000, 0x1234, 0x77)]) = true := by decide +kernel
theorem test_launchCommand_unknown : ok (exec (.launchCommand 3) (offer false live [(0, 1, 0x84), (12, 2, 0x77)]))
    (fun t => outcome t == [0x20, 0, 0x77, 0] && t.launches == []) = true := by decide +kernel
theorem test_cancel_none : ok (exec (.cancel 3) (offer false live [(0, 1, 0x80)])) (fun t => outcome t == [0, 0, 0, 0] && (t.queue 3).head == 1) = true := by decide +kernel
theorem test_cancel_one : ok (exec (.cancel 3) (offer false launched [(0, 1, 0x80), (18, 2, 0x77)])) (fun t => t.launches.map (fun l => (l.2.cancelled, l.2.todo)) == [(true, [])]) = true := by
  decide +kernel
theorem test_resolve_none : ok (exec (.resolve 3) (offer false live [(0, 1, 0x81), (16, 8, 5)])) (fun t => outcome t == [0x21, 0, 0, 0]) = true := by decide +kernel
/-- A message that waits for its page. -/
def parkedPlace : Parked := { n := some 5, item := .place (pkt (.place 4 0x20000 [1, 2, 3, 4, 5, 6, 7, 8] [] 1 6 none)), bytes := rep 32 0, pri := none }
theorem test_resolve_fail : ok (exec (.resolve 3) (offer false (live.updCtx 1 fun c => { c with parked := [parkedPlace] }) [(0, 1, 0x81), (16, 8, 5), (24, 1, 1)]))
    (fun t => outcome t == [0, 0, 0, 0] && (t.ctx 1).parked == []) = true := by decide +kernel
theorem test_rpcReply : ok (exec (.rpcReply 3) (offer false live [(0, 1, 0x82), (16, 4, 1), (20, 2, 9), (22, 2, 5), (24, 8, 0x20000), (32, 1, 8), (40, 8, 0xAB)]))
    (fun t => t.net.map (fun p => (p.rank, p.gen, p.src)) == [(1, 5, 16384)] && t.net.map (·.kind) == [.place 9 0x20000 [0xAB, 0, 0, 0, 0, 0, 0, 0] [] 1 0 (some { q := 3, slot := 0, taken := 0, ltag := 0 })]) = true := by
  decide +kernel
/-- A core with a translation of context 1. -/
def withTlb (s : State) : State := s.updCore 0 fun c => { c with tlb := [{ ctx := 1, pte := codePage }, { ctx := 2, pte := codePage }] }
theorem test_inval : ok (exec (.inval 3) (offer true (withTlb live) [(0, 1, 0x83), (16, 8, 0x10000000), (24, 1, 16)]))
    (fun t => outcome t == [0, 0, 0, 0] && ((t.core 0).tlb.map (·.ctx)) == [2]) = true := by decide +kernel
theorem test_inval_unprivileged : ok (exec (.inval 3) (offer false (withTlb live) [(0, 1, 0x83), (16, 8, 0x10000000), (24, 1, 16)]))
    (fun t => outcome t == [0x23, 0, 0, 0] && (t.core 0).tlb.length == 2) = true := by decide +kernel
-- R311: the entry's phase bit, and the phase that turns when the ring wraps
theorem test_completionQueueFlush : ok (exec (.completionQueueFlush 3) (live.updQueue 3 fun q => { q with armed := true, held := [{ slot := 2, status := 3, ltag := 0x77, code := 0, taken := 18, at_ := 0 }], lgc := 4, cqbase := 0x1000, cqtail := 15, cqhead := 15, vec := 6 }))
    (fun t => (t.queue 3).held == [] && (t.queue 3).cqtail == 16 && (t.queue 3).phase == false && t.msix == [6]
      && (t.mem.readN (2 ^ 64 + 0x10F0) 16).map (·.toNat) == [3, 0x80, 2, 3, 0x77, 0, 0, 0, 18, 0, 0, 0, 0, 0, 0, 0]) = true := by decide +kernel
-- R286: a record that breaks a limit; a legal one is placed and leaves its queue
theorem test_launchValidation_bad : ok (exec (.launchValidation 0) { launched with launches := launched.launches.map fun l => (l.1, { l.2 with rcd := { l.2.rcd with vq := 5 } }) })
    (fun t => outcome t == [1, 1, 0x77, 0] && t.launches == []) = true := by decide +kernel
theorem test_launchValidation_priv : ok (exec (.launchValidation 0) { launched with launches := launched.launches.map fun l => (l.1, { l.2 with rcd := { l.2.rcd with super := true } }) })
    (fun t => outcome t == [1, 6, 0x77, 0]) = true := by decide +kernel
theorem test_launchValidation : validated.launches.map (fun l => (l.2.phase, l.2.todo)) = [(.dispatching, [{ taskid := 0, rank := 0, stage := 0, thread := 0 }])] ∧
    (validated.die 0).feAt = some 0 := by decide +kernel
theorem test_dispatch : ok (exec (.dispatch 0) dispatching) (fun t => t.net.map (fun p => (p.rank, p.ctx, p.gen)) == [(0, 1, 5)]
      && t.net.all (fun p => match p.kind with | .context 0 th => th.pc == 0x4000 && (th.xreg 0).v == 0x1234 && th.status == 1 && (th.xreg 8).v == 0 | _ => false)
      && t.launches.map (·.2.dispatched) == [1]) = true := by decide +kernel
theorem test_launchCompletion : ok (exec (.launchCompletion 0) { dispatching with launches := dispatching.launches.map fun l => (l.1, { l.2 with todo := [], exited := 1, dispatched := 1 }) })
    (fun t => outcome t == [0, 0, 0x77, 0] && t.launches == [] && (t.mem.readN (0x04000000 + 32 * 16 * 3 + 8) 16).map (·.toNat) == [1, 0, 0, 0, 0, 0, 0, 0, 1, 0, 0, 0, 0, 0, 0, 0]) = true := by
  decide +kernel
theorem test_channelBinding : ok (exec (.channelBinding 0) { dispatching with launches := dispatching.launches.map fun l => (l.1, { l.2 with binds := [(7, 7, 0x8000_0018_0000_0000)] }) })
    (fun t => ((t.core 0).berth 7).kind == 2 && ((t.core 0).berth 7).count == 8 && t.launches.map (·.2.binds) == [[]]) = true := by decide +kernel
theorem test_watchdogExpiry : ok (exec (.watchdogExpiry 0) { dispatching with time := 1000000000000, launches := dispatching.launches.map fun l => (l.1, { l.2 with rcd := { l.2.rcd with wdog := 3 }, todo := [], live := l.2.todo, wdogFrom := some 0 }) })
    (fun t => outcome t == [0x10, 0, 0x77, 0] && t.launches.map (·.2.silent) == [true]) = true := by decide +kernel

/-- A legal descriptor of one rank on core 64 (R321): rank table at 0x3000, tables at 0x10000, TTCOUNT 0, 16 fault records at 0x20000. -/
def descWord : Nat := 1 * 2 ^ 32 + 0x3000 * 2 ^ 64 + 0x10000 * 2 ^ 128 + 16 * 2 ^ (8 * 44) + 0x20000000 * 2 ^ (8 * 48) + 0x40000000 * 2 ^ (8 * 56) + 0x01180000 * 2 ^ (8 * 64)
def described : State := { State.reset with mem := (Memory.writeN [] 0x2000 (toBytes 256 descWord)).writeN 0x3000 (toBytes 8 (1 * 2 ^ 30 + 64)) }
def created : State := match execContextCreate 1 0x2001 described with | .next t => t | _ => live
-- R320, R321: GEN is written to the descriptor; the rank table is read
theorem test_contextCreate : (created.ctx 1).state = 1 ∧ (created.ctx 1).gen = 1 ∧ created.mem.read 0x2000 = 1 ∧ ((created.ctx 1).rank 0).phys = 64 ∧
    (created.core 64).owner = some 1 := by decide +kernel
theorem test_contextCreate_bad : ok (exec (.contextCreate 1 0x2001) State.reset) (fun t => (t.ctx 1).state == 0 && (t.ctx 1).err == 4) = true := by decide +kernel
theorem test_state_refused : ok (exec (.resumeI 1) created) (fun t => (t.ctx 1).err == 2) = true := by decide +kernel
/-- A context with a register and scratchpad bytes to save. -/
def saving : State := match execPreempt 1 (created.updCore 64 fun c => { c with vregs := [(3, 0xAB)] }) with | .next t => t | _ => live
def preempted : State := saving.finishRequest 1
/-- The same with its save area in memory: the register, and zeros where the layout is open. -/
def saved : State := { preempted with mem := created.mem.write (0x40000000 + 0x01100000 + 0xD000 + 3 * 256) 0xAB }
-- R325, R326
theorem test_preempt : (saving.ctx 1).state = 2 ∧ ((saving.ctx 1).rank 0).state = 2 ∧ (preempted.ctx 1).state = 3 ∧ (preempted.core 64).owner = none ∧
    (preempted.core 64).vregs = [] := by decide +kernel
theorem test_saveArea : (created.areaPut 0x4110D000 0x2000 (rowCells 0x4110D000 [(3, 0xAB)])).mem.read (0x40000000 + 0x01100000 + 0xD000 + 3 * 256) = 0xAB := by
  decide +kernel
theorem test_preempt_space : ok (exec (.preempt 1) (created.updCtx 1 fun c => { c with desc := { c.desc with savesize := 0x0117FFFF } })) (fun t => (t.ctx 1).state == 1 && (t.ctx 1).err == 7) = true := by
  decide +kernel
-- R329, R330: the host has moved the rank to core 96
theorem test_resume_moved : ok (exec (.resumeI 1) { saved with mem := saved.mem.writeN 0x3000 (toBytes 8 (3 * 2 ^ 30 + 96)) })
    (fun u => let t := u.finishRequest 1
      (u.ctx 1).state == 4 && (t.ctx 1).state == 1 && (t.ctx 1).err == 0 && (t.core 96).owner == some 1 && (t.core 96).v 3 == 0xAB && ((t.ctx 1).rank 0).phys == 96) = true := by decide +kernel
theorem test_resume_taken : ok (exec (.resumeI 1) (saved.updCore 64 fun c => { c with owner := some 2 })) (fun t => (t.ctx 1).state == 3 && (t.ctx 1).err == 5) = true := by decide +kernel
theorem test_teardown : ok (exec (.teardown 1) created) (fun u => let t := u.finishRequest 1
      (u.ctx 1).state == 6 && (t.ctx 1).state == 0 && (t.ctx 1).ranks == [] && (t.core 64).owner == none) = true := by decide +kernel
/-- An image of one role, a 256-byte scratchpad part at file offset 0x100 to offset 0x400, for rank 0 (R332, R333). -/
def imageWord : Nat := 0x4E595242 + 1 * 2 ^ 32 + 1 * 2 ^ 48 + 1 * 2 ^ 64 + 1 * 2 ^ 96 + 0x40 * 2 ^ 128 + 0x80 * 2 ^ 192 + 0xC0 * 2 ^ 256 + 0x200 * 2 ^ 320
  + 2 ^ (8 * 0x40) * (0x100 * 2 ^ 192 + 0x100 * 2 ^ 256 + 0x400 * 2 ^ 288) + 2 ^ (8 * 0xC0) * (0xFFFF * 2 ^ 32) + 2 ^ (8 * 0x100) * 0x5A
def withImage : State := { created.updCtx 1 (fun c => { c with desc := { c.desc with image := 0x5000 } }) with
  mem := (created.mem.writeN 0x5000 (toBytes 512 imageWord)).writeN (0x2000 + 72) (toBytes 8 0x5000) }
theorem test_load : ok (exec (.loadI 1) withImage) (fun u => let t := u.finishRequest 1
      (u.ctx 1).state == 5 && (t.ctx 1).err == 0 && t.mem.read (spadHome 64 0x400) == 0x5A) = true := by decide +kernel
theorem test_load_format : ok (exec (.loadI 1) created) (fun t => ((t.finishRequest 1).ctx 1).err == 4) = true := by decide +kernel
theorem test_relocation : ok (exec (.relocationAroundDefectiveCore 1 0 96) created) (fun t => ((t.ctx 1).rank 0).state == 2 && (t.core 96).owner == some 1 && (t.core 64).owner == none) = true := by
  decide +kernel
theorem test_relocationComplete : ok (exec (.rankRelocationComplete 1 0 96) ((created.updCtx 1 fun c => c.updRank 0 fun e => { e with state := 2, moving := some 96, held := [pkt (.inc 1 none)] }).updCore 96 fun c => { c with owner := some 1 }))
    (fun t => ((t.ctx 1).rank 0).phys == 96 && ((t.ctx 1).rank 0).state == 1 && t.net.length == 1) = true := by decide +kernel
theorem test_atsTranslationCompletion : ok (exec (.atsTranslationCompletion 0 1 { iova := 0x1234, size := 4096 } true true false) (live.updDie 0 fun d => { d with pendAts := [(1, 0x1000)] }))
    (fun t => (t.die 0).atc == [{ pasid := 1, iova := 0x1000, r := true, w := true, u := false }] && (t.die 0).pendAts == []) = true := by decide +kernel
theorem test_atsInvalidationRequest : ok (exec (.atsInvalidationRequest 1 0x1000 4096) (live.updDie 0 fun d => { d with atc := [{ pasid := 1, iova := 0x1000, r := true, w := true, u := false }, { pasid := 1, iova := 0x2000, r := true, w := true, u := false }] }))
    (fun t => (t.die 0).atc.map (·.iova) == [0x2000]) = true := by decide +kernel
theorem test_priPageResponse : ok (exec (.priPageResponse 0 1 0x1000 .invalidRequest) { live.updCtx 1 (fun c => { c with desc := { c.desc with fqsize := 16 }, parked := [{ n := none, item := .none, bytes := rep 32 7#8, pri := some (0, 0x1000) }] }) with pri := [{ die := 0, pasid := 1, iova := 0x1000 }] })
    (fun t => t.pri == [] && (t.ctx 1).fqtail == 1 && t.mem.readN 0x20000000 32 == rep 32 7#8) = true := by decide +kernel
/-! Places from which the statements' hypotheses are met -/

/-- The machine about to run an instruction of `th` in slot 0 of core 0. -/
def ready (th : Thread) : State := inSlot th live
/-- `task1` with X registers. -/
def xs (l : List (Nat × Word)) : Thread := l.foldl (fun t p => t.setX p.1 { v := p.2, p := false }) task1
/-- `xs` with eight V registers. -/
def vs (l : List (Nat × Word)) : Thread := { xs l with vq := 8 }
/-- The instruction runs and its thread then meets `p`. -/
def thread (o : Out) (p : Thread → Bool) : Bool := ok o fun t => t.thread.any p
/-- X register `r` after an instruction. -/
def leaves (o : Out) (r : Nat) (v : Word) : Bool := thread o fun t => t.xreg r == { v := v, p := false } && t.pc == 0x1008
/-- A window of the place opened last, with this latch. -/
def opens (o : Out) (l : List LatchWrite) : Bool := ok o fun t => (t.curSlot.wins.getLast?.map (·.latch)) == some l
theorem ready_runs (th : Thread) : Runs (ready th) th hdr0 := ⟨rfl, rfl, (fun h => nomatch h), (by decide : (0 : Nat) < 4096)⟩
theorem ready_quiet (th : Thread) : Quiet (ready th) := ⟨rfl, rfl, (fun _ h => nomatch h), fun _ => rfl, rfl, ⟨rfl, rfl⟩, rfl, ⟨fun _ => rfl, fun _ => rfl, rfl⟩, fun _ _ h => nomatch h⟩
theorem ready_flushed (th : Thread) : Flushed (ready th) := ⟨⟨rfl, rfl⟩, ⟨fun _ => rfl, fun _ => rfl, rfl⟩, rfl⟩
theorem ready_still (th : Thread) : Still (ready th) := ⟨(fun _ h => nomatch h), (fun _ h => nomatch h), (fun c => by
  show (Tab.get ({} : Context) c [(1, _)]).parked = []
  unfold Tab.get
  split <;> rfl), fun _ => rfl⟩
/-! Memory (sources: R169 to R189) -/

/-- An SF with registers D, A, B. -/
def sf (d a b : BitVec 4) : SF := { d := d, a := a, b := b, sz := 0, fl := 0, imm := 0 }
/-- An EF with registers D, A, B. -/
def ef (d a b : BitVec 4) : EF := { d := d, a := a, b := b, sz := 0, fl := 0, imm := 0, tail := 0 }
def ownBase : Word := 0x00FFFFFFFFFC0000
/-- A thread whose X2 points at the own scratchpad and whose X3 holds 5. -/
def thOwn : Thread := xs [(2, ownBase + 0x10), (3, 5)]
def sOwn : State := { ready thOwn with mem := [(spadHome 0 0x10, 0x80), (spadHome 0 0x11, 1)] }
/-- The core's TLB holds the code page; X2 points into it. -/
def thPage : Thread := xs [(2, 0x10000048), (3, 0x1122)]
def tlb1 (s : State) : State := s.updCore 0 fun c => { c with tlb := [{ ctx := 1, pte := codePage }] }
def sPage : State := { tlb1 (ready thPage) with mem := [(0x10000048, 7)] }

theorem witness_ScalarLoad_own : Runs sOwn thOwn hdr0 ∧ sOwn.curSlot.wins.length < 2 ∧ Quiet sOwn ∧ (effective thOwn 2 11 0 0).p = false ∧
    OwnAt thOwn (effective thOwn 2 11 0 0).v 0x10 8 :=
  ⟨⟨rfl, rfl, (fun h => nomatch h), (by decide : (0 : Nat) < 4096)⟩, by decide, ⟨rfl, rfl, (fun _ h => nomatch h), fun _ => rfl, rfl, ⟨rfl, rfl⟩, rfl, ⟨fun _ => rfl, fun _ => rfl, rfl⟩, fun _ _ h => nomatch h⟩, by decide, rfl, by decide +kernel, by decide +kernel, by decide +kernel, by decide +kernel⟩
theorem witness_ScalarLoad_page : Runs sPage thPage hdr0 ∧ PageAt sPage thPage 0x10000048 codePage 0x10000048 8 ∧ (0x10000048 : Nat) < 2 ^ 48 :=
  ⟨⟨rfl, rfl, (fun h => nomatch h), (by decide : (0 : Nat) < 4096)⟩, by unfold PageAt; decide +kernel, by decide⟩
theorem test_ld : opens (exec (.ld hdr0 (sf 1 2 11)) sOwn) [.x 1 { v := 0x180, p := false }] = true := by decide +kernel
theorem test_lds : opens (exec (.lds hdr0 { sf 1 2 11 with sz := 3 }) sOwn) [.x 1 { v := 0xFFFFFFFFFFFFFF80, p := false }] = true := by decide +kernel
theorem test_ld_page : opens (exec (.ld hdr0 (sf 1 2 11)) sPage) [.x 1 { v := 7, p := false }] = true ∧
    ok (exec (.ld hdr0 (sf 1 2 11)) sPage) (fun t => (t.core 0).pins.map (·.home) == [0x10000040]) = true := by decide +kernel
theorem test_st_own : ok (exec (.st hdr0 { sf 3 2 11 with sz := 2 }) sOwn) (fun t => t.mem.readN (spadHome 0 0x10) 3 == [5, 0, 0]) = true := by decide +kernel
theorem test_st_page : ok (exec (.st hdr0 { sf 3 2 11 with sz := 2 }) sPage) (fun t => t.mem == sPage.mem && (t.core 0).pq.map (fun q => (q.piece, q.op)) ==
    [(0x10000040, .store 0x300#64 0x11220000000000000000#512 0)]) = true := by decide +kernel
-- R169, R405: the order of the checks
theorem test_access_traps : ok (exec (.ld hdr0 (sf 1 2 11)) (ready (xs [(2, 0x1000000000000001)]))) (fun t => t == (ready (xs [(2, 0x1000000000000001)])).trapEnter loc0 8 0x1000000000000001)
    = true ∧ ok (exec (.st hdr0 (sf 1 2 11)) (ready (xs [(2, ownBase + 4)]))) (fun t => t == (ready (xs [(2, ownBase + 4)])).trapEnter loc0 4 (ownBase + 4)) = true := by
  decide +kernel

/-- A V-format instruction on V0 of a base X2. -/
def vm (vd vb : BitVec 5) : VF := { imm := 0, rm := 0, ty := 0, msk := 10, vb := vb, xs := 2, va := 0, vd := vd }
/-- V1 holds elements 0, 2, 1 and zeros as offsets times 8; the scratchpad's words 1 and 2. -/
def thVec : Thread := { xs [(2, ownBase), (3, 8)] with vq := 8 }
def sVec : State := { (ready thVec).updCore 0 (fun c => { c with vregs := [(0, 0x55_0000_0044), (1, 0x10_0000_0000)] }) with mem := [(spadHome 0 4, 9), (spadHome 0 0x10, 3)] }
theorem witness_VectorLoad : Runs sVec thVec hdr0 ∧ sVec.curSlot.wins.length < 2 ∧ Quiet sVec ∧ Owns thVec [1] ∧ (baseOf thVec 2).p = false ∧
    ∀ i < 64, OwnAt thVec ((baseOf thVec 2).v + BitVec.ofNat 64 (i * 4)) (4 * i) 4 :=
  ⟨⟨rfl, rfl, (fun h => nomatch h), (by decide : (0 : Nat) < 4096)⟩, by decide, ⟨rfl, rfl, (fun _ h => nomatch h), fun _ => rfl, rfl, ⟨rfl, rfl⟩, rfl, ⟨fun _ => rfl, fun _ => rfl, rfl⟩, fun _ _ h => nomatch h⟩, ⟨rfl, by decide⟩, by decide,
    fun i hi => ⟨rfl, by decide +revert +kernel⟩⟩
/-- The V value of the only latch write. -/
def vlatch (o : Out) (p : VReg → Bool) : Bool := ok o fun t => match (t.curSlot.wins.getLast?.map (·.latch)) with
  | some [LatchWrite.v _ _ v _ _] => p v
  | _ => false
theorem test_vld : vlatch (exec (.vld hdr0 (vm 2 0)) sVec) (fun v => v == 3#2048 <<< 128 ||| 9#2048 <<< 32) = true := by decide +kernel
theorem test_vlds : vlatch (exec (.vlds hdr0 (vm 2 3)) sVec) (fun v => v == 3#2048 <<< 64) = true := by decide +kernel
-- offsets of 0 but for element 1 (16)
theorem test_vldg : vlatch (exec (.vldg hdr0 (vm 2 1)) sVec) (fun v => v == 3#2048 <<< 32) = true := by decide +kernel
theorem test_vst : ok (exec (.vst hdr0 (vm 0 0)) sVec) (fun t => t.mem.readN (spadHome 0 0) 8 == [0x44, 0, 0, 0, 0x55, 0, 0, 0]) = true := by decide +kernel
theorem test_vsts : ok (exec (.vsts hdr0 (vm 0 3)) sVec) (fun t => t.mem.readN (spadHome 0 0) 9 == [0x44, 0, 0, 0, 9, 0, 0, 0, 0x55]) = true := by decide +kernel
-- the highest element that writes a byte remains
theorem test_vstg : ok (exec (.vstg hdr0 (vm 0 1)) sVec) (fun t => t.mem.readN (spadHome 0 0) 1 == [0] && t.mem.readN (spadHome 0 0x10) 1 == [0x55]) = true := by decide +kernel

/-- A B-operation of V0 on quay 0's shared memory at X2, every lane; X3 is the factor. -/
def bop : EF := { ef 0 2 11 with fl := 0, tail := 0x3A }
def thBank : Thread := { xs [(2, 0x00FD000000000100), (3, 2)] with vq := 8 }
def sBank : State := (ready thBank).updCore 0 fun c => { c with vregs := [(0, 0x55_0000_0044)] }
theorem witness_BankEnqueue : Runs sBank thBank hdr0 ∧ sBank.curSlot.wins.length < 2 ∧ Quiet sBank ∧ (effective thBank 2 11 0 0).p = false ∧ thBank.svc = false ∧
    QuayAt (effective thBank 2 11 0 0).v 0 0x100 256 := ⟨⟨rfl, rfl, (fun h => nomatch h), (by decide : (0 : Nat) < 4096)⟩, by decide, ⟨rfl, rfl, (fun _ h => nomatch h), fun _ => rfl, rfl, ⟨rfl, rfl⟩, rfl, ⟨fun _ => rfl, fun _ => rfl, rfl⟩, fun _ _ h => nomatch h⟩, by decide,
    by decide, by unfold QuayAt; decide +kernel⟩
/-- The first queue entry, and how many there are. -/
def queued (o : Out) (n : Nat) (op : QOp) : Bool := ok o fun t => (t.core 0).pq.length == n && (t.core 0).pq.head?.map (·.op) == some op && t.curSlot.wins.length == 1
theorem test_badd : [(Instr.baddI32 hdr0 bop, 0), (.baddF32 hdr0 bop, 1), (.bminI32 hdr0 bop, 3), (.bmaxI32 hdr0 bop, 4), (.bminF32 hdr0 bop, 5), (.bmaxF32 hdr0 bop, 6)].all
    (fun p => queued (exec p.1 sBank) 4 (.bank p.2 0xFFFF (0x55_0000_0044 : Line) 0 0)) = true := by decide +kernel
theorem test_baddBf16 : queued (exec (.baddBf16 hdr0 bop) sBank) 2 (.bank 2 0xFFFFFFFF (0x55_0044 : Line) 0 0) = true := by decide +kernel
theorem test_baxpyF32 : queued (exec (.baxpyF32 hdr0 bop) sBank) 4 (.bank 7 0xFFFF (0x55_0000_0044 : Line) 2 0) = true := by decide +kernel
-- R179: the bank's functions
theorem test_bank_functions : (QOp.apply (.bank 0 1 (0xFFFFFFFF : Line) 0 0) (0x3_0000_0002, 0)).1 = 0x3_0000_0001 ∧ (QOp.apply (.bank 1 2 (0x3F800000_00000000 : Line) 0 0) (0x40000000_00000007, 0)).1 = 0x40400000_00000007 ∧
    (QOp.apply (.bank 4 1 (0xFFFFFFFF : Line) 0 0) (2, 0)).1 = 2 ∧ (QOp.apply (.bank 7 1 (0x40000000 : Line) 0x40400000 0) (0x3F800000, 0)).1 = 0x40E00000 ∧
    (QOp.apply (.bank 2 2 (0x3F80_0000 : Line) 0 0) (0x3F80_0001, 0)).1 = 0x4000_0001 := by decide +kernel

theorem witness_Atomics : Runs sOwn thOwn hdr0 ∧ sOwn.curSlot.wins.length < 2 ∧ sOwn.mem.wf = true ∧ (baseOf thOwn 2).p = false ∧ OwnAt thOwn (baseOf thOwn 2).v 0x10 8 :=
  ⟨⟨rfl, rfl, (fun h => nomatch h), (by decide : (0 : Nat) < 4096)⟩, by decide, by decide, by decide, rfl, by decide +kernel, by decide +kernel, by decide +kernel, by decide +kernel⟩
/-- The old value 0x180 is latched, and the scratchpad word becomes `v`. -/
def swaps (i : Instr) (v : Nat) : Bool := opens (exec i sOwn) [.x 1 { v := 0x180, p := false }] && ok (exec i sOwn) fun t => t.mem.readN (spadHome 0 0x10) 8 == toBytes 8 v
theorem test_atomics : swaps (.aadd hdr0 (sf 1 2 3)) 0x185 && swaps (.aand hdr0 { sf 1 2 11 with imm := 0x100 }) 0x100 && swaps (.aor hdr0 (sf 1 2 3)) 0x185
    && swaps (.axor hdr0 { sf 1 2 11 with imm := 0x181 }) 1 && swaps (.amin hdr0 { sf 1 2 11 with imm := 0xFFFF }) (2 ^ 64 - 1) && swaps (.amax hdr0 { sf 1 2 11 with imm := 0xFFFF }) 0x180
    && swaps (.aminu hdr0 { sf 1 2 11 with imm := 0xFFFF }) 0x180 && swaps (.amaxu hdr0 { sf 1 2 11 with imm := 0xFFFF }) (2 ^ 64 - 1) && swaps (.aswp hdr0 (sf 1 2 3)) 5
    && swaps (.acas hdr0 (sf 1 2 3)) 0x180 = true := by decide +kernel
/-- X1 holds the expected value. -/
theorem test_acas_equal : ok (exec (.acas hdr0 (sf 1 2 3)) { ready (thOwn.setX 1 { v := 0x180, p := false }) with mem := sOwn.mem }) (fun t => t.mem.readN (spadHome 0 0x10) 2 == [5, 0]) = true := by
  decide +kernel
theorem test_phase : ok (exec (.phase hdr0 (sf 0 0 0)) (ready task1)) (fun t => (t.core 0).pubs == [{ scope := 0, n := 0 }] && (t.core 0).phasecnt == 1) = true := by decide +kernel
theorem test_phasePub : ok (exec (.phasePub hdr0 { sf 0 0 0 with fl := 8 }) (sPage.updCore 0 fun c => { c with pq := [entry1] })) (fun t => (t.core 0).pubs == [{ scope := 2, n := 1 }]) = true := by
  decide +kernel
theorem test_phaseRef : ok (exec (.phaseRef hdr0 (sf 0 0 0)) (ready task1)) (fun t => (t.core 0).pubs == [] && (t.core 0).phasecnt == 1) = true := by decide +kernel
/-- X2 points at a word of shared memory that holds 5, the value in X3. -/
def thWatch : Thread := xs [(2, 0x00FD000000000010), (3, 5)]
def sWatch : State := { ready thWatch with mem := [(quayHome 0 0x10, 5)] }
theorem witness_PhasesAndMonitors : Runs sWatch thWatch hdr0 ∧ sWatch.curSlot.wins.length < 2 ∧ (sWatch.core 0).board = [] ∧ (baseOf thWatch 2).p = false ∧ QuayAt (baseOf thWatch 2).v 0 0x10 8 :=
  ⟨⟨rfl, rfl, (fun h => nomatch h), (by decide : (0 : Nat) < 4096)⟩, by decide, rfl, by decide, by unfold QuayAt; decide +kernel⟩
/-- A monitor of the thread's task. -/
def mon1 : Monitor := { ea := 0x00FD000000000010, home := quayHome 0 0x10, berth := 9, rank := 0, ctx := 1, task := task1.task }
theorem test_unwatch : ok (exec (.unwatch hdr0 { sf 4 2 0 with imm := 9 }) (sWatch.updQuay 0 fun q => { q with monitors := [mon1] })) (fun t => (t.quay 0).monitors == []) = true ∧
    opens (exec (.unwatch hdr0 { sf 4 2 0 with imm := 9 }) sWatch) [.p 4 false] = true := by decide +kernel
/-! Encrypted memory (R428; sources: FIPS 197 appendix C.3, IEEE 1619 vector 10, the first 32 bytes) -/

theorem test_aes256 : aesEncrypt (List.range 32) ((List.range 16).map (0x11 * ·)) =
    [142, 162, 183, 202, 81, 103, 69, 191, 234, 252, 73, 144, 75, 73, 96, 137] := by decide +kernel
/-- The key of vector 10. -/
def xtsKey : List Nat := [39, 24, 40, 24, 40, 69, 144, 69, 35, 83, 96, 40, 116, 113, 53, 38, 98, 73, 119, 87, 36, 112, 147, 105, 153, 89, 87, 73, 102, 150, 118, 39]
  ++ [49, 65, 89, 38, 83, 88, 151, 147, 35, 132, 98, 100, 51, 131, 39, 149, 2, 136, 65, 151, 22, 147, 153, 55, 81, 5, 130, 9, 116, 148, 69, 146]
theorem test_xts : xtsUnit false xtsKey 0xFF (List.range 32) =
    [28, 59, 58, 16, 47, 119, 3, 134, 228, 131, 108, 153, 227, 112, 207, 155, 234, 0, 128, 63, 94, 72, 35, 87, 164, 174, 18, 212, 20, 163, 230, 59] := by decide +kernel
/-- The data page under key slot 1, which holds that key; the sector at 0x10000040 holds what XTS makes of 8 at its ninth byte. -/
def sKeyed : State :=
  let s := ready thPage
  let s := s.updCore 0 fun c => { c with tlb := [{ ctx := 1, pte := { codePage with key := 1 } }] }
  { s with fw := { s.fw with keys := [(1, [5012582423769651239, 2753231490914472739, 7607547496947468642, 2843625580792338841, 10635066159207629105, 10747703292493726755, 4006395068758984706, 10539993729027147089])] },
            mem := Memory.writeN [] 0x10000040 ((xtsUnit false xtsKey 0x10000040 (List.replicate 8 0 ++ 8 :: List.replicate 23 0)).map (BitVec.ofNat 8)) }
theorem test_ld_keyed : opens (exec (.ld hdr0 (sf 1 2 11)) sKeyed) [.x 1 { v := 8, p := false }] = true := by decide +kernel
/-! Scalar instructions (sources: R83 to R109) -/

/-- X2 is 0xFFFFFFFF80000001, X3 is 4. -/
def thI : Thread := xs [(2, 0xFFFFFFFF80000001), (3, 4)]
def sI : State := ready thI
theorem witness_scalar : Runs sI thI hdr0 ∧ sI.curSlot.wins.length < 2 ∧ (srcA (sf 1 2 3) thI).p = false ∧ (srcB (sf 1 2 3) thI).p = false := ⟨ready_runs _, by decide, rfl, rfl⟩
/-- A 32-bit operation with D X1, A X2, B X3. -/
def w32 : SF := { sf 1 2 3 with sz := 1 }
def sl32 : SLF := { d := 1, a := 2, b := 11, sz := 1, fl := 0, imm := 0xFFFF00000004 }
/-- X1 after each instruction, with the PC. -/
def all2 (l : List (Instr × Word)) (pc : Word) : Bool := l.all fun p => thread (exec p.1 sI) fun t => t.xreg 1 == { v := p.2, p := false } && t.pc == pc
theorem test_binary : all2 [(.add hdr0 w32, 0xFFFFFFFF80000005), (.sub hdr0 w32, 0x7FFFFFFD), (.andI hdr0 w32, 0), (.orI hdr0 w32, 0xFFFFFFFF80000005), (.xor hdr0 w32, 0xFFFFFFFF80000005),
    (.andn hdr0 w32, 0xFFFFFFFF80000001), (.orn hdr0 w32, 0xFFFFFFFFFFFFFFFB), (.shl hdr0 w32, 0x10), (.shr hdr0 w32, 0x08000000), (.sar hdr0 w32, 0xFFFFFFFFF8000000),
    (.rol hdr0 w32, 0x18), (.ror hdr0 w32, 0x18000000), (.minI hdr0 w32, 0xFFFFFFFF80000001), (.maxI hdr0 w32, 4), (.minu hdr0 w32, 4), (.maxu hdr0 w32, 0x80000001), (.mul hdr0 w32, 4),
    (.mulh hdr0 w32, 0xFFFFFFFFFFFFFFFE), (.mulhu hdr0 w32, 2)] 0x1008 = true := by decide +kernel
theorem test_binary_long : all2 [(.addX hdr0 sl32, 0xFFFFFFFF80000005), (.subX hdr0 sl32, 0x7FFFFFFD), (.andX hdr0 sl32, 0), (.orX hdr0 sl32, 0xFFFFFFFF80000005), (.xorX hdr0 sl32, 0xFFFFFFFF80000005),
    (.andnX hdr0 sl32, 0xFFFFFFFF80000001), (.ornX hdr0 sl32, 0xFFFFFFFFFFFFFFFB), (.shlX hdr0 sl32, 0x10), (.shrX hdr0 sl32, 0x08000000), (.sarX hdr0 sl32, 0xFFFFFFFFF8000000),
    (.rolX hdr0 sl32, 0x18), (.rorX hdr0 sl32, 0x18000000), (.minX hdr0 sl32, 0xFFFFFFFF80000001), (.maxX hdr0 sl32, 4), (.minuX hdr0 sl32, 4), (.maxuX hdr0 sl32, 0x80000001), (.mulX hdr0 sl32, 4),
    (.mulhX hdr0 sl32, 0xFFFFFFFFFFFFFFFE), (.mulhuX hdr0 sl32, 2)] 0x100C = true := by decide +kernel
/-- The source B is the low 16 bits of X3. -/
def u16 : SF := { sf 1 0 3 with sz := 2 }
def ul16 : SLF := { d := 1, a := 0, b := 11, sz := 2, fl := 0, imm := 4 }
theorem test_unary : all2 [(.clz hdr0 u16, 13), (.ctz hdr0 u16, 2), (.popc hdr0 u16, 1), (.brev hdr0 u16, 0x2000), (.bswap hdr0 u16, 0x400)] 0x1008 && all2 [(.clzX hdr0 ul16, 13), (.ctzX hdr0 ul16, 2),
    (.popcX hdr0 ul16, 1), (.brevX hdr0 ul16, 0x2000), (.bswapX hdr0 ul16, 0x400)] 0x100C = true := by decide +kernel
-- R86: the corners
theorem test_division : opens (exec (.div hdr0 (sf 1 2 3)) (ready (xs [(2, -7), (3, 2)]))) [.x 1 { v := -3, p := false }] && opens (exec (.rem hdr0 (sf 1 2 3)) (ready (xs [(2, -7), (3, 2)]))) [.x 1 { v := -1, p := false }]
    && opens (exec (.divu hdr0 w32) sI) [.x 1 { v := 0x20000000, p := false }] && opens (exec (.remu hdr0 w32) sI) [.x 1 { v := 1, p := false }]
    && opens (exec (.div hdr0 w32) (ready (xs [(2, 5)]))) [.x 1 { v := BitVec.allOnes 64, p := false }] && opens (exec (.div hdr0 (sf 1 2 3)) (ready (xs [(2, 0x8000000000000000), (3, -1)]))) [.x 1 { v := 0x8000000000000000, p := false }] = true := by decide +kernel
/-- Predicate 5 after a compare. -/
def cmp (i : Instr) (b : Bool) : Bool := thread (exec i sI) fun t => t.p 5 == b && t.pc == 0x1008
def c5 : SF := { sf 5 2 3 with sz := 1 }
theorem test_compare : cmp (.cmpEq hdr0 c5) false && cmp (.cmpNe hdr0 c5) true && cmp (.cmpLt hdr0 c5) true && cmp (.cmpLe hdr0 c5) true && cmp (.cmpLtu hdr0 c5) false && cmp (.cmpLeu hdr0 c5) false
    && cmp (.cmpNe hdr0 { c5 with fl := 1 }) false && cmp (.cmpEq hdr0 { c5 with fl := 2 }) false = true := by decide +kernel
theorem test_predicates : cmp (.pand hdr0 (sf 5 0 0)) true && cmp (.por hdr0 (sf 5 3 3)) false && cmp (.pxor hdr0 (sf 5 0 3)) true && cmp (.pnot hdr0 (sf 5 3 0)) true && cmp (.pand hdr0 { sf 5 0 3 with fl := 2 }) true
    && cmp (.pwr hdr0 { sf 0 10 11 with imm := 0x20 }) false && cmp (.pwr hdr0 { sf 0 3 11 with imm := 0x20 }) false = true := by decide +kernel
theorem test_prd : leaves (exec (.prd hdr0 (sf 1 0 0)) (ready ({ thI with pred := 0x8001 }))) 1 0x8001 = true := by decide +kernel
theorem test_select : all2 [(.sel hdr0 (sf 1 2 3), 0xFFFFFFFF80000001), (.sel hdr0 { sf 1 2 3 with fl := 4 }, 4), (.lea hdr0 { sf 1 3 3 with fl := 3 }, 36)] 0x1008 = true := by decide +kernel
-- control 0x0DF: LSB 31, LEN 4
theorem test_fields : all2 [(.bfx hdr0 { sf 1 2 11 with imm := 0xDF }, 0xFFFFFFFFFFFFFFFF), (.bfxu hdr0 { sf 1 2 11 with imm := 0xDF }, 15), (.bfi hdr0 { sf 1 3 11 with imm := 0xDF }, 0x200000000)] 0x1008 = true := by decide +kernel
/-- The PC and X9 after a transfer. -/
def goes (o : Out) (pc x9 : Word) : Bool := thread o fun t => t.pc == pc && (t.xreg 9).v == x9
def thJmp : Thread := xs [(2, 0x4000), (9, 0x8000)]
theorem test_transfers : goes (exec (.nop hdr0 (sf 0 0 0)) (ready thJmp)) 0x1008 0x8000 && goes (exec (.b hdr0 { sf 0 0 0 with imm := 0xFFFE }) (ready thJmp)) 0xFF8 0x8000
    && goes (exec (.j hdr0 { d := 0, a := 0, b := 0, sz := 0, fl := 0, imm := 0x10 }) (ready thJmp)) 0x1040 0x8000 && goes (exec (.call hdr0 { d := 0, a := 0, b := 0, sz := 0, fl := 0, imm := 0x10 }) (ready thJmp)) 0x1040 0x100C
    && goes (exec (.jr hdr0 { sf 0 2 0 with imm := 8 }) (ready thJmp)) 0x4008 0x8000 && goes (exec (.callr hdr0 (sf 0 9 0)) (ready thJmp)) 0x8000 0x1008 && goes (exec (.ret hdr0 (sf 0 0 0)) (ready thJmp)) 0x8000 0x8000 = true := by decide +kernel
theorem test_jr_align : ok (exec (.jr hdr0 { sf 0 2 0 with imm := 2 }) (ready thJmp)) (fun t => t == (ready thJmp).trapEnter loc0 4 0x4002) = true := by decide +kernel
-- R48, R32: a false guard; the pad parcel
theorem test_nullified : thread (exec (.add { hdr0 with gp := 3 } (sf 1 2 3)) sI) (fun t => t.xreg 1 == { v := 0, p := false } && t.pc == 0x1008) = true := by decide +kernel
theorem test_pad : thread (exec .padParcel sI) (·.pc == 0x1004) = true := by decide +kernel
/-- The packet of a trap entry: KIND 2, CAUSE, EVAL, EPC and STATUS. -/
def traps (o : Out) (cause : Nat) (eval : Word) : Bool := ok o fun t => (slotAt (t.core 0).slots 0).th == none && t.net.any fun p => match p.kind with
  | .context 2 th => th.cause == cause && th.eval == eval && th.epc == 0x1000 && th.status == 0x1002 && th.svc
  | _ => false
theorem test_trap : traps (exec (.trap hdr0 { sf 0 3 0 with imm := 0x42 }) sI) 0x42 4 = true := by decide +kernel
theorem test_svc : traps (exec (.svc hdr0 { sf 0 0 0 with imm := 0x1234 }) sI) 0x12 0x1234 = true := by decide +kernel
theorem test_break : traps (exec (.breakI hdr0 { sf 0 0 0 with imm := 7 }) sI) 0x13 7 = true := by decide +kernel
theorem witness_TrapEntry : isSeqLoc sI.cur = false ∧ sI.runsSequence sI.cur = false ∧ (sI.closeAll sI.cur).map (fun c => c.isPaired 0) = some false := by decide +kernel
/-- A trapped context in service slot 0 of quay 0. -/
def thSvc : Thread := { thI with svc := true, status := 0x1002, cause := 4, epc := 0x2000, eval := 9, retRank := 1 }
def sSvc : State := { live.updQuay 0 (fun q => { q with svc := [{ slot := { th := some thSvc } }] }) with cur := { svc := true, unit := 0, slot := 0 } }
theorem test_eret : ok (exec (.eret hdr0 (sf 0 0 0)) sSvc) (fun t => t.net.map (fun p => (p.rank, p.kind)) == [(1, .context 3 { thSvc with svc := false, status := 1, cause := 0, epc := 0, eval := 0, rank := 1, pc := 0x2000 })]) = true := by decide +kernel
theorem witness_ReturnFromTrap : Runs sSvc thSvc hdr0 ∧ 2 ≤ thSvc.priv ∧ sSvc.cur.svc = true ∧ (sSvc.closeAll sSvc.cur).isSome = true := ⟨⟨rfl, rfl, (fun h => nomatch h), by decide⟩, by decide, rfl, by decide +kernel⟩
theorem test_eret_outside : ok (exec (.eret hdr0 (sf 0 0 0)) (ready { thI with status := 2 })) (fun t => t.thread == none) = true := by decide +kernel
theorem test_crr : leaves (exec (.crr hdr0 { sf 1 0 0 with imm := 7 }) sI) 1 0xFFFFFFFF && leaves (exec (.crr hdr0 { sf 1 0 0 with imm := 4 }) sI) 1 1 && leaves (exec (.crr hdr0 { sf 1 0 0 with imm := 6 }) sI) 1 1 = true := by decide +kernel
theorem test_crr_priv : traps (exec (.crr hdr0 { sf 1 0 0 with imm := 0x800 }) sI) 2 (BitVec.ofNat 64 ((encode (.crr hdr0 { sf 1 0 0 with imm := 0x800 })).getD 0)) = true := by decide +kernel
theorem test_crw : thread (exec (.crw hdr0 { sf 0 3 0 with imm := 0x101 }) sI) (·.rngkey == 4) && ok (exec (.crw hdr0 { sf 0 3 0 with imm := 0x100 }) (sI.updCore 0 fun c => { c with accstat := 7 })) (fun t => (t.core 0).accstat == 3) = true := by decide +kernel
theorem test_iflush : ok (exec (.iflush hdr0 (sf 0 0 0)) (sI.updCore 0 fun c => { c with ibuf := [(1, [])] })) (fun t => (t.core 0).ibuf == []) = true := by decide +kernel
/-- Rank 1's gang (gang 4) is empty; X2 names rank 1. -/
def sPair : State := ready { xs [(2, 1)] with status := 2 }
theorem test_pair : ok (exec (.pair hdr0 (sf 3 2 0)) sPair) (fun t => (t.gang 4).paired && t.thread.any (·.p 3)) = true ∧ thread (exec (.unpair hdr0 (sf 3 2 0)) sPair) (fun t => !t.p 3) = true := by decide +kernel
theorem test_unpair : ok (exec (.unpair hdr0 (sf 3 2 0)) (sPair.updGang 4 fun g => { g with paired := true })) (fun t => !(t.gang 4).paired && t.thread.any (·.p 3)) = true := by decide +kernel
theorem witness_FatalStopsAll : step { State.reset with fatal := true, schedule := [.tick] } = .fault .stoppedByFatalError := rfl
theorem witness_StepKeepsSound : Sound State.reset ∧ ok (step State.reset) (fun _ => true) = true := ⟨⟨rfl, by decide⟩, by decide +kernel⟩
/-- A move for a core that the package does not have does nothing. -/
theorem test_no_such_core : (State.reset.present { svc := false, unit := 4096, slot := 0 }).toOption.isNone = true := by decide +kernel
/-! Tasks, berths, messages, engines (sources: R155 to R162, R204 to R227, R258 to R279) -/

theorem test_anchor : thread (exec (.anchor hdr0 (sf 0 0 0)) (ready task1)) (fun t => t.anchored && t.pc == 0x1008) = true := by decide +kernel
theorem test_mobile : thread (exec (.mobile hdr0 (sf 3 0 0)) (ready { task1 with status := 0x11 })) (fun t => !t.anchored && t.p 3) = true ∧
    thread (exec (.mobile hdr0 (sf 3 0 0)) (ready { task1 with status := 0x11, vq := 4 })) (fun t => t.anchored && !t.p 3) = true := by decide +kernel
theorem test_yield : ok (exec (.yield hdr0 (sf 0 0 0)) ((ready task1).updCore 0 fun c => { c with queue := [{ task1 with pc := 0x2000 }] }))
    (fun t => (slotAt (t.core 0).slots 0).yielded && ok (exec (.threadRotation 0 0) t) fun u => (slotAt (u.core 0).slots 0).th.map (·.pc) == some 0x2000 && (u.core 0).queue.map (·.pc) == [0x1008]) = true := by decide +kernel
theorem test_yield_alone : thread (exec (.yield hdr0 (sf 0 0 0)) (ready task1)) (fun t => t.pc == 0x1008) = true := by decide +kernel
/-- Whether rank 1 takes contexts. -/
def immig (b : Bool) (s : State) : State := s.updCtx 1 fun c => c.updRank 1 fun e => { e with immig := b }
theorem test_migrate : ok (exec (.migrate hdr0 (sf 0 2 0)) (immig true (ready (xs [(2, 1)])))) (fun t => (slotAt (t.core 0).slots 0).th == none &&
    t.net.map (fun p => (p.rank, p.kind)) == [(1, .context 1 { xs [(2, 1)] with rank := 1, pc := 0x1008 })]) = true := by decide +kernel
theorem test_migrate_denied : ok (exec (.migrate hdr0 (sf 0 2 0)) (immig false (ready (xs [(2, 1)])))) (fun t => t == (immig false (ready (xs [(2, 1)]))).trapEnter loc0 0x0B 1) = true := by decide +kernel
theorem witness_TaskControl : Runs (immig true (ready (xs [(2, 1)]))) (xs [(2, 1)]) hdr0 ∧ (immig true (ready (xs [(2, 1)]))).curSlot.wins = [] ∧ Flushed (immig true (ready (xs [(2, 1)]))) ∧
    (xs [(2, 1)]).anchored = false ∧ (((immig true (ready (xs [(2, 1)]))).ctx 1).rank 1).immig = true :=
  ⟨⟨rfl, rfl, (fun h => nomatch h), (by decide : (0 : Nat) < 4096)⟩, rfl, ⟨⟨rfl, rfl⟩, ⟨fun _ => rfl, fun _ => rfl, rfl⟩, rfl⟩, rfl, rfl⟩
/-- The parent launch. -/
def parent1 (s : State) : State := { s with launches := [(0, { ctx := 1, phase := .dispatching, live := [{ taskid := 0, rank := 0, stage := 0, thread := 0 }] })], nextLaunch := 1 }
theorem test_exit : ok (exec (.exitI hdr0 (sf 0 0 0)) ((parent1 (ready task1)).updQuay 0 fun q => { q with monitors := [mon1] }))
    (fun t => (slotAt (t.core 0).slots 0).th == none && (t.launch 0).exited == 1 && (t.launch 0).live == [] && (t.quay 0).monitors == []) = true := by decide +kernel

/-- A GRID record of one task of CORE domain at 0x4000 with argument 7, at scratchpad offset 0x80. -/
def gridBytes (extent : Nat) : List Byte := toBytes 128 (0 + 1 * 2 ^ 8 + 0x100000000 * 0 + (5 * 2 ^ 32 + extent) * 2 ^ 128 + 0x4000 * 2 ^ 640 + 7 * 2 ^ 704)
def thSpawn : Thread := { xs [(2, ownBase + 0x80)] with nlev := 1, domain := 5 }
def sSpawn (extent : Nat) : State := let s := parent1 (ready thSpawn)
  { s with mem := Memory.writeN [] (spadHome 0 0x80) (gridBytes extent) }
theorem witness_SpawnGrid : Runs (sSpawn 1) thSpawn hdr0 ∧ (sSpawn 1).poison = [] ∧ (effective thSpawn 2 11 0 0).p = false ∧ OwnAt thSpawn (effective thSpawn 2 11 0 0).v 0x80 128 ∧
    (recOf false ((sSpawn 1).mem.readN (spadHome 0 0x80) 128)).limits true = true ∧ (recOf false ((sSpawn 1).mem.readN (spadHome 0 0x80) 128)).oversize = none ∧
    (((sSpawn 1).placeTasks 1 (.spawn 0 0 9 false (instanceBase 5 0) 1 5 0 false false) (recOf false ((sSpawn 1).mem.readN (spadHome 0 0x80) 128)) []).map fun ts =>
      (sSpawn 1).ranksPresent 1 ts) = some true ∧ Tab.find 0 (sSpawn 1).launches ≠ none :=
  ⟨⟨rfl, rfl, (fun h => nomatch h), (by decide : (0 : Nat) < 4096)⟩, rfl, by decide, ⟨rfl, by decide +kernel⟩, by decide +kernel⟩
theorem test_spawn : ok (exec (.spawn hdr0 { ef 0 2 11 with tail := 9 }) (sSpawn 1)) (fun t => t.thread.map (·.pc) == some 0x100C && (t.launch 1).rcd.entry == 0x4000 && (t.launch 1).rcd.arg == 7
    && (t.launch 1).todo.length == 1 && (t.launch 0).children == 1) = true := by decide +kernel
theorem test_spawn_refused : ok (exec (.spawn hdr0 { ef 0 2 11 with tail := 9 }) (sSpawn 0)) (fun t => t == (sSpawn 0).trapEnter loc0 0x14 1) = true := by decide +kernel

/-- Berth 9 of core 0. -/
def withBerth (th : Thread) (b : Berth) : State := (ready th).updCore 0 fun c => { c with berths := [(9, b)] }
def b9 (o : Out) (p : Berth → Bool) : Bool := ok o fun t => p ((t.core 0).berth 9)
/-- X2 holds 9 (the berth), X3 the operand. -/
def thB (n : Word) : Thread := xs [(2, 9), (3, n)]
theorem witness_BerthWaits : Runs (withBerth (thB 2) { count := 3 }) (thB 2) hdr0 ∧ Flushed (withBerth (thB 2) { count := 3 }) ∧ (baseOf (thB 2) 2).p = false :=
  ⟨⟨rfl, rfl, (fun h => nomatch h), (by decide : (0 : Nat) < 4096)⟩, ⟨⟨rfl, rfl⟩, ⟨fun _ => rfl, fun _ => rfl, rfl⟩, rfl⟩, rfl⟩
theorem test_wait : b9 (exec (.waitI hdr0 (sf 0 2 3)) (withBerth (thB 2) { count := 3 })) (fun b => b.count == 1) = true ∧
    ok (exec (.waitI hdr0 (sf 0 2 3)) (withBerth (thB 4) { count := 3 })) (fun t => (slotAt (t.core 0).slots 0).th == none && ((t.core 0).berth 9).waiters.map (·.kind) == [.wait 4 false]) = true := by
  decide +kernel
/-- A BARRIER of two local participants: ROOT, or with parent rank 1 berth 5. -/
def bar9 (root : Bool) (n : Nat) : Berth := { kind := 3, count := n, cfg := if root then 0xC000_2008_0000_0000 else 0xC000_2000_0500_0001 }
theorem test_arrive : b9 (exec (.arrive hdr0 (sf 0 2 0)) (withBerth (thB 0) (bar9 true 0))) (fun b => b.count == 1 && b.gen == 0) = true ∧
    b9 (exec (.arrive hdr0 (sf 0 2 0)) (withBerth (thB 0) (bar9 true 1))) (fun b => b.count == 0 && b.gen == 1) = true := by decide +kernel
theorem test_arrive_up : ok (exec (.arrive hdr0 (sf 0 2 0)) (withBerth (thB 0) (bar9 false 1))) (fun t => ((t.core 0).berth 9).pending &&
    t.net.map (fun p => (p.rank, p.kind)) == [(1, .inc 5 (some { rank := 0, berth := 9 }))]) = true := by decide +kernel
theorem test_bar : ok (exec (.bar hdr0 (sf 0 2 0)) (withBerth (thB 0) (bar9 true 0))) (fun t => ((t.core 0).berth 9).waiters.map (·.kind) == [.bar 0 false] && (slotAt (t.core 0).slots 0).th == none) = true ∧
    ok (exec (.bar hdr0 (sf 0 2 0)) (withBerth (thB 0) (bar9 true 1))) (fun t => ((t.core 0).berth 9).gen == 1 && (slotAt (t.core 0).slots 0).th == none && (t.core 0).woke.map (·.2.pc) == [0x1008]) = true := by decide +kernel
theorem test_berth_range : ok (exec (.waitI hdr0 { sf 0 2 3 with imm := 0x7FF }) (withBerth (thB 0) {})) (fun t => t == (withBerth (thB 0) {}).trapEnter loc0 0x0D 0x808) = true := by decide +kernel
-- R223: ALLOW of 2^3 slots sets COUNT 8
theorem test_bcfg : b9 (exec (.bcfg hdr0 (ef 0 2 3)) (withBerth (thB 0x8000_0018_0000_0001) {})) (fun b => b == { kind := 2, cfg := 0x8000_0018_0000_0001, count := 8 }) = true ∧
    ok (exec (.bcfg hdr0 (ef 0 2 3)) (withBerth (thB 0x8000_0080_0000_0000) {})) (fun t => t == (withBerth (thB 0x8000_0080_0000_0000) {}).trapEnter loc0 0x0D 9) = true := by decide +kernel
theorem test_bread : thread (exec (.bread hdr0 (ef 1 2 0)) (withBerth (thB 0) { bar9 true 1 with gen := 3, pending := true })) (fun t => (t.xreg 1).v == 0xC803_0000_0000_0001) = true := by
  decide +kernel
theorem test_bclr : b9 (exec (.bclr hdr0 (ef 0 2 0)) (withBerth (thB 0) { count := 7, ovf := true })) (fun b => b == {}) = true := by decide +kernel

/-- SEND to rank 1's berth 9: 8 bytes at scratchpad offset 0x10 to address 0x20000. -/
def thSend : Thread := xs [(2, 1), (3, ownBase + 0x10), (4, 8), (5, 0x20000), (6, ownBase + 0x10)]
def send1 : EF := { ef 7 2 3 with tail := 0x54, imm := 9 }
def sSend (b : Berth) : State := { withBerth thSend b with mem := [(spadHome 0 0x10, 0xAB)] }
theorem test_send : ok (exec (.sendI hdr0 send1) (sSend {})) (fun t => t.net.map (fun p => (p.rank, p.kind)) == [(1, .place 9 0x20000 [0xAB, 0, 0, 0, 0, 0, 0, 0] [] 1 0 none)]) = true := by decide +kernel
theorem witness_Messages : Runs (sSend { kind := 2, count := 1 }) thSend hdr0 ∧ (baseOf thSend send1.c).v.toNat ≤ 2048 ∧ (baseOf thSend 3).v.toNat % 2 ^ 56 = 0x00FFFFFFFFFC0000 + 0x10 ∧ (baseOf thSend 3).p = false ∧
    (((sSend {}).ctx 1).rank 1).state ≠ 0 := ⟨⟨rfl, rfl, (fun h => nomatch h), (by decide : (0 : Nat) < 4096)⟩, by decide +kernel⟩
theorem test_cput : ok (exec (.cput hdr0 { send1 with a := 6 }) (sSend { kind := 2, count := 1, cfg := 0x8000_0000_0500_0001 })) (fun t => ((t.core 0).berth 9).count == 0 && t.thread.any (·.p 7)
    && t.net.map (fun p => (p.rank, p.kind)) == [(1, .chan 5 8 [0xAB, 0, 0, 0, 0, 0, 0, 0] [] 1 0)]) = true ∧
    thread (exec (.cput hdr0 { send1 with a := 6 }) (sSend { kind := 2 })) (fun t => !t.p 7) = true := by decide +kernel
/-- A SLOT berth: ring at 0x100 (16 × 0x10), 2^1 slots of 16 + 16 bytes, partner rank 1 berth 5. -/
def slot9 (held : Bool) (n : Nat) : Berth := { kind := 1, count := n, held := held, cfg := 0x4010_0020_0500_0001 }
theorem test_cget : thread (exec (.cget hdr0 { send1 with tail := 0x10 }) (sSend (slot9 false 1))) (fun t => t.p 7 && (t.xreg 1).v == ownBase + 0x100) = true ∧
    ok (exec (.cget hdr0 { send1 with tail := 0x10 }) (sSend (slot9 true 1))) (fun t => t.thread.any (fun u => (u.xreg 1).v == ownBase + 0x120) && t.net.map (fun p => (p.rank, p.kind)) == [(1, .inc 5 none)]) = true := by
  decide +kernel
theorem test_cgetRel : ok (exec (.cgetRel hdr0 send1) (sSend (slot9 true 1))) (fun t => !((t.core 0).berth 9).held && ((t.core 0).berth 9).ridx == 1 && t.net.length == 1) = true := by decide +kernel

theorem test_repb : ok (exec (.repb hdr0 (sf 3 0 0)) (ready task1)) (fun t => (t.core 0).rpt.owner == some task1.task && t.thread.any (·.p 3)) = true := by decide +kernel
/-- A captured ASWAP of the thread. -/
def sRep : State := (ready { xs [(2, 8), (3, 2)] with array := true }).updCore 0 fun c => { c with rpt := { owner := some task1.task, body := [{ word := aswapWord, pc := 0x1000 }] } }
theorem test_repe : ok (exec (.repe hdr0 (sf 0 2 3)) sRep) (fun t => (t.core 0).rpt.running && (t.core 0).rpt.n == 2 && (t.core 0).rpt.step.v == 8) = true ∧
    ok (exec (.repe hdr0 (sf 0 2 11)) sRep) (fun t => (t.core 0).rpt == {}) = true := by decide +kernel
theorem test_repx : ok (exec (.repx hdr0 (sf 3 0 0)) sRep) (fun t => (t.core 0).rpt == {} && t.thread.any (·.p 3)) = true := by decide +kernel

/-- Channel 2 of quay 0 with a template of one 64-byte row at TEMPLATE index 0 of context 1 (R260, R261). -/
def sCopy : State := (((ready (xs [(3, 0)])).updCtx 1 fun c => { c with desc := { c.desc with ttbase := 0x8000, ttcount := 4 }, ptes := [] }).updQuay 0 fun q =>
  { q with chans := [(2, { owner := some 1 })] })
theorem test_btabort : ok (exec (.btabort hdr0 { ef 0 10 0 with tail := 2 }) sCopy) (fun t => t.net.map (·.kind) == [.abort 0 2]) = true := by decide +kernel
/-- A template in quay 0's shared memory: 64 bytes from offset 0x100 to 0x200, DRANK 0xFFFFFF. -/
def templateBytes : List Byte := toBytes 64 (0x00FD000000000100 + 0x00FD000000000200 * 2 ^ 64 + 64 * 2 ^ 256 + 1 * 2 ^ 288 + 0xFFFFFF * 2 ^ 320 + 3 * 2 ^ 352 + 4 * 2 ^ 368)
def sKick : State := let s := sCopy.updCtx 1 fun c => { c with desc := { c.desc with ttbase := 0x00FD000000001000 } }
  { s with mem := Memory.writeN [] (quayHome 0 0x1000) templateBytes }
def kick0 : Kick := { value := 0, core := 0, rank := 0, ctx := 1, gen := 5, task := task1.task, copyout := false, serial := 0 }
def template1 : Template := { src := 0x00FD000000000100, dst := 0x00FD000000000200, rowbytes := 64, rows := 1, drank := 0xFFFFFF, ptag := 3, ctag := 4 }
theorem witness_CopyKicks : Runs sKick (xs [(3, 0)]) hdr0 ∧ Flushed sKick ∧ sKick.curSlot.wins = [] ∧ (sKick.core 0).board = [] ∧ ((sKick.quay 0).chan 2).owner = some 1 ∧ sKick.serial = 0 ∧
    (let s1 : State := { (sKick.updCore 0 fun c => { c with phasecnt := c.phasecnt + 1 }) with serial := 1 }
     (s1.kickTemplate 0 kick0).1.map (fun r => r.toOption) = some (some (template1, 0)) ∧ (s1.kickTemplate 0 kick0).2 = s1) ∧ { template1 with drank := 0 }.legal 0 = true :=
  ⟨⟨rfl, rfl, (fun h => nomatch h), (by decide : (0 : Nat) < 4096)⟩, ⟨⟨rfl, rfl⟩, ⟨fun q => by
    show (Tab.get ({} : Quay) q [(0, _)]).merge = []
    unfold Tab.get
    split <;> rfl, fun _ => rfl, rfl⟩, rfl⟩, rfl, rfl, rfl, rfl, by decide +kernel⟩
theorem test_btx : ok (exec (.btx hdr0 { ef 0 10 3 with tail := 2 }) sKick) (fun t => ((t.quay 0).chan 2).copies == [{ kick := kick0, t := { template1 with drank := 0 } }] &&
    (t.core 0).board == [{ quay := 0, serial := 0, lo := 0x00FD000000000200, hi := 0x00FD000000000240 }]) = true := by decide +kernel

/-- A BROADCAST record at scratchpad offset 0x40, its tree of two nodes in quay 0's shared memory. -/
def collBytes (node : Nat) : List Byte := toBytes 64 (2 + 2 * 2 ^ 16 + 1 * 2 ^ 32 + 0x00FD000000000400 * 2 ^ 64 + 0x00FD000000000500 * 2 ^ 128 + 0x00FD000000002000 * 2 ^ 192 + node * 2 ^ 256 + 3 * 2 ^ 272 + 77 * 2 ^ 288)
def treeBytes : List Byte := toBytes 32 (2 + (0xFFFF * 2 ^ 32 + 1) * 2 ^ 128 + (0 * 2 ^ 32 + 0) * 2 ^ 192)
def thColl : Thread := xs [(2, ownBase + 0x40)]
def sColl (node : Nat) : State := let s := ready thColl
  { s with mem := Memory.writeN (Memory.writeN [] (quayHome 0 0x2000) treeBytes) (spadHome 0 0x40) (collBytes node) }
theorem witness_CollectiveAcceptance : Runs (sColl 1) thColl hdr0 ∧ (sColl 1).curSlot.wins.length < 2 ∧ (sColl 1).poison = [] ∧ Quiet (sColl 1) ∧ (sColl 1).aligned 1 (locAgent loc0) (.collective 0) = true ∧ (effective thColl 2 11 0 0).p = false ∧ OwnAt thColl (effective thColl 2 11 0 0).v 0x40 64 ∧
    (let r := collRec ((sColl 1).mem.readN (spadHome 0 0x40) 64)
     let s0 := (sColl 1).updCore 0 fun c => { c with phasecnt := c.phasecnt + 1 }
     r.legal 1 = true ∧ s0.readTree (collEng 0 1) (threadReader loc0) r.tree = (some (some ([0xFFFF, 0], [1, 0])), s0) ∧ r.legal 2 = true ∧ r.op = 2 ∧ r.node = 1) :=
  ⟨⟨rfl, rfl, (fun h => nomatch h), (by decide : (0 : Nat) < 4096)⟩, by decide, rfl, ⟨rfl, rfl, (fun _ h => nomatch h), fun _ => rfl, rfl, ⟨rfl, rfl⟩, rfl, ⟨fun _ => rfl, fun _ => rfl, rfl⟩, fun _ _ h => nomatch h⟩, rfl, by decide, ⟨rfl, by decide +kernel⟩, by decide +kernel⟩
theorem test_coll : opens (exec (.coll hdr0 (ef 1 2 11)) (sColl 1)) [.x 1 { v := 0, p := false }] = true ∧ ok (exec (.coll hdr0 (ef 1 2 11)) (sColl 1)) (fun t =>
    (t.die 0).colls.map (fun o => (o.opid, o.ranks, o.nodes.map (·.node))) == [(77, [1, 0], [1])]) = true := by decide +kernel
-- node 0 is rank 1's
theorem test_coll_refused : opens (exec (.coll hdr0 (ef 1 2 11)) (sColl 0)) [.x 1 { v := 1, p := false }] = true := by decide +kernel

/-! Gang arrays -/

def thArr : Thread := { xs [(2, ownBase), (3, 64)] with array := true, vq := 8 }
/-- Row 5 of bank 1 and row 6 of bank 0 hold values; bank 0 is the working bank. -/
def sArr : State := (ready thArr).updCore 0 fun c => { c with arr := { acc := [(6, 0x66), (256 + 5, 0x55)] }, vregs := [(1, 0x77)] }
theorem witness_ArrayAccumulators : Runs sArr thArr hdr0 ∧ sArr.curSlot.wins.length < 2 ∧ thArr.array = true ∧ sArr.intervalOpen 0 = false :=
  ⟨⟨rfl, rfl, (fun h => nomatch h), (by decide : (0 : Nat) < 4096)⟩, by decide, rfl, rfl⟩
/-- The same in a paired gang, after `n` instructions of the interval. -/
def sArrPair (n : Nat) : State := (sArr.updGang 0 fun g => { g with paired := true }).updCore 0 fun c => { c with pair := { c.pair with retired := n } }
-- R158: an array instruction waits for the end of the interval, and ends it
theorem test_array_pair : ok (exec (.aswap hdr0 (sf 0 0 0)) (sArrPair 3)) (fun t => (t.core 0).arr.role == 0 && (slotAt (t.core 0).slots 0).stall == some .request && t.intervalDue 0)
    && ok (exec (.aswap hdr0 (sf 0 0 0)) (sArrPair 0)) (fun t => (t.core 0).arr.role == 1 && t.intervalDue 0) = true := by decide +kernel
/-- The accumulator rows after an instruction. -/
def rows (o : Out) (bank r : Nat) (v : VReg) : Bool := ok o fun t => Tab.get 0 (256 * bank + r) (t.core 0).arr.acc == v
theorem test_azero : rows (exec (.azero hdr0 { sf 0 10 0 with imm := 0x105 }) sArr) 0 6 0 && rows (exec (.azero hdr0 { sf 0 10 0 with imm := 0x105 }) sArr) 1 5 0x55
    && rows (exec (.azero hdr0 { sf 0 10 0 with imm := 0x105, fl := 1 }) sArr) 1 5 0 = true := by decide +kernel
theorem test_aswap : ok (exec (.aswap hdr0 (sf 0 0 0)) sArr) (fun t => (t.core 0).arr.role == 1) = true := by decide +kernel
theorem test_aread : vlatch (exec (.aread hdr0 { sf 0 10 0 with imm := 5, fl := 2 }) sArr) (· == 0x55) = true := by decide +kernel
theorem test_awrite : rows (exec (.awrite hdr0 { sf 0 10 0 with imm := 9, fl := 1 }) sArr) 1 9 0x77 = true := by decide +kernel
theorem test_astat : ok (exec (.astat hdr0 (sf 1 0 0)) (ready task1)) (fun t => t.curSlot.wins.length == 1) = true := by decide +kernel
theorem test_array_denied : ok (exec (.azero hdr0 (sf 0 10 0)) (ready task1)) (fun t => t == (ready task1).trapEnter loc0 0x0C 1) = true := by decide +kernel
/-- Two INT8 weight rows, 64 bytes apart: row 0 is 1, 2, 0 ...; row 1 is 10, 20, 0 .... The stream row at the same place as weights is read from offset 0x80: 3, -1. -/
def mf (k : Nat) : MF := { imm := BitVec.ofNat 32 k, rown := 0, rowb := 4, sc := 0, fmt := 9, xq := 0, xs := 3, xa := 2 }
def sW : State := { ready thArr with mem := Memory.writeN [] (spadHome 0 0) ([1, 2] ++ rep 62 0 ++ [10, 20]) }
theorem test_wload : ok (exec (.wload hdr0 (mf 2)) sW) (fun t => (t.core 0).arr.loaded && (t.core 0).arr.wrow == [0x201, 0x140A] && (t.core 0).arr.wdepth == 2 && (t.core 0).arr.wf == 9) = true := by
  decide +kernel
/-- Those weights loaded, and the stream row 3, -1 at scratchpad offset 0. -/
def sM : State := { (ready thArr).updCore 0 fun c => { c with arr := { loaded := true, wf := 9, wdepth := 2, wrow := [0x201, 0x140A], acc := [(4, 100)] } } with mem := [(spadHome 0 0, 3), (spadHome 0 1, 0xFF)] }
theorem witness_ArrayLoadMultiply : Runs sM thArr hdr0 ∧ sM.curSlot.wins.length < 2 ∧ thArr.array = true ∧ sM.isJoined 0 = false ∧ pairsWith 9 9 = true ∧ (sM.core 0).arr.loaded = true ∧ sM.poison = [] :=
  ⟨⟨rfl, rfl, (fun h => nomatch h), (by decide : (0 : Nat) < 4096)⟩, by decide, rfl, by decide, by decide, rfl, rfl⟩
-- 3 × 1 - 10 = -7, 3 × 2 - 20 = -14
theorem test_mma : ok (exec (.mma hdr0 (mf 2)) sM) (fun t => (Tab.get 0 4 (t.core 0).arr.acc : VReg).setWidth 96 == 0x00000000_FFFFFFF2_FFFFFFF9) = true := by decide +kernel
theorem test_mmaAcc : ok (exec (.mmaAcc hdr0 (mf 2)) sM) (fun t => (Tab.get 0 4 (t.core 0).arr.acc : VReg).setWidth 64 == 0xFFFFFFF2_0000005D) = true := by decide +kernel
theorem witness_GangJoinLeave : Runs (ready thArr) thArr hdr0 ∧ (ready thArr).arrayInFlight = false ∧ (ready thArr).cur.svc = false ∧ (ready thArr).isJoined 0 = false ∧
    ((ready thArr).gang 0).mask = 0 ∧ (ready thArr).intervalOpen 0 = false ∧ ((ready thArr).core 0).berth 9 = {} := ⟨⟨rfl, rfl, (fun h => nomatch h), (by decide : (0 : Nat) < 4096)⟩, by decide +kernel⟩
theorem test_gangJoin : ok (exec (.gangJoin hdr0 { sf 0 0 0 with fl := 1, imm := 9 }) (ready thArr)) (fun t => (t.gang 0).joined == 1 && (t.gang 0).arrived == 0 && t.thread.map (·.pc) == some 0x1008) = true ∧
    ok (exec (.gangJoin hdr0 { sf 0 0 0 with fl := 3, imm := 9 }) (ready thArr)) (fun t => (t.gang 0).arrived == 1 && (slotAt (t.core 0).slots 0).th == none) = true := by decide +kernel
theorem test_gangLeave : ok (exec (.gangLeave hdr0 (sf 0 0 0)) ((ready thArr).updGang 0 fun g => { g with mask := 3, joined := 3 })) (fun t => (t.gang 0).joined == 2 && (t.gang 0).dissolving) = true ∧
    ok (exec (.gangLeave hdr0 (sf 0 0 0)) (ready thArr)) (fun t => t == (ready thArr).trapEnter loc0 0x0C 7) = true := by decide +kernel
/-! Slates, content-addressed lines, snapshots (sources: R336 to R401) -/

/-- Slate 7 belongs to context 1; X2 names it. -/
def sSlate (th : Thread) (f : Slate → Slate) : State := (ready th).updSlate 7 fun x => f { x with alloc := true, ctx := 1, vb := 1000, vocab := 2000 }
def thS : Thread := xs [(2, 7), (3, 5), (4, ownBase), (6, 2)]
def slate7 (o : Out) (p : Slate → Bool) : Bool := ok o fun t => p (t.slate 7)
theorem witness_SlateFields : Runs (sSlate thS id) thS hdr0 ∧ (sSlate thS id).curSlot.wins.length < 2 ∧ Quiet (sSlate thS id) ∧ (sSlate thS id).prompt = true ∧ (baseOf thS 2).p = false ∧ (baseOf thS 2).v.toNat < 2 ^ 15 ∧
    ((sSlate thS id).slate 7).alloc = true ∧ ((sSlate thS id).slate 7).ctx = thS.ctx :=
  ⟨⟨rfl, rfl, (fun h => nomatch h), (by decide : (0 : Nat) < 4096)⟩, by decide, ⟨rfl, rfl, (fun _ h => nomatch h), fun _ => rfl, rfl, ⟨rfl, rfl⟩, rfl, ⟨fun _ => rfl, fun _ => rfl, rfl⟩, fun _ _ h => nomatch h⟩, rfl, rfl, by decide, rfl, rfl⟩
theorem test_slr : opens (exec (.slr hdr0 { ef 1 2 0 with imm := 12 }) (sSlate thS fun x => { x with rngkey := 77 })) [.x 1 { v := 77, p := false }] = true := by decide +kernel
theorem test_slr_ctl : opens (exec (.slr hdr0 { ef 1 2 0 with imm := 11 }) (sSlate thS fun x => { x with stat := 2, tlimit := 3, tcount := 4, fq := [(1, 0)], omode := true }))
    [.x 1 { v := 0x0000_0000_0204_0306, p := false }] = true := by decide +kernel
theorem test_slw : slate7 (exec (.slw hdr0 { ef 0 2 11 with imm := 9, tail := 64 }) (sSlate thS id)) (·.wsize == 64) = true ∧
    ok (exec (.slw hdr0 { ef 0 2 11 with imm := 9, tail := 65 }) (sSlate thS id)) (fun t => t == (sSlate thS id).trapEnter loc0 0x11 7) = true := by decide +kernel
theorem test_slw_open : thread (exec (.slw hdr0 { ef 0 2 11 with imm := 26, tail := 1 }) (sSlate thS id)) (·.seq == 7) = true := by decide +kernel
theorem test_force : slate7 (exec (.force hdr0 { ef 1 2 4 with tail := 2 }) { sSlate thS (fun x => { x with stat := 1 }) with mem := [(spadHome 0 0, 9), (spadHome 0 4, 10)] }) (fun x => x.fq == [(9, 0), (10, 0)] && x.stat == 0) = true ∧
    opens (exec (.force hdr0 { ef 1 2 4 with tail := 2 }) { sSlate thS id with mem := [(spadHome 0 0, 9)] }) [.x 1 { v := 2, p := false }] = true := by decide +kernel
-- 1350 to 1511 are verb tokens that may not be forced
theorem test_force_bad : ok (exec (.force hdr0 { ef 1 2 4 with tail := 1 }) { sSlate thS id with mem := [(spadHome 0 0, 0x46), (spadHome 0 1, 5)] }) (fun t => t.thread == none) = true := by decide +kernel
theorem test_gset : slate7 (exec (.gset hdr0 (ef 1 2 3)) (sSlate thS fun x => { x with gcount := 6, gstate := 4 })) (·.gstate == 5) = true ∧
    opens (exec (.gset hdr0 (ef 1 2 3)) (sSlate thS fun x => { x with gcount := 6, gstate := 4 })) [.x 1 { v := 4, p := false }] = true := by decide +kernel

/-- A DRAW record at offset 0: LOGITS at offset 0x1000, FIRST 0, COUNT 16, FMT 0, TREE at offset 0x100, a table of one node of rank 0. -/
def drawMem : Memory := Memory.writeN (Memory.writeN [] (spadHome 0 0) (toBytes 32 (0x00FFFFFFFFFC1000 + 16 * 2 ^ 96 + 0x00FFFFFFFFFC0100 * 2 ^ 192))) (spadHome 0 0x100) (toBytes 24 (1 + 0xFFFF * 2 ^ 160))
theorem test_draw : ok (exec (.draw hdr0 { ef 1 2 4 with tail := 0x30 }) { sSlate thS id with mem := drawMem }) (fun t => (t.slate 7).draws.map (fun r => (r.xd, r.count, r.ranks)) == [(1, 16, [0])]
    && t.curSlot.wins.map (fun w => (w.major, w.decided)) == [(0x70, false)]) = true := by decide +kernel
/-- An ACCEPT record at offset 0: M 1, N 2, NODES at offset 0x100 with P at offset 0x200 (0, 1.0), OUT at offset 0x300. -/
def acceptMem : Memory := Memory.writeN (Memory.writeN (Memory.writeN [] (spadHome 0 0) (toBytes 64 (1 + 2 * 2 ^ 32 + 0x00FFFFFFFFFC0100 * 2 ^ 64 + 0x00FFFFFFFFFC0300 * 2 ^ 128)))
  (spadHome 0 0x100) (toBytes 32 (0xFFFF * 2 ^ 32 + 0x00FFFFFFFFFC0200 * 2 ^ 64))) (spadHome 0 0x200) (toBytes 8 (0x3F800000 * 2 ^ 32))
theorem test_accept : ok (exec (.accept hdr0 (ef 1 2 4)) { sSlate thS id with mem := acceptMem }) (fun t => t.mem.readN (spadHome 0 0x300) 4 == [1, 0, 0, 0] && (t.slate 7).step == 1
    && t.curSlot.wins.map (·.latch) == [[.x 1 { v := 1, p := false }]]) = true := by decide +kernel
theorem witness_SlateSampler : Runs { sSlate thS id with mem := acceptMem } thS hdr0 ∧ (thS.xreg 4).p = false ∧ OwnAt thS (thS.xreg 4).v 0 64 ∧ ofBytes (acceptMem.readN (spadHome 0 0) 4) = 1 ∧ ofBytes (acceptMem.readN (spadHome 0 0x104) 2) = 0xFFFF :=
  ⟨⟨rfl, rfl, (fun h => nomatch h), (by decide : (0 : Nat) < 4096)⟩, by decide, ⟨rfl, by decide +kernel⟩, by decide +kernel, by decide +kernel⟩
theorem witness_SlateSampler_draw : ofBytes (drawMem.readN (spadHome 0 0x100) 16) = 1 ∧ ofBytes (drawMem.readN (spadHome 0 0x110) 8) = 0xFFFF * 2 ^ 32 + thS.rank ∧ (((sSlate thS id).ctx 1).rank 0).phys / 512 = 7 / 4096 ∧
    ofBytes (drawMem.readN (spadHome 0 12) 4) = 16 ∧ OwnAt thS (thS.xreg 4).v 0 32 := ⟨by decide +kernel, by decide +kernel, by decide, by decide +kernel, ⟨rfl, by decide +kernel⟩⟩
/-- 2 layers of 2^2 slots of 64-byte rows, window 3, at scratchpad offset 0x400; position 5. -/
def kv (x : Slate) : Slate := { x with kvbase := ownBase + 0x400, kvgeo := 0x02_0003_02_0040, kvpos := 5 }
theorem test_kvput : ok (exec (.kvput hdr0 { ef 1 2 4 with tail := 0xA6 }) { sSlate (thS.setX 6 { v := 1, p := false }) kv with mem := [(spadHome 0 3, 0x5A)] })
    (fun t => t.mem.read (spadHome 0 (0x400 + (1 * 4 + 1) * 64 + 3)) == 0x5A && t.curSlot.wins.map (·.latch) == [[.x 1 { v := 0, p := false }]]) = true := by decide +kernel
theorem test_kvput_layer : opens (exec (.kvput hdr0 { ef 1 2 4 with tail := 0xA6 }) (sSlate thS kv)) [.x 1 { v := 3, p := false }] = true := by decide +kernel
theorem test_kvcommit : slate7 (exec (.kvcommit hdr0 { ef 1 2 11 with imm := 1 }) (sSlate thS kv)) (·.kvpos == 6) = true ∧
    opens (exec (.kvcommit hdr0 (ef 1 2 3)) (sSlate thS kv)) [.x 1 { v := BitVec.allOnes 64, p := false }] = true := by decide +kernel

/-! Content-addressed lines -/

def thC : Thread := xs [(2, ownBase), (3, ownBase + 0x400), (4, 0x10000040), (5, 1)]
/-- A line of the domain of context 1. -/
def line1 (n : Nat) : CaLine := { dom := 0, sl := 0x50000, data := rep 512 0x11, pois := false, count := n, pinned := false, removed := false }
def sC (n : Nat) (cells : List (Nat × Byte)) : State := let s := tlb1 (ready thC)
  let t := s.updCore 0 fun c => { c with tlb := [{ ctx := 1, pte := { codePage with cls := .root } }] }
  { t with ca := [line1 n], mem := cells }
theorem witness_ContentLines : Runs (sC 1 []) thC hdr0 ∧ (sC 1 []).curSlot.wins.length < 2 ∧ Quiet (sC 1 []) ∧ (sC 1 []).prompt = true ∧ (sC 1 []).net = [] ∧ (baseOf thC 2).p = false ∧ OwnAt thC (baseOf thC 2).v 0 64 ∧ OwnAt thC (thC.xreg 3).v 0x400 16 ∧
    cached 1 0x10000040 ((sC 1 []).core 0).tlb = some { codePage with cls := .root } :=
  ⟨⟨rfl, rfl, (fun h => nomatch h), (by decide : (0 : Nat) < 4096)⟩, by decide, ⟨rfl, rfl, (fun _ h => nomatch h), fun _ => rfl, rfl, ⟨rfl, rfl⟩, rfl, ⟨fun _ => rfl, fun _ => rfl, rfl⟩, fun _ _ h => nomatch h⟩, rfl, rfl, rfl, ⟨rfl, by decide +kernel⟩, ⟨rfl, by decide +kernel⟩, by decide +kernel⟩
def caCounts (o : Out) (l : List Nat) : Bool := ok o fun t => t.ca.map (·.count) == l
theorem test_retain : caCounts (exec (.retain hdr0 (ef 1 2 0)) (sC 1 [(spadHome 0 2, 5)])) [2] = true ∧ ok (exec (.retain hdr0 (ef 1 2 0)) (sC 1 [])) (fun t => t.thread == none) = true := by decide +kernel
theorem test_drop : caCounts (exec (.dropI hdr0 (ef 1 2 0)) (sC 2 [(spadHome 0 2, 5)])) [1] = true ∧ caCounts (exec (.dropI hdr0 (ef 1 2 0)) (sC 1 [(spadHome 0 2, 5)])) [] = true := by decide +kernel
theorem test_sfetch : ok (exec (.sfetch hdr0 (ef 0 2 3)) (sC 1 [(spadHome 0 0x402, 5)])) (fun t => t.curSlot.wins.map (fun w => w.late.flatMap (·.data)) == [rep 512 0x11]) = true := by decide +kernel
theorem test_retainR : ok (exec (.retainR hdr0 (ef 1 4 3)) (sC 1 [(0x10000042, 5)])) (fun t => t.ca.map (·.count) == [2] && t.curSlot.wins.map (fun w => w.late.flatMap (·.data)) == [toBytes 16 0x50000]) = true := by decide +kernel
theorem test_swaproot : ok (exec (.swaproot hdr0 (ef 1 4 3)) (sC 1 [(0x10000042, 5), (spadHome 0 0x402, 5), (spadHome 0 0x412, 7)])) (fun t => t.mem.read 0x10000042 == 7 && t.net.map (·.kind) == [.caDec 0 0x50000]
    && t.curSlot.wins.map (·.latch) == [[.x 1 { v := 1, p := false }]]) = true := by decide +kernel
theorem test_swaproot_other : ok (exec (.swaproot hdr0 (ef 1 4 3)) (sC 1 [(0x10000042, 5), (spadHome 0 0x402, 6)])) (fun t => t.mem.read 0x10000042 == 5 && t.net == []
    && t.curSlot.wins.map (fun w => w.late.flatMap (·.data)) == [toBytes 16 0x50000]) = true := by decide +kernel
theorem test_copyout : ok (exec (.copyout hdr0 { ef 0 10 0 with fl := 2 }) (let s := sKick
    { s with ca := [line1 1], mem := Memory.writeN (Memory.writeN [] (quayHome 0 0x1000) (toBytes 64 (0x00FD000000000200 * 2 ^ 64 + 512 * 2 ^ 256 + 1 * 2 ^ 288 + 3 * 2 ^ 352 + 4 * 2 ^ 368 + 0x00FD000000003000 * 2 ^ 384 + 3 * 2 ^ 448))) (quayHome 0 0x3000) [0, 0, 5] }))
    (fun t => ((t.quay 0).chan 2).copies.map (fun c => (c.kick.copyout, c.root, c.leaves.length)) == [(true, some 0x50000, 1)]) = true := by decide +kernel

/-! Snapshots -/

def thJ : Thread := { xs [(2, 1)] with status := 2 }
/-- Context 1 is in job 5, whose storage has room. -/
def sJ (th : Thread) (snaps : List Snapshot) : State := ((ready th).updCtx 1 fun c => { c with member := true, job := 5 }).updJob 5 fun j => { j with size := 2 ^ 30, snaps := snaps, latest := 3 }
theorem test_snap : ok (exec (.snap hdr0 { sf 1 0 0 with imm := 9 }) (sJ thJ [])) (fun t => t.thread.any (fun u => (u.xreg 1).v == 4) && (t.job 5).snaps.map (fun x => (x.n, x.state)) == [(4, 1)]) = true := by decide +kernel
theorem test_snap_priv : ok (exec (.snap hdr0 (sf 1 0 0)) (sJ task1 [])) (fun t => t.thread == none) = true := by decide +kernel
theorem test_snapq : thread (exec (.snapq hdr0 (sf 1 2 0)) (sJ thJ [{ n := 1, state := 2 }])) (fun u => (u.xreg 1).v == 0x0001_0002_0000_0003) = true ∧
    thread (exec (.snapq hdr0 (sf 1 2 0)) (ready thJ)) (fun u => (u.xreg 1).v == 0x8000_0000_0000_0001) = true := by decide +kernel
theorem test_rollback_none : thread (exec (.rollback hdr0 (sf 1 2 0)) (sJ thJ [])) (fun u => (u.xreg 1).v == 0x8000_0000_0000_0004) = true := by decide +kernel
/-- A snapshot that core 0's die records. -/
def recording (f : Snapshot → Snapshot) : State := sJ task1 [f { n := 3, state := 1, dies := [0], target := some (1, 0, 9) }]
theorem test_snapshotDieStart : ok (exec (.snapshotDieStart 5 0) (recording id)) (fun t => (t.job 5).snaps.map (·.started) == [[0]]) = true := by decide +kernel
-- R399: an error beyond correction that the snapshot engine reads makes the snapshot FAILED
theorem test_snapshotDieStart_fails : ok (exec (.snapshotDieStart 5 0) { recording id with latent := [{ array := 2, place := 0, unit := 0x40, kind := 2 }] })
    (fun t => (t.job 5).snaps == [] && (t.job 5).failed == some 3 && (Tab.get {} 2 (t.die 0).logs).entries.length == 1 && t.net.length == 1) = true := by decide +kernel
theorem test_snapshotRecord : ok (exec (.snapshotRecord 5 (.core 0)) (recording fun x => { x with started := [0] })) (fun t => (t.job 5).snaps.map (·.recorded) == [[.core 0]]) = true := by decide +kernel
theorem test_clapper : ok (exec (.clapper 5 0) (recording fun x => { x with dies := [0, 1], started := [0, 1], recorded := (recording id).jobAgents 5 0 })) (fun t => (t.job 5).snaps.map (·.sent) == [[(0, 0), (0, 1)]]) = true := by decide +kernel
theorem test_clapperArrival : ok (exec (.clapperArrival 5 1 0) (recording fun x => { x with dies := [0, 1], started := [0, 1], sent := [(0, 1)] })) (fun t => (t.job 5).snaps.map (·.clappers) == [[(0, 1)]]) = true := by decide +kernel
theorem test_jobSnapRequest : ok (exec (.jobSnapRequest 5) (sJ task1 [])) (fun t => (t.job 5).err == 0 && (t.job 5).num == 4 && t.msix.length == 1) = true ∧ ok (exec (.jobSnapRequest 6) (sJ task1 [])) (fun t => (t.job 6).err == 1) = true := by decide +kernel
theorem test_jobRollbackRequest : ok (exec (.jobRollbackRequest 5) (sJ task1 [])) (fun t => (t.job 5).err == 4) = true := by decide +kernel
theorem test_ctxjobWrite : ok (exec (.ctxjobWrite 1 0x103) (ready task1)) (fun t => (t.ctx 1).member && (t.ctx 1).job == 3) = true := by decide +kernel
-- SHAKE256 of 515 zero bytes: 14 bytes, computed apart from the model
theorem test_seal : ok (exec (.seal hdr0 (ef 1 2 3)) (({ sC 1 [] with ca := [] } : State).updDie 3 fun d => { d with caPool := 8 })) (fun t => t.ca.map (fun l => (l.sl, l.count)) == [(0xd002335c4b937117ff5efd193330000, 1)]
    && t.curSlot.wins.map (fun w => w.late.flatMap (·.data)) == [toBytes 16 (0xd002335c4b937117ff5efd193330000)]) = true := by decide +kernel
/-! Vector instructions (sources: R115 to R139) -/

/-- V0 holds I32 elements -5, 7; V1 holds 3, 2; V4 and V5 hold the F32 elements 3.0, -1.5 and 2.0, 4.0; X3 enables lane 0. -/
def thV : Thread := { xs [(3, 1), (4, 6)] with vq := 8 }
def sV : State := (ready thV).updCore 0 fun c => { c with vregs := [(0, 0x7_FFFFFFFB), (1, 0x2_00000003), (4, 0xBFC00000_40400000), (5, 0x40800000_40000000)] }
theorem witness_vector : Runs sV thV hdr0 ∧ Owns thV [2, 0] ∧ Owns thV [1] ∧ sV.curSlot.wins.length < 2 := ⟨⟨rfl, rfl, (fun h => nomatch h), (by decide : (0 : Nat) < 4096)⟩, ⟨rfl, by decide⟩, ⟨rfl, by decide⟩, by decide⟩
/-- V2, V0, V1 as I32; V2, V4, V5 as F32. -/
def vi : VF := { imm := 0, rm := 0, ty := 4, msk := 10, vb := 1, xs := 10, va := 0, vd := 2 }
def vf : VF := { vi with ty := 0, va := 4, vb := 5 }
/-- The low two elements of V2. -/
def v2 (o : Out) (v : Nat) : Bool := ok o fun t => ((t.core 0).v 2).setWidth 64 == BitVec.ofNat 64 v && t.thread.any (·.pc == 0x1008)
def allV (l : List (Instr × Nat)) : Bool := l.all fun p => v2 (exec p.1 sV) p.2
theorem test_vector_integer : allV [(.vadd hdr0 vi, 0x9_FFFFFFFE), (.vsub hdr0 vi, 0x5_FFFFFFF8), (.vmul hdr0 vi, 0xE_FFFFFFF1), (.vmin hdr0 vi, 0x2_FFFFFFFB), (.vmax hdr0 vi, 0x7_00000003), (.vabs hdr0 vi, 0x7_00000005),
    (.vneg hdr0 vi, 0xFFFFFFF9_00000005), (.vand hdr0 vi, 0x2_00000003), (.vor hdr0 vi, 0x7_FFFFFFFB), (.vxor hdr0 vi, 0x5_FFFFFFF8), (.vshl hdr0 vi, 0x1C_FFFFFFD8), (.vshr hdr0 vi, 0x1_1FFFFFFF), (.vsar hdr0 vi, 0x1_FFFFFFFF)] = true := by decide +kernel
theorem test_vector_mask : allV [(.vadd hdr0 { vi with msk := 3 }, 0xFFFFFFFE)] = true := by decide +kernel
-- 3 + 2, -1.5 + 4; 3 - 2, -5.5; 6, -6; VD + A × B with VD 0
theorem test_vector_float : allV [(.vadd hdr0 vf, 0x40200000_40A00000), (.vsub hdr0 vf, 0xC0B00000_3F800000), (.vmul hdr0 vf, 0xC0C00000_40C00000), (.vfma hdr0 vf, 0xC0C00000_40C00000), (.vmin hdr0 vf, 0xBFC00000_40000000),
    (.vmax hdr0 vf, 0x40800000_40400000), (.vabs hdr0 vf, 0x3FC00000_40400000), (.vneg hdr0 vf, 0x3FC00000_C0400000)] = true := by decide +kernel
/-- V2 holds 1.0, 1.0 before. -/
def one2 (o : State → Out) (v : Nat) : Bool := v2 (o (sV.updCore 0 fun c => { c with vregs := Tab.set 2 0x3F800000_3F800000 c.vregs })) v
-- 1 - 6 and 1 + 6 either way round (R124)
theorem test_vector_fused : one2 (exec (.vfma hdr0 vf)) 0xC0A00000_40E00000 && one2 (exec (.vfms hdr0 vf)) 0xC0E00000_40A00000 && one2 (exec (.vfnma hdr0 vf)) 0x40E00000_C0A00000 = true := by decide +kernel
/-- The lanes of a compare in X1, all but lanes 0 and 1 cleared. -/
def lanes (o : Out) (v : Word) : Bool := thread o fun t => (t.xreg 1).v &&& 3 == v
theorem test_vector_compare : lanes (exec (.vcmpEq hdr0 { vi with vd := 1 }) sV) 0 && lanes (exec (.vcmpNe hdr0 { vi with vd := 1 }) sV) 3 && lanes (exec (.vcmpLt hdr0 { vi with vd := 1 }) sV) 1 && lanes (exec (.vcmpLe hdr0 { vi with vd := 1 }) sV) 1 = true := by decide +kernel
theorem test_vsel : allV [(.vsel hdr0 { vi with msk := 3 }, 0x2_FFFFFFFB)] = true := by decide +kernel
-- F32 to BF16 in the low half of each lane; F32 3.0 and -1.5 to the MX row's scale and E4M3 elements and back
theorem test_vcvt : allV [(.vcvt hdr0 { vf with xs := 0, vb := 0, imm := 2 }, 0xBFC0_00004040)] = true := by decide +kernel
theorem test_vred : thread (exec (.vredSum hdr0 { vi with vd := 1, xs := 0, vb := 0 }) sV) (fun t => (t.xreg 1).v == 2) && thread (exec (.vredMax hdr0 { vi with vd := 1, xs := 0, vb := 0 }) sV) (fun t => (t.xreg 1).v == 7)
    && thread (exec (.vredMin hdr0 { vi with vd := 1, xs := 0, vb := 0 }) sV) (fun t => (t.xreg 1).v == 0xFFFFFFFFFFFFFFFB) && thread (exec (.vredArgmax hdr0 { vi with vd := 1, xs := 0, vb := 0 }) sV) (fun t => (t.xreg 1).v == 0x7_00000001) = true := by decide +kernel
-- V1's elements 3, 2 and zeros as indices into V0; X4 is 6
theorem test_permute : allV [(.vperm hdr0 { vi with xs := 0 }, 0), (.vbcast hdr0 { vi with va := 0, vb := 0, xs := 4 }, 0x6_00000006), (.vslup hdr0 { vi with xs := 11, vb := 0, imm := 1 }, 0xFFFFFFFB_00000000), (.vsldn hdr0 { vi with xs := 11, vb := 0, imm := 1 }, 7),
    (.viota hdr0 { vi with va := 0, vb := 0, xs := 4 }, 0x7_00000006), (.vmovv hdr0 { vi with xs := 0, vb := 0 }, 0x7_FFFFFFFB)] = true := by decide +kernel
theorem test_vmovx : thread (exec (.vmovx hdr0 { vi with vd := 1, vb := 0, xs := 0, imm := 1 }) sV) (fun t => (t.xreg 1).v == 7) = true := by decide +kernel
-- R138: the block of 32 INT8 elements: (-5, -1, -1, -1, 7) · (3, 0, 0, 0, 2)
theorem test_vdoti8 : allV [(.vdoti8 hdr0 { vi with imm := 0x99 }, 0x00000000_FFFFFFFF)] = true := by decide +kernel
-- R137: three E4M3 products 1.0 × 1.0 in the first group of 16
theorem test_vdot8 : v2 (exec (.vdot8 hdr0 { vf with va := 6, vb := 6, imm := 0x44 }) (sV.updCore 0 fun c => { c with vregs := Tab.set 6 0x00003838_00000038 c.vregs })) 0x00000000_40400000 = true := by decide +kernel
-- 1 / 2, 1 / 4; 2^2, 2^4; log2; the roots of 4
theorem test_transcendental : vlatch (exec (.vrcp hdr0 { vf with va := 5, xs := 0, vb := 0 }) sV) (fun v => v.setWidth 64 == 0x3E800000_3F000000#64) && vlatch (exec (.vexp2 hdr0 { vf with va := 5, xs := 0, vb := 0 }) sV) (fun v => v.setWidth 64 == 0x41800000_40800000#64)
    && vlatch (exec (.vlog2 hdr0 { vf with va := 5, xs := 0, vb := 0 }) sV) (fun v => v.setWidth 64 == 0x40000000_3F800000#64) && vlatch (exec (.vsqrt hdr0 { vf with va := 5, xs := 0, vb := 0, msk := 4 }) sV) (fun v => v.setWidth 64 == 0x40000000_00000000#64)
    && vlatch (exec (.vrsq hdr0 { vf with va := 5, xs := 0, vb := 0, msk := 4 }) sV) (fun v => v.setWidth 64 == 0x3F000000_00000000#64) = true := by decide +kernel
-- R131, R132: a block whose largest element is 3.0 takes scale 2^-7 (120), so that 3.0 and -1.5 are 384 and -192; and back
theorem test_vquant : ok (exec (.vquant hdr0 { vf with xs := 1, vb := 0, imm := 4 }) sV) (fun t => ((t.core 0).v 2).setWidth 16 == 0xF47C#16 && t.thread.any fun u => (u.xreg 1).v.setWidth 8 == 120#8) = true := by decide +kernel
theorem test_vdeq : v2 (exec (.vdeq hdr0 { vf with va := 7, xs := 1, vb := 0, imm := 4 }) ((ready (thV.setX 1 { v := 120, p := false })).updCore 0 fun c => { c with vregs := [(7, 0xF47C)] })) 0xBFC00000_40400000 = true := by
  decide +kernel
theorem test_vquota : ok (exec (.vadd hdr0 { vi with vd := 8 }) sV) (fun t => t.thread == none) = true := by decide +kernel
/-! One word of every instruction, laid out by hand from R36 to R41 and the table of R51: guard !p5, LA 9 on the long majors, and every field of its
own rule with its top and bottom bits apart where the rule lets it -/

def ks : Hdr := { la := 0, gn := 1, gp := 5 }
def kl : Hdr := { la := 9, gn := 1, gp := 5 }
/-- Each word decodes to its instruction. -/
def reads (l : List (Nat × Instr)) : Bool := l.all fun p => match decodeBits p.1 with
  | .ok i => i == p.2
  | .error _ => false

theorem test_decode_00 : reads
    [(0x2A00, .nop ks { d := 0, a := 0, b := 0, sz := 0, fl := 0, imm := 0 })] = true := by decide +kernel
theorem test_decode_01 : reads
    [(0x800100006C842A04, .add ks { d := 1, a := 2, b := 0xb, sz := 1, fl := 0, imm := 0x8001 }),
     (0x800100016C842A04, .sub ks { d := 1, a := 2, b := 0xb, sz := 1, fl := 0, imm := 0x8001 }),
     (0x800100026C842A04, .andI ks { d := 1, a := 2, b := 0xb, sz := 1, fl := 0, imm := 0x8001 }),
     (0x800100036C842A04, .orI ks { d := 1, a := 2, b := 0xb, sz := 1, fl := 0, imm := 0x8001 }),
     (0x800100046C842A04, .xor ks { d := 1, a := 2, b := 0xb, sz := 1, fl := 0, imm := 0x8001 }),
     (0x800100056C842A04, .andn ks { d := 1, a := 2, b := 0xb, sz := 1, fl := 0, imm := 0x8001 }),
     (0x800100066C842A04, .orn ks { d := 1, a := 2, b := 0xb, sz := 1, fl := 0, imm := 0x8001 }),
     (0x800100076C842A04, .shl ks { d := 1, a := 2, b := 0xb, sz := 1, fl := 0, imm := 0x8001 }),
     (0x800100086C842A04, .shr ks { d := 1, a := 2, b := 0xb, sz := 1, fl := 0, imm := 0x8001 }),
     (0x800100096C842A04, .sar ks { d := 1, a := 2, b := 0xb, sz := 1, fl := 0, imm := 0x8001 }),
     (0x8001000A6C842A04, .rol ks { d := 1, a := 2, b := 0xb, sz := 1, fl := 0, imm := 0x8001 }),
     (0x8001000B6C842A04, .ror ks { d := 1, a := 2, b := 0xb, sz := 1, fl := 0, imm := 0x8001 }),
     (0x8001000C6C842A04, .minI ks { d := 1, a := 2, b := 0xb, sz := 1, fl := 0, imm := 0x8001 }),
     (0x8001000D6C842A04, .maxI ks { d := 1, a := 2, b := 0xb, sz := 1, fl := 0, imm := 0x8001 }),
     (0x8001000E6C842A04, .minu ks { d := 1, a := 2, b := 0xb, sz := 1, fl := 0, imm := 0x8001 }),
     (0x8001000F6C842A04, .maxu ks { d := 1, a := 2, b := 0xb, sz := 1, fl := 0, imm := 0x8001 }),
     (0x800100106C842A04, .mul ks { d := 1, a := 2, b := 0xb, sz := 1, fl := 0, imm := 0x8001 }),
     (0x800100116C842A04, .mulh ks { d := 1, a := 2, b := 0xb, sz := 1, fl := 0, imm := 0x8001 }),
     (0x800100126C842A04, .mulhu ks { d := 1, a := 2, b := 0xb, sz := 1, fl := 0, imm := 0x8001 }),
     (0x134C042A04, .clz ks { d := 1, a := 0, b := 3, sz := 1, fl := 0, imm := 0 }),
     (0x144C042A04, .ctz ks { d := 1, a := 0, b := 3, sz := 1, fl := 0, imm := 0 }),
     (0x154C042A04, .popc ks { d := 1, a := 0, b := 3, sz := 1, fl := 0, imm := 0 }),
     (0x164C042A04, .brev ks { d := 1, a := 0, b := 3, sz := 1, fl := 0, imm := 0 }),
     (0x174C042A04, .bswap ks { d := 1, a := 0, b := 3, sz := 1, fl := 0, imm := 0 })] = true := by decide +kernel
theorem test_decode_02 : reads
    [(0x800100006C866A08, .div kl { d := 1, a := 2, b := 0xb, sz := 1, fl := 0, imm := 0x8001 }),
     (0x800100016C866A08, .divu kl { d := 1, a := 2, b := 0xb, sz := 1, fl := 0, imm := 0x8001 }),
     (0x800100026C866A08, .rem kl { d := 1, a := 2, b := 0xb, sz := 1, fl := 0, imm := 0x8001 }),
     (0x800100036C866A08, .remu kl { d := 1, a := 2, b := 0xb, sz := 1, fl := 0, imm := 0x8001 })] = true := by decide +kernel
theorem test_decode_03 : reads
    [(0x80000000000100006C842A0D, .addX ks { d := 1, a := 2, b := 0xb, sz := 1, fl := 0, imm := 0x800000000001 }),
     (0x80000000000100016C842A0D, .subX ks { d := 1, a := 2, b := 0xb, sz := 1, fl := 0, imm := 0x800000000001 }),
     (0x80000000000100026C842A0D, .andX ks { d := 1, a := 2, b := 0xb, sz := 1, fl := 0, imm := 0x800000000001 }),
     (0x80000000000100036C842A0D, .orX ks { d := 1, a := 2, b := 0xb, sz := 1, fl := 0, imm := 0x800000000001 }),
     (0x80000000000100046C842A0D, .xorX ks { d := 1, a := 2, b := 0xb, sz := 1, fl := 0, imm := 0x800000000001 }),
     (0x80000000000100056C842A0D, .andnX ks { d := 1, a := 2, b := 0xb, sz := 1, fl := 0, imm := 0x800000000001 }),
     (0x80000000000100066C842A0D, .ornX ks { d := 1, a := 2, b := 0xb, sz := 1, fl := 0, imm := 0x800000000001 }),
     (0x80000000000100076C842A0D, .shlX ks { d := 1, a := 2, b := 0xb, sz := 1, fl := 0, imm := 0x800000000001 }),
     (0x80000000000100086C842A0D, .shrX ks { d := 1, a := 2, b := 0xb, sz := 1, fl := 0, imm := 0x800000000001 }),
     (0x80000000000100096C842A0D, .sarX ks { d := 1, a := 2, b := 0xb, sz := 1, fl := 0, imm := 0x800000000001 }),
     (0x800000000001000A6C842A0D, .rolX ks { d := 1, a := 2, b := 0xb, sz := 1, fl := 0, imm := 0x800000000001 }),
     (0x800000000001000B6C842A0D, .rorX ks { d := 1, a := 2, b := 0xb, sz := 1, fl := 0, imm := 0x800000000001 }),
     (0x800000000001000C6C842A0D, .minX ks { d := 1, a := 2, b := 0xb, sz := 1, fl := 0, imm := 0x800000000001 }),
     (0x800000000001000D6C842A0D, .maxX ks { d := 1, a := 2, b := 0xb, sz := 1, fl := 0, imm := 0x800000000001 }),
     (0x800000000001000E6C842A0D, .minuX ks { d := 1, a := 2, b := 0xb, sz := 1, fl := 0, imm := 0x800000000001 }),
     (0x800000000001000F6C842A0D, .maxuX ks { d := 1, a := 2, b := 0xb, sz := 1, fl := 0, imm := 0x800000000001 }),
     (0x80000000000100106C842A0D, .mulX ks { d := 1, a := 2, b := 0xb, sz := 1, fl := 0, imm := 0x800000000001 }),
     (0x80000000000100116C842A0D, .mulhX ks { d := 1, a := 2, b := 0xb, sz := 1, fl := 0, imm := 0x800000000001 }),
     (0x80000000000100126C842A0D, .mulhuX ks { d := 1, a := 2, b := 0xb, sz := 1, fl := 0, imm := 0x800000000001 }),
     (0x80000000000100136C042A0D, .clzX ks { d := 1, a := 0, b := 0xb, sz := 1, fl := 0, imm := 0x800000000001 }),
     (0x80000000000100146C042A0D, .ctzX ks { d := 1, a := 0, b := 0xb, sz := 1, fl := 0, imm := 0x800000000001 }),
     (0x80000000000100156C042A0D, .popcX ks { d := 1, a := 0, b := 0xb, sz := 1, fl := 0, imm := 0x800000000001 }),
     (0x80000000000100166C042A0D, .brevX ks { d := 1, a := 0, b := 0xb, sz := 1, fl := 0, imm := 0x800000000001 }),
     (0x80000000000100176C042A0D, .bswapX ks { d := 1, a := 0, b := 0xb, sz := 1, fl := 0, imm := 0x800000000001 })] = true := by decide +kernel
theorem test_decode_04 : reads
    [(0x2008CB82A10, .cmpEq ks { d := 0xe, a := 2, b := 3, sz := 2, fl := 2, imm := 0 }),
     (0x2018CB82A10, .cmpNe ks { d := 0xe, a := 2, b := 3, sz := 2, fl := 2, imm := 0 }),
     (0x2028CB82A10, .cmpLt ks { d := 0xe, a := 2, b := 3, sz := 2, fl := 2, imm := 0 }),
     (0x2038CB82A10, .cmpLe ks { d := 0xe, a := 2, b := 3, sz := 2, fl := 2, imm := 0 }),
     (0x2048CB82A10, .cmpLtu ks { d := 0xe, a := 2, b := 3, sz := 2, fl := 2, imm := 0 }),
     (0x2058CB82A10, .cmpLeu ks { d := 0xe, a := 2, b := 3, sz := 2, fl := 2, imm := 0 })] = true := by decide +kernel
theorem test_decode_05 : reads
    [(0x20033782A14, .pand ks { d := 0xe, a := 0xd, b := 0xc, sz := 0, fl := 2, imm := 0 }),
     (0x20133782A14, .por ks { d := 0xe, a := 0xd, b := 0xc, sz := 0, fl := 2, imm := 0 }),
     (0x20233782A14, .pxor ks { d := 0xe, a := 0xd, b := 0xc, sz := 0, fl := 2, imm := 0 }),
     (0x10303782A14, .pnot ks { d := 0xe, a := 0xd, b := 0, sz := 0, fl := 1, imm := 0 }),
     (0x400242A14, .prd ks { d := 9, a := 0, b := 0, sz := 0, fl := 0, imm := 0 }),
     (0x800100052E002A14, .pwr ks { d := 0, a := 8, b := 0xb, sz := 0, fl := 0, imm := 0x8001 })] = true := by decide +kernel
theorem test_decode_06 : reads
    [(0xE000C842A18, .sel ks { d := 1, a := 2, b := 3, sz := 0, fl := 0xe, imm := 0 }),
     (0xFDF00012C842A18, .bfx ks { d := 1, a := 2, b := 0xb, sz := 0, fl := 0, imm := 0xfdf }),
     (0xFDF00022C842A18, .bfxu ks { d := 1, a := 2, b := 0xb, sz := 0, fl := 0, imm := 0xfdf }),
     (0xFDF00032C842A18, .bfi ks { d := 1, a := 2, b := 0xb, sz := 0, fl := 0, imm := 0xfdf }),
     (0x7040F042A18, .lea ks { d := 1, a := 0xc, b := 3, sz := 0, fl := 7, imm := 0 })] = true := by decide +kernel
theorem test_decode_08 : reads
    [(0x8001000000002A20, .b ks { d := 0, a := 0, b := 0, sz := 0, fl := 0, imm := 0x8001 })] = true := by decide +kernel
theorem test_decode_09 : reads
    [(0x800000000001000000002A25, .j ks { d := 0, a := 0, b := 0, sz := 0, fl := 0, imm := 0x800000000001 }),
     (0x800000000001000100002A25, .call ks { d := 0, a := 0, b := 0, sz := 0, fl := 0, imm := 0x800000000001 })] = true := by decide +kernel
theorem test_decode_0A : reads
    [(0x8001000000802A28, .jr ks { d := 0, a := 2, b := 0, sz := 0, fl := 0, imm := 0x8001 }),
     (0x8001000100802A28, .callr ks { d := 0, a := 2, b := 0, sz := 0, fl := 0, imm := 0x8001 }),
     (0x200002A28, .ret ks { d := 0, a := 0, b := 0, sz := 0, fl := 0, imm := 0 })] = true := by decide +kernel
theorem test_decode_20 : reads
    [(0x3000E091042A80, .vadd ks { vd := 1, va := 2, xs := 9, vb := 0, msk := 7, ty := 0, rm := 3, imm := 0 }),
     (0x3010E091042A80, .vsub ks { vd := 1, va := 2, xs := 9, vb := 0, msk := 7, ty := 0, rm := 3, imm := 0 }),
     (0x3020E091042A80, .vmul ks { vd := 1, va := 2, xs := 9, vb := 0, msk := 7, ty := 0, rm := 3, imm := 0 }),
     (0x5032E3A1042A80, .vfma ks { vd := 1, va := 2, xs := 0xa, vb := 3, msk := 7, ty := 1, rm := 5, imm := 0 }),
     (0x5042E3A1042A80, .vfms ks { vd := 1, va := 2, xs := 0xa, vb := 3, msk := 7, ty := 1, rm := 5, imm := 0 }),
     (0x5052E3A1042A80, .vfnma ks { vd := 1, va := 2, xs := 0xa, vb := 3, msk := 7, ty := 1, rm := 5, imm := 0 }),
     (0x66E3A1042A80, .vmin ks { vd := 1, va := 2, xs := 0xa, vb := 3, msk := 7, ty := 3, rm := 0, imm := 0 }),
     (0x76E3A1042A80, .vmax ks { vd := 1, va := 2, xs := 0xa, vb := 3, msk := 7, ty := 3, rm := 0, imm := 0 }),
     (0x4088E001042A80, .vabs ks { vd := 1, va := 2, xs := 0, vb := 0, msk := 7, ty := 4, rm := 4, imm := 0 }),
     (0x4098E001042A80, .vneg ks { vd := 1, va := 2, xs := 0, vb := 0, msk := 7, ty := 4, rm := 4, imm := 0 }),
     (0x8100ACE0B1042A80, .vand ks { vd := 1, va := 2, xs := 0xb, vb := 0, msk := 7, ty := 6, rm := 0, imm := 0x81 }),
     (0x8100BCE0B1042A80, .vor ks { vd := 1, va := 2, xs := 0xb, vb := 0, msk := 7, ty := 6, rm := 0, imm := 0x81 }),
     (0x8100CCE0B1042A80, .vxor ks { vd := 1, va := 2, xs := 0xb, vb := 0, msk := 7, ty := 6, rm := 0, imm := 0x81 }),
     (0x8100DCE0B1042A80, .vshl ks { vd := 1, va := 2, xs := 0xb, vb := 0, msk := 7, ty := 6, rm := 0, imm := 0x81 }),
     (0x8100ECE0B1042A80, .vshr ks { vd := 1, va := 2, xs := 0xb, vb := 0, msk := 7, ty := 6, rm := 0, imm := 0x81 }),
     (0x8100FCE0B1042A80, .vsar ks { vd := 1, va := 2, xs := 0xb, vb := 0, msk := 7, ty := 6, rm := 0, imm := 0x81 })] = true := by decide +kernel
theorem test_decode_21 : reads
    [(0x6E3A1042A84, .vcmpEq ks { vd := 1, va := 2, xs := 0xa, vb := 3, msk := 7, ty := 3, rm := 0, imm := 0 }),
     (0x16E3A1042A84, .vcmpNe ks { vd := 1, va := 2, xs := 0xa, vb := 3, msk := 7, ty := 3, rm := 0, imm := 0 }),
     (0x26E3A1042A84, .vcmpLt ks { vd := 1, va := 2, xs := 0xa, vb := 3, msk := 7, ty := 3, rm := 0, imm := 0 }),
     (0x36E3A1042A84, .vcmpLe ks { vd := 1, va := 2, xs := 0xa, vb := 3, msk := 7, ty := 3, rm := 0, imm := 0 })] = true := by decide +kernel
theorem test_decode_22 : reads
    [(0x6E3A1042A88, .vsel ks { vd := 1, va := 2, xs := 0xa, vb := 3, msk := 7, ty := 3, rm := 0, imm := 0 })] = true := by decide +kernel
theorem test_decode_23 : reads
    [(0x849004E001042A8C, .vcvt ks { vd := 1, va := 2, xs := 0, vb := 0, msk := 7, ty := 2, rm := 9, imm := 0x84 })] = true := by decide +kernel
theorem test_decode_24 : reads
    [(0x790034031042A90, .vquant ks { vd := 1, va := 2, xs := 3, vb := 0, msk := 0xa, ty := 1, rm := 9, imm := 7 }),
     (0xA90134031042A90, .vdeq ks { vd := 1, va := 2, xs := 3, vb := 0, msk := 0xa, ty := 1, rm := 9, imm := 0xa })] = true := by decide +kernel
theorem test_decode_25 : reads
    [(0x8E001242A94, .vredSum ks { vd := 9, va := 2, xs := 0, vb := 0, msk := 7, ty := 4, rm := 0, imm := 0 }),
     (0x18E001242A94, .vredMax ks { vd := 9, va := 2, xs := 0, vb := 0, msk := 7, ty := 4, rm := 0, imm := 0 }),
     (0x28E001242A94, .vredMin ks { vd := 9, va := 2, xs := 0, vb := 0, msk := 7, ty := 4, rm := 0, imm := 0 }),
     (0x38E001242A94, .vredArgmax ks { vd := 9, va := 2, xs := 0, vb := 0, msk := 7, ty := 4, rm := 0, imm := 0 })] = true := by decide +kernel
theorem test_decode_26 : reads
    [(0x8E301042A98, .vperm ks { vd := 1, va := 2, xs := 0, vb := 3, msk := 7, ty := 4, rm := 0, imm := 0 }),
     (0x810018E0B0042A98, .vbcast ks { vd := 1, va := 0, xs := 0xb, vb := 0, msk := 7, ty := 4, rm := 0, imm := 0x81 }),
     (0x810028E0B1042A98, .vslup ks { vd := 1, va := 2, xs := 0xb, vb := 0, msk := 7, ty := 4, rm := 0, imm := 0x81 }),
     (0x810038E0B1042A98, .vsldn ks { vd := 1, va := 2, xs := 0xb, vb := 0, msk := 7, ty := 4, rm := 0, imm := 0x81 }),
     (0x48E3A0042A98, .viota ks { vd := 1, va := 0, xs := 0xa, vb := 3, msk := 7, ty := 4, rm := 0, imm := 0 }),
     (0x3F00594001242A98, .vmovx ks { vd := 9, va := 2, xs := 0, vb := 0, msk := 0xa, ty := 4, rm := 0, imm := 0x3f }),
     (0x68E001042A98, .vmovv ks { vd := 1, va := 2, xs := 0, vb := 0, msk := 7, ty := 4, rm := 0, imm := 0 })] = true := by decide +kernel
theorem test_decode_27 : reads
    [(0x580000E381042A9C, .vdot8 ks { vd := 1, va := 2, xs := 8, vb := 3, msk := 7, ty := 0, rm := 0, imm := 0x58 }),
     (0x9A0018E3A1042A9C, .vdoti8 ks { vd := 1, va := 2, xs := 0xa, vb := 3, msk := 7, ty := 4, rm := 0, imm := 0x9a })] = true := by decide +kernel
theorem test_decode_28 : reads
    [(0x3000E001066AA0, .vrcp kl { vd := 1, va := 2, xs := 0, vb := 0, msk := 7, ty := 0, rm := 3, imm := 0 }),
     (0x3010E001066AA0, .vrsq kl { vd := 1, va := 2, xs := 0, vb := 0, msk := 7, ty := 0, rm := 3, imm := 0 }),
     (0x3020E001066AA0, .vsqrt kl { vd := 1, va := 2, xs := 0, vb := 0, msk := 7, ty := 0, rm := 3, imm := 0 }),
     (0x3030E001066AA0, .vexp2 kl { vd := 1, va := 2, xs := 0, vb := 0, msk := 7, ty := 0, rm := 3, imm := 0 }),
     (0x3040E001066AA0, .vlog2 kl { vd := 1, va := 2, xs := 0, vb := 0, msk := 7, ty := 0, rm := 3, imm := 0 })] = true := by decide +kernel
theorem test_decode_40 : reads
    [(0x7FF810000002B00, .gangJoin ks { d := 0, a := 0, b := 0, sz := 0, fl := 0x81, imm := 0x7ff }),
     (0x100002B00, .gangLeave ks { d := 0, a := 0, b := 0, sz := 0, fl := 0, imm := 0 })] = true := by decide +kernel
theorem test_decode_41 : reads
    [(0x6000001A000C866B06, .wload kl { xa := 1, xs := 2, xq := 3, fmt := 0xa, sc := 1, rowb := 0, rown := 0, imm := 0x60 })] = true := by decide +kernel
theorem test_decode_42 : reads
    [(0x607F8018000C866B0A, .mma kl { xa := 1, xs := 2, xq := 3, fmt := 8, sc := 1, rowb := 0x80, rown := 0x7f, imm := 0x60 }),
     (0x607F8018010C866B0A, .mmaAcc kl { xa := 1, xs := 2, xq := 3, fmt := 8, sc := 1, rowb := 0x80, rown := 0x7f, imm := 0x60 })] = true := by decide +kernel
theorem test_decode_43 : reads
    [(0x8001010000826B0C, .azero kl { d := 0, a := 2, b := 0, sz := 0, fl := 1, imm := 0x8001 }),
     (0x100026B0C, .aswap kl { d := 0, a := 0, b := 0, sz := 0, fl := 0, imm := 0 }),
     (0xFF1F0200826B0C, .aread kl { d := 0, a := 2, b := 0, sz := 0, fl := 0x1f, imm := 0xff }),
     (0xFF1F0300826B0C, .awrite kl { d := 0, a := 2, b := 0, sz := 0, fl := 0x1f, imm := 0xff }),
     (0x400266B0C, .astat kl { d := 9, a := 0, b := 0, sz := 0, fl := 0, imm := 0 })] = true := by decide +kernel
theorem test_decode_50 : reads
    [(0x300CF066B40, .ld kl { d := 1, a := 0xc, b := 3, sz := 3, fl := 3, imm := 0 }),
     (0x301CF066B40, .lds kl { d := 1, a := 0xc, b := 3, sz := 3, fl := 3, imm := 0 })] = true := by decide +kernel
theorem test_decode_51 : reads
    [(0x80010400AC842B44, .st ks { d := 1, a := 2, b := 0xb, sz := 2, fl := 4, imm := 0x8001 })] = true := by decide +kernel
theorem test_decode_53 : reads
    [(0x81000EE090066B4C, .vld kl { vd := 1, va := 0, xs := 9, vb := 0, msk := 7, ty := 7, rm := 0, imm := 0x81 }),
     (0x81001EE890066B4C, .vlds kl { vd := 1, va := 0, xs := 9, vb := 8, msk := 7, ty := 7, rm := 0, imm := 0x81 }),
     (0x81002EFF90066B4C, .vldg kl { vd := 1, va := 0, xs := 9, vb := 0x1f, msk := 7, ty := 7, rm := 0, imm := 0x81 })] = true := by decide +kernel
theorem test_decode_54 : reads
    [(0x81000EE090042B50, .vst ks { vd := 1, va := 0, xs := 9, vb := 0, msk := 7, ty := 7, rm := 0, imm := 0x81 }),
     (0x81001EE890042B50, .vsts ks { vd := 1, va := 0, xs := 9, vb := 8, msk := 7, ty := 7, rm := 0, imm := 0x81 }),
     (0x81002EFF90042B50, .vstg ks { vd := 1, va := 0, xs := 9, vb := 0x1f, msk := 7, ty := 7, rm := 0, imm := 0x81 })] = true := by decide +kernel
theorem test_decode_55 : reads
    [(0xA00007F000C826B55, .baddI32 kl { d := 0, a := 2, b := 3, sz := 0, fl := 0x7f, imm := 0, tail := 0xa }),
     (0xA00007F010C826B55, .baddF32 kl { d := 0, a := 2, b := 3, sz := 0, fl := 0x7f, imm := 0, tail := 0xa }),
     (0xA00007F020C826B55, .baddBf16 kl { d := 0, a := 2, b := 3, sz := 0, fl := 0x7f, imm := 0, tail := 0xa }),
     (0xA00007F030C826B55, .bminI32 kl { d := 0, a := 2, b := 3, sz := 0, fl := 0x7f, imm := 0, tail := 0xa }),
     (0xA00007F040C826B55, .bmaxI32 kl { d := 0, a := 2, b := 3, sz := 0, fl := 0x7f, imm := 0, tail := 0xa }),
     (0xA00007F050C826B55, .bminF32 kl { d := 0, a := 2, b := 3, sz := 0, fl := 0x7f, imm := 0, tail := 0xa }),
     (0xA00007F060C826B55, .bmaxF32 kl { d := 0, a := 2, b := 3, sz := 0, fl := 0x7f, imm := 0, tail := 0xa }),
     (0x9A00007F070C826B55, .baxpyF32 kl { d := 0, a := 2, b := 3, sz := 0, fl := 0x7f, imm := 0, tail := 0x9a })] = true := by decide +kernel
theorem test_decode_56 : reads
    [(0xB004C866B58, .aadd kl { d := 1, a := 2, b := 3, sz := 1, fl := 0xb, imm := 0 }),
     (0xB014C866B58, .aand kl { d := 1, a := 2, b := 3, sz := 1, fl := 0xb, imm := 0 }),
     (0xB024C866B58, .aor kl { d := 1, a := 2, b := 3, sz := 1, fl := 0xb, imm := 0 }),
     (0xB034C866B58, .axor kl { d := 1, a := 2, b := 3, sz := 1, fl := 0xb, imm := 0 }),
     (0xB044C866B58, .amin kl { d := 1, a := 2, b := 3, sz := 1, fl := 0xb, imm := 0 }),
     (0xB054C866B58, .amax kl { d := 1, a := 2, b := 3, sz := 1, fl := 0xb, imm := 0 }),
     (0xB064C866B58, .aminu kl { d := 1, a := 2, b := 3, sz := 1, fl := 0xb, imm := 0 }),
     (0xB074C866B58, .amaxu kl { d := 1, a := 2, b := 3, sz := 1, fl := 0xb, imm := 0 }),
     (0xB084C866B58, .aswp kl { d := 1, a := 2, b := 3, sz := 1, fl := 0xb, imm := 0 }),
     (0xB094C866B58, .acas kl { d := 1, a := 2, b := 3, sz := 1, fl := 0xb, imm := 0 })] = true := by decide +kernel
theorem test_decode_57 : reads
    [(0xC0000002B5C, .phase ks { d := 0, a := 0, b := 0, sz := 0, fl := 0xc, imm := 0 }),
     (0xC0100002B5C, .phasePub ks { d := 0, a := 0, b := 0, sz := 0, fl := 0xc, imm := 0 }),
     (0xC0200002B5C, .phaseRef ks { d := 0, a := 0, b := 0, sz := 0, fl := 0xc, imm := 0 })] = true := by decide +kernel
theorem test_decode_58 : reads
    [(0x7FF00000CBA6B60, .watch kl { d := 0xe, a := 2, b := 3, sz := 0, fl := 0, imm := 0x7ff }),
     (0x7FF000100BA6B60, .unwatch kl { d := 0xe, a := 2, b := 0, sz := 0, fl := 0, imm := 0x7ff })] = true := by decide +kernel
theorem test_decode_60 : reads
    [(0xFFF800100002C802B81, .spawn ks { d := 0, a := 2, b := 0xb, sz := 0, fl := 0, imm := 0x8001, tail := 0xfff })] = true := by decide +kernel
theorem test_decode_61 : reads
    [(0x2B84, .exitI ks { d := 0, a := 0, b := 0, sz := 0, fl := 0, imm := 0 }),
     (0x100002B84, .yield ks { d := 0, a := 0, b := 0, sz := 0, fl := 0, imm := 0 }),
     (0x202402B84, .migrate ks { d := 0, a := 9, b := 0, sz := 0, fl := 0, imm := 0 }),
     (0x300002B84, .anchor ks { d := 0, a := 0, b := 0, sz := 0, fl := 0, imm := 0 }),
     (0x400382B84, .mobile ks { d := 0xe, a := 0, b := 0, sz := 0, fl := 0, imm := 0 })] = true := by decide +kernel
theorem test_decode_62 : reads
    [(0x4307FF100008402B89, .sendI ks { d := 0, a := 1, b := 2, sz := 0, fl := 0x10, imm := 0x7ff, tail := 0x43 })] = true := by decide +kernel
theorem test_decode_63 : reads
    [(0xFFF810008402B8C, .waitI ks { d := 0, a := 1, b := 2, sz := 0, fl := 0x81, imm := 0xfff })] = true := by decide +kernel
theorem test_decode_64 : reads
    [(0x7FF1C0000402B90, .arrive ks { d := 0, a := 1, b := 0, sz := 0, fl := 0x1c, imm := 0x7ff }),
     (0x7FF3C0100402B90, .bar ks { d := 0, a := 1, b := 0, sz := 0, fl := 0x3c, imm := 0x7ff })] = true := by decide +kernel
theorem test_decode_65 : reads
    [(0x7FF0000000008402B95, .bcfg ks { d := 0, a := 1, b := 2, sz := 0, fl := 0, imm := 0, tail := 0x7ff }),
     (0x7FF0000000100642B95, .bread ks { d := 9, a := 1, b := 0, sz := 0, fl := 0, imm := 0, tail := 0x7ff }),
     (0x7FF0000000200402B95, .bclr ks { d := 0, a := 1, b := 0, sz := 0, fl := 0, imm := 0, tail := 0x7ff })] = true := by decide +kernel
theorem test_decode_66 : reads
    [(0x307FF100000B82B99, .cput ks { d := 0xe, a := 2, b := 0, sz := 0, fl := 0x10, imm := 0x7ff, tail := 3 }),
     (0x4007FF000100382B99, .cget ks { d := 0xe, a := 0, b := 0, sz := 0, fl := 0, imm := 0x7ff, tail := 0x40 }),
     (0x7FF010100002B99, .cgetRel ks { d := 0, a := 0, b := 0, sz := 0, fl := 1, imm := 0x7ff, tail := 0 })] = true := by decide +kernel
theorem test_decode_68 : reads
    [(0x3F800100002C402BA1, .btx ks { d := 0, a := 1, b := 0xb, sz := 0, fl := 0, imm := 0x8001, tail := 0x3f }),
     (0x3F0000000100402BA1, .btabort ks { d := 0, a := 1, b := 0, sz := 0, fl := 0, imm := 0, tail := 0x3f })] = true := by decide +kernel
theorem test_decode_6A : reads
    [(0x382BA8, .repb ks { d := 0xe, a := 0, b := 0, sz := 0, fl := 0, imm := 0 }),
     (0x800181012CB82BA8, .repe ks { d := 0xe, a := 2, b := 0xb, sz := 0, fl := 0x81, imm := 0x8001 }),
     (0x200382BA8, .repx ks { d := 0xe, a := 0, b := 0, sz := 0, fl := 0, imm := 0 })] = true := by decide +kernel
theorem test_decode_6B : reads
    [(0x800100002C866BAD, .coll kl { d := 1, a := 2, b := 0xb, sz := 0, fl := 0, imm := 0x8001, tail := 0 })] = true := by decide +kernel
theorem test_decode_70 : reads
    [(0x54000000000C866BC1, .draw kl { d := 1, a := 2, b := 3, sz := 0, fl := 0, imm := 0, tail := 0x54 })] = true := by decide +kernel
theorem test_decode_71 : reads
    [(0x1A000000866BC5, .slr kl { d := 1, a := 2, b := 0, sz := 0, fl := 0, imm := 0x1a, tail := 0 }),
     (0x80000001000A00012C826BC5, .slw kl { d := 0, a := 2, b := 0xb, sz := 0, fl := 0, imm := 0xa, tail := 0x80000001 }),
     (0x40000000020C866BC5, .force kl { d := 1, a := 2, b := 3, sz := 0, fl := 0, imm := 0, tail := 0x40 }),
     (0x30C866BC5, .gset kl { d := 1, a := 2, b := 3, sz := 0, fl := 0, imm := 0, tail := 0 })] = true := by decide +kernel
theorem test_decode_72 : reads
    [(0xC866BC9, .accept kl { d := 1, a := 2, b := 3, sz := 0, fl := 0, imm := 0, tail := 0 })] = true := by decide +kernel
theorem test_decode_73 : reads
    [(0x54000001000C866BCD, .kvput kl { d := 1, a := 2, b := 3, sz := 0, fl := 1, imm := 0, tail := 0x54 }),
     (0x10C866BCD, .kvcommit kl { d := 1, a := 2, b := 3, sz := 0, fl := 0, imm := 0, tail := 0 })] = true := by decide +kernel
theorem test_decode_74 : reads
    [(0x8000C866BD1, .seal kl { d := 1, a := 2, b := 3, sz := 0, fl := 8, imm := 0, tail := 0 }),
     (0x10C826BD1, .sfetch kl { d := 0, a := 2, b := 3, sz := 0, fl := 0, imm := 0, tail := 0 }),
     (0x200866BD1, .retain kl { d := 1, a := 2, b := 0, sz := 0, fl := 0, imm := 0, tail := 0 }),
     (0x1020C866BD1, .retainR kl { d := 1, a := 2, b := 3, sz := 0, fl := 1, imm := 0, tail := 0 }),
     (0x300866BD1, .dropI kl { d := 1, a := 2, b := 0, sz := 0, fl := 0, imm := 0, tail := 0 })] = true := by decide +kernel
theorem test_decode_75 : reads
    [(0xC866BD5, .swaproot kl { d := 1, a := 2, b := 3, sz := 0, fl := 0, imm := 0, tail := 0 }),
     (0x3F010C826BD5, .copyout kl { d := 0, a := 2, b := 3, sz := 0, fl := 0x3f, imm := 0, tail := 0 })] = true := by decide +kernel
theorem test_decode_76 : reads
    [(0x7FF000000042BD8, .snap ks { d := 1, a := 0, b := 0, sz := 0, fl := 0, imm := 0x7ff }),
     (0x100842BD8, .snapq ks { d := 1, a := 2, b := 0, sz := 0, fl := 0, imm := 0 }),
     (0x200842BD8, .rollback ks { d := 1, a := 2, b := 0, sz := 0, fl := 0, imm := 0 })] = true := by decide +kernel
theorem test_decode_78 : reads
    [(0x813000000042BE0, .crr ks { d := 1, a := 0, b := 0, sz := 0, fl := 0, imm := 0x813 })] = true := by decide +kernel
theorem test_decode_79 : reads
    [(0x813000000802BE4, .crw ks { d := 0, a := 2, b := 0, sz := 0, fl := 0, imm := 0x813 })] = true := by decide +kernel
theorem test_decode_7A : reads
    [(0x14000000802BE8, .trap ks { d := 0, a := 2, b := 0, sz := 0, fl := 0, imm := 0x14 }),
     (0x8001000100002BE8, .svc ks { d := 0, a := 0, b := 0, sz := 0, fl := 0, imm := 0x8001 }),
     (0x8001000200002BE8, .breakI ks { d := 0, a := 0, b := 0, sz := 0, fl := 0, imm := 0x8001 }),
     (0x300002BE8, .iflush ks { d := 0, a := 0, b := 0, sz := 0, fl := 0, imm := 0 })] = true := by decide +kernel
theorem test_decode_7B : reads
    [(0x30000002BEC, .eret ks { d := 0, a := 0, b := 0, sz := 0, fl := 3, imm := 0 })] = true := by decide +kernel
theorem test_decode_7C : reads
    [(0xB82BF0, .pair ks { d := 0xe, a := 2, b := 0, sz := 0, fl := 0, imm := 0 }),
     (0x100B82BF0, .unpair ks { d := 0xe, a := 2, b := 0, sz := 0, fl := 0, imm := 0 })] = true := by decide +kernel
/-! The words that the manual writes out for its statements -/

theorem test_worked_words : reads [
    -- DIV X6, X1, X4 la=3 (chapter 2)
    (0x1058C008, .div { la := 3, gn := 0, gp := 0 } { d := 6, a := 1, b := 4, sz := 0, fl := 0, imm := 0 }),
    -- ADD.X X2, X2, 0x1_0000_0000 (chapter 2)
    (0x10000000000002C88000D, .addX { la := 0, gn := 0, gp := 0 } { d := 2, a := 2, b := 0xb, sz := 0, fl := 0, imm := 0x100000000 }),
    -- SUB X6, X6, 1 (chapter 8)
    (0x100012D980004, .sub { la := 0, gn := 0, gp := 0 } { d := 6, a := 6, b := 0xb, sz := 0, fl := 0, imm := 1 }),
    -- CMP.NE p1, X6, 0 (chapter 8)
    (0x12D840010, .cmpNe { la := 0, gn := 0, gp := 0 } { d := 1, a := 6, b := 0xb, sz := 0, fl := 0, imm := 0 }),
    -- (p1) B chain (chapter 8)
    (0xFFF6000000000220, .b { la := 0, gn := 0, gp := 1 } { d := 0, a := 0, b := 0, sz := 0, fl := 0, imm := 0xfff6 }),
    -- VFMA.F32 V2, V0, V1 (chapter 5)
    (0x3141A0080080, .vfma { la := 0, gn := 0, gp := 0 } { vd := 2, va := 0, xs := 0xa, vb := 1, msk := 0xa, ty := 0, rm := 0, imm := 0 }),
    -- VDOT8.E4M3.E4M3 V4, V0, V1 (chapter 5)
    (0x44000141A010009C, .vdot8 { la := 0, gn := 0, gp := 0 } { vd := 4, va := 0, xs := 0xa, vb := 1, msk := 0xa, ty := 0, rm := 0, imm := 0x44 }),
    -- VCVT.F32.E4M3 V3, V1 (chapter 8)
    (0x84000140008C008C, .vcvt { la := 0, gn := 0, gp := 0 } { vd := 3, va := 1, xs := 0, vb := 0, msk := 0xa, ty := 0, rm := 0, imm := 0x84 }),
    -- VFMA.F32 V6, V2, V3, m=X5 (chapter 8)
    (0x30A3A1180080, .vfma { la := 0, gn := 0, gp := 0 } { vd := 6, va := 2, xs := 0xa, vb := 3, msk := 5, ty := 0, rm := 0, imm := 0 }),
    -- VSLDN.I32 V3, V3, 1 (chapter 8)
    (0x1003940B18C0098, .vsldn { la := 0, gn := 0, gp := 0 } { vd := 3, va := 3, xs := 0xb, vb := 0, msk := 0xa, ty := 4, rm := 0, imm := 1 }),
    -- VMOVX.F32 X2, V6, 0 (chapter 8)
    (0x514003080098, .vmovx { la := 0, gn := 0, gp := 0 } { vd := 2, va := 6, xs := 0, vb := 0, msk := 0xa, ty := 0, rm := 0, imm := 0 }),
    -- VCVT.BF16.F32 V1, V1 (chapter 13)
    (0x20001400084008C, .vcvt { la := 0, gn := 0, gp := 0 } { vd := 1, va := 1, xs := 0, vb := 0, msk := 0xa, ty := 0, rm := 0, imm := 2 }),
    -- VST.BF16 [X5+0x200], V1 (chapter 13)
    (0x1000034050040150, .vst { la := 0, gn := 0, gp := 0 } { vd := 1, va := 0, xs := 5, vb := 0, msk := 0xa, ty := 1, rm := 0, imm := 0x10 }),
    -- VLD.F32 V1, [X7+0x100] (chapter 8)
    (0x80001407004014C, .vld { la := 0, gn := 0, gp := 0 } { vd := 1, va := 0, xs := 7, vb := 0, msk := 0xa, ty := 0, rm := 0, imm := 8 }),
    -- WLOAD.BF16 X5, X6 (chapter 6)
    (0x80000020001940106, .wload { la := 0, gn := 0, gp := 0 } { xa := 5, xs := 6, xq := 0, fmt := 2, sc := 0, rowb := 0, rown := 0, imm := 8 }),
    -- MMA.BF16 row4, 4, X1, X2, 8 (chapter 6)
    (0x8030402000084010A, .mma { la := 0, gn := 0, gp := 0 } { xa := 1, xs := 2, xq := 0, fmt := 2, sc := 0, rowb := 4, rown := 3, imm := 8 }),
    -- GANG.JOIN 0xFF, 12 (chapter 13)
    (0xCFF0000000100, .gangJoin { la := 0, gn := 0, gp := 0 } { d := 0, a := 0, b := 0, sz := 0, fl := 0xff, imm := 0xc }),
    -- ASWAP (chapter 13)
    (0x10000010C, .aswap { la := 0, gn := 0, gp := 0 } { d := 0, a := 0, b := 0, sz := 0, fl := 0, imm := 0 }),
    -- AREAD V2, row1 (chapter 13)
    (0x102020280010C, .aread { la := 0, gn := 0, gp := 0 } { d := 0, a := 0xa, b := 0, sz := 0, fl := 2, imm := 1 }),
    -- LD X1, [X2+0x40] la=2 (chapter 7)
    (0x4000002C848140, .ld { la := 2, gn := 0, gp := 0 } { d := 1, a := 2, b := 0xb, sz := 0, fl := 0, imm := 0x40 }),
    -- ST.W32 [X2+8], X5 (chapter 7)
    (0x800006C940144, .st { la := 0, gn := 0, gp := 0 } { d := 5, a := 2, b := 0xb, sz := 1, fl := 0, imm := 8 }),
    -- LD.W32 X7, [X9+X0*4] (chapter 19)
    (0x200425C0140, .ld { la := 0, gn := 0, gp := 0 } { d := 7, a := 9, b := 0, sz := 1, fl := 2, imm := 0 }),
    -- AADD.AR.DIE X3, [X4], 1 (chapter 7)
    (0x107002D0C0158, .aadd { la := 0, gn := 0, gp := 0 } { d := 3, a := 4, b := 0xb, sz := 0, fl := 7, imm := 1 }),
    -- BADD.F32 [X2], V4, m=X6 (chapter 7)
    (0x60000100128800155, .baddF32 { la := 0, gn := 0, gp := 0 } { d := 0, a := 2, b := 0xa, sz := 0, fl := 0x10, imm := 0, tail := 6 }),
    -- PHASE.PUB.QUAY (chapter 7)
    (0x10000015C, .phasePub { la := 0, gn := 0, gp := 0 } { d := 0, a := 0, b := 0, sz := 0, fl := 0, imm := 0 }),
    -- WATCH p2, [X3], X4, 17 (chapter 7)
    (0x11000010C80160, .watch { la := 0, gn := 0, gp := 0 } { d := 2, a := 3, b := 4, sz := 0, fl := 0, imm := 0x11 }),
    -- SPAWN [X2], 5 (chapter 9)
    (0x50000000028800181, .spawn { la := 0, gn := 0, gp := 0 } { d := 0, a := 2, b := 0xa, sz := 0, fl := 0, imm := 0, tail := 5 }),
    -- MIGRATE X3 (chapter 9)
    (0x200C00184, .migrate { la := 0, gn := 0, gp := 0 } { d := 0, a := 3, b := 0, sz := 0, fl := 0, imm := 0 }),
    -- MOBILE p1 (chapter 9)
    (0x400040184, .mobile { la := 0, gn := 0, gp := 0 } { d := 1, a := 0, b := 0, sz := 0, fl := 0, imm := 0 }),
    -- SEND X1, [X2], X3, [X4], 5 (chapter 10)
    (0x430005000008400189, .sendI { la := 0, gn := 0, gp := 0 } { d := 0, a := 1, b := 2, sz := 0, fl := 0, imm := 5, tail := 0x43 }),
    -- BAR 40 (chapter 10)
    (0x28080102800190, .bar { la := 0, gn := 0, gp := 0 } { d := 0, a := 0xa, b := 0, sz := 0, fl := 8, imm := 0x28 }),
    -- BCFG 30, X4 (chapter 10)
    (0x1E0000000012800195, .bcfg { la := 0, gn := 0, gp := 0 } { d := 0, a := 0xa, b := 4, sz := 0, fl := 0, imm := 0, tail := 0x1e }),
    -- CPUT p2, [X5], X6, 9 (chapter 10)
    (0x60009000001480199, .cput { la := 0, gn := 0, gp := 0 } { d := 2, a := 5, b := 0, sz := 0, fl := 0, imm := 9, tail := 6 }),
    -- CGET p3, X7, 12 (chapter 10)
    (0x70000C0001000C0199, .cget { la := 0, gn := 0, gp := 0 } { d := 3, a := 0, b := 0, sz := 0, fl := 0, imm := 0xc, tail := 0x70 }),
    -- BTX 5, X3 (chapter 12)
    (0x5000000000E8001A1, .btx { la := 0, gn := 0, gp := 0 } { d := 0, a := 0xa, b := 3, sz := 0, fl := 0, imm := 0, tail := 5 }),
    -- BTABORT 5 (chapter 12)
    (0x500000001028001A1, .btabort { la := 0, gn := 0, gp := 0 } { d := 0, a := 0xa, b := 0, sz := 0, fl := 0, imm := 0, tail := 5 }),
    -- REPB p2 (chapter 12)
    (0x801A8, .repb { la := 0, gn := 0, gp := 0 } { d := 2, a := 0, b := 0, sz := 0, fl := 0, imm := 0 }),
    -- REPE 16, X7, 1, 4 (chapter 12)
    (0x1004012DC401A8, .repe { la := 0, gn := 0, gp := 0 } { d := 1, a := 7, b := 0xb, sz := 0, fl := 4, imm := 0x10 }),
    -- COLL X1, [X2] (chapter 12)
    (0x288401AD, .coll { la := 0, gn := 0, gp := 0 } { d := 1, a := 2, b := 0xa, sz := 0, fl := 0, imm := 0, tail := 0 }),
    -- SLR X1, X3, S2 (chapter 17)
    (0x2000000C401C5, .slr { la := 0, gn := 0, gp := 0 } { d := 1, a := 3, b := 0, sz := 0, fl := 0, imm := 2, tail := 0 }),
    -- SLW X3, VEN, X6 (chapter 17)
    (0xA000118C001C5, .slw { la := 0, gn := 0, gp := 0 } { d := 0, a := 3, b := 6, sz := 0, fl := 0, imm := 0xa, tail := 0 }),
    -- FORCE X1, X3, [X4], 2 (chapter 17)
    (0x20000000210C401C5, .force { la := 0, gn := 0, gp := 0 } { d := 1, a := 3, b := 4, sz := 0, fl := 0, imm := 0, tail := 2 }),
    -- DRAW X1, X2, X3, [X4], X5 la=2 (chapter 17)
    (0x250000000010C481C1, .draw { la := 2, gn := 0, gp := 0 } { d := 1, a := 3, b := 4, sz := 0, fl := 0, imm := 0, tail := 0x25 }),
    -- ACCEPT X1, X3, [X4] (chapter 17)
    (0x10C401C9, .accept { la := 0, gn := 0, gp := 0 } { d := 1, a := 3, b := 4, sz := 0, fl := 0, imm := 0, tail := 0 }),
    -- KVPUT.SPEC X1, X3, [X4], X5, X6 (chapter 17)
    (0x650000010010C401CD, .kvput { la := 0, gn := 0, gp := 0 } { d := 1, a := 3, b := 4, sz := 0, fl := 1, imm := 0, tail := 0x65 }),
    -- KVCOMMIT X1, X3, X7 (chapter 17)
    (0x11CC401CD, .kvcommit { la := 0, gn := 0, gp := 0 } { d := 1, a := 3, b := 7, sz := 0, fl := 0, imm := 0, tail := 0 }),
    -- SEAL.N1 X1, [X2], [X3] (chapter 20)
    (0x1000C8401D1, .seal { la := 0, gn := 0, gp := 0 } { d := 1, a := 2, b := 3, sz := 0, fl := 1, imm := 0, tail := 0 }),
    -- SFETCH [X4], [X5] (chapter 20)
    (0x1150001D1, .sfetch { la := 0, gn := 0, gp := 0 } { d := 0, a := 4, b := 5, sz := 0, fl := 0, imm := 0, tail := 0 }),
    -- RETAIN X1, [X5] (chapter 20)
    (0x2014401D1, .retain { la := 0, gn := 0, gp := 0 } { d := 1, a := 5, b := 0, sz := 0, fl := 0, imm := 0, tail := 0 }),
    -- RETAIN.R X1, [X6], [X7] (chapter 20)
    (0x1021D8401D1, .retainR { la := 0, gn := 0, gp := 0 } { d := 1, a := 6, b := 7, sz := 0, fl := 1, imm := 0, tail := 0 }),
    -- DROP X1, [X5] (chapter 20)
    (0x3014401D1, .dropI { la := 0, gn := 0, gp := 0 } { d := 1, a := 5, b := 0, sz := 0, fl := 0, imm := 0, tail := 0 }),
    -- SWAPROOT X1, [X6], [X7] (chapter 20)
    (0x1D8401D5, .swaproot { la := 0, gn := 0, gp := 0 } { d := 1, a := 6, b := 7, sz := 0, fl := 0, imm := 0, tail := 0 }),
    -- COPYOUT 3, 5 (chapter 20)
    (0x503012E8001D5, .copyout { la := 0, gn := 0, gp := 0 } { d := 0, a := 0xa, b := 0xb, sz := 0, fl := 3, imm := 5, tail := 0 })] = true := by decide +kernel
/-! Well-formedness: an ill-formed instruction for each check of WellFormed.lean, refused; `ks` has LA 0 and `kl` LA 9 -/

def s0 : SF := { d := 0, a := 0, b := 0, sz := 0, fl := 0, imm := 0 }
def e0 : EF := { d := 0, a := 0, b := 0, sz := 0, fl := 0, imm := 0, tail := 0 }
def l0 : SLF := { d := 0, a := 0, b := 11, sz := 0, fl := 0, imm := 0 }
def v0 : VF := { vd := 0, va := 0, xs := 10, vb := 0, msk := 10, ty := 0, rm := 0, imm := 0 }
def vx : VF := { v0 with xs := 0 }
def m0 : MF := { xa := 0, xs := 0, xq := 0, fmt := 2, sc := 0, rowb := 0, rown := 0, imm := 8 }
/-- Every instruction of the list is refused, by its check and by the decoder. -/
def refused (l : List Instr) : Bool := l.all fun i => !i.wf && match decodeBits ((encode i).getD 0) with
  | .ok _ => false
  | .error e => e == .badField
theorem test_wf_scalar : refused [.nop kl s0, .nop ks { s0 with imm := 1 }, .add kl s0, .add ks { s0 with d := 11 }, .add ks { s0 with a := 11 }, .add ks { s0 with b := 12 }, .add ks { s0 with fl := 1 },
    .add ks { s0 with imm := 1 }, .clz ks { s0 with a := 1 }, .bswap ks { s0 with sz := 3 }, .addX ks { l0 with b := 0 }, .clzX ks { l0 with a := 1 }, .bswapX ks { l0 with sz := 3 }, .cmpEq ks { s0 with fl := 3 },
    .pand ks { s0 with fl := 4 }, .pnot ks { s0 with b := 1 }, .prd ks { s0 with a := 1 }, .pwr ks { s0 with d := 1 }, .sel ks { s0 with fl := 16 }, .bfx ks { s0 with b := 11, imm := 4096 }, .lea ks { s0 with fl := 8 },
    .b ks { s0 with d := 1 }, .j ks { l0 with b := 11 }, .jr ks { s0 with b := 1 }] = true := by decide +kernel
theorem test_wf_vector : refused [.vadd ks { v0 with msk := 11 }, .vadd ks { v0 with imm := 1 }, .vadd ks { v0 with rm := 8 }, .vadd ks { v0 with ty := 4, rm := 1 }, .vadd ks { v0 with xs := 11 }, .vfma ks { v0 with ty := 4 },
    .vmin ks { v0 with rm := 4 }, .vabs ks { vx with ty := 7 }, .vand ks v0, .vcmpEq ks { v0 with vd := 11 }, .vsel ks { v0 with rm := 1 }, .vcvt ks { vx with imm := 11 }, .vcvt ks { vx with imm := 0x80, rm := 8 },
    .vquant ks { v0 with imm := 3 }, .vquant ks { v0 with imm := 9, rm := 8 }, .vdeq ks { v0 with imm := 4, rm := 8 }, .vredSum ks { vx with rm := 4 }, .vredMax ks { vx with rm := 1 }, .vredArgmax ks { vx with ty := 3 },
    .vperm ks v0, .vbcast ks { v0 with va := 1 }, .vslup ks { v0 with rm := 1 }, .viota ks { v0 with ty := 3 }, .vmovx ks { vx with imm := 64 }, .vmovx ks { vx with ty := 3, imm := 32 }, .vmovv ks { vx with imm := 1 },
    .vdot8 ks { v0 with imm := 0x43 }, .vdot8 ks { v0 with imm := 0x44, xs := 1 }, .vdoti8 ks { v0 with imm := 0x99 }, .vrcp ks { vx with ty := 1 }, .vld ks { v0 with va := 1 }, .vlds ks { v0 with vb := 11 }, .vldg ks { v0 with rm := 1 },
    .vst kl v0] = true := by decide +kernel
theorem test_wf_arrays : refused [.gangJoin ks s0, .gangLeave ks { s0 with fl := 1 }, .wload ks { m0 with fmt := 1 }, .wload ks { m0 with imm := 65 }, .wload ks { m0 with xq := 1 }, .wload ks { m0 with fmt := 8, imm := 33 },
    .wload ks { m0 with sc := 1 }, .wload ks { m0 with rown := 1 }, .mma ks { m0 with fmt := 10, imm := 32 }, .mma ks { m0 with rowb := 0x80, rown := 0x80 }, .azero ks { s0 with fl := 2 }, .aswap ks { s0 with imm := 1 },
    .aread ks { s0 with imm := 256 }, .astat ks { s0 with d := 11 }] = true := by decide +kernel
theorem test_wf_memory : refused [.ld ks { s0 with fl := 4 }, .ld ks { s0 with b := 10, fl := 1 }, .st ks { s0 with fl := 8 }, .baddI32 ks { e0 with sz := 1 }, .baddI32 ks { e0 with tail := 0x10 }, .baxpyF32 ks { e0 with tail := 0xB0 },
    .aadd ks { s0 with sz := 2 }, .aadd ks { s0 with fl := 4 }, .phase ks { s0 with fl := 1 }, .watch ks { s0 with imm := 2048 }, .unwatch ks { s0 with b := 1 }] = true := by decide +kernel
theorem test_wf_tasks : refused [.spawn ks { e0 with tail := 4096 }, .exitI ks { s0 with a := 1 }, .migrate ks { s0 with a := 11 }, .mobile ks { s0 with a := 1 }, .sendI ks { e0 with fl := 1 }, .waitI ks { s0 with imm := 4096 },
    .arrive ks { s0 with fl := 32 }, .bar ks { s0 with fl := 64 }, .bcfg ks { e0 with tail := 2048 }, .bread ks { e0 with b := 1 }, .bclr ks { e0 with d := 1 }, .cput ks { e0 with tail := 0x10 }, .cget ks { e0 with a := 1 },
    .cgetRel ks { e0 with fl := 1, tail := 1 }, .btx ks { e0 with tail := 64 }, .btabort ks { e0 with b := 1 }, .repb ks { s0 with b := 1 }, .repe ks { s0 with sz := 1 }, .coll ks { e0 with tail := 1 }] = true := by decide +kernel
theorem test_wf_engines : refused [.draw ks { e0 with b := 10 }, .slr ks { e0 with imm := 27 }, .slw ks { e0 with tail := 1 }, .force ks { e0 with tail := 65 }, .gset ks { e0 with tail := 1 }, .accept ks { e0 with tail := 1 },
    .kvput ks { e0 with fl := 2 }, .kvcommit ks { e0 with imm := 1 }, .seal ks { e0 with fl := 9 }, .sfetch ks { e0 with d := 1 }, .retain ks { e0 with b := 1 }, .retainR ks { e0 with fl := 1, b := 10 }, .dropI ks { e0 with b := 1 },
    .swaproot ks { e0 with fl := 1 }, .copyout ks { e0 with fl := 64 }, .snap ks { s0 with imm := 2048 }, .snapq ks { s0 with imm := 1 }, .crr ks { s0 with imm := 4096 }, .crw ks { s0 with d := 1 }, .trap ks { s0 with imm := 9 },
    .svc ks { s0 with a := 1 }, .iflush ks { s0 with d := 1 }, .eret ks { s0 with fl := 4 }, .pair ks { s0 with imm := 1 }] = true := by decide +kernel
theorem test_wf_events : (!(Instr.keyLoad 0).wf && !(Instr.threadRotation 4096 0).wf && !(Instr.longOperationComplete { svc := true, unit := 128, slot := 0 }).wf && !(Instr.snapshotRecord 0 (.core 4096)).wf && !(Instr.chunkLanded 0 64 0).wf) = true := by
  decide +kernel

/-! Steps -/

-- R49: the step fetches, decodes and runs ADD X1, ZR, 5
theorem test_step_add : ok (step (State.reset.withFetchWord 64 0x0005_0000_2E84_0004)) (fun t => t.thread.any fun u => (u.xreg 1).v == 5 && u.pc == BitVec.ofNat 64 (codeBase + 8)) = true := by decide +kernel
-- an unassigned major traps ILLEGAL with EVAL the bits
theorem test_step_illegal : ok (step (State.reset.withFetchWord 64 0x1C)) (fun t => t.net.any fun p => match p.kind with
  | .context 2 th => th.cause == 1 && th.eval == 0x1C
  | _ => false) = true := by decide +kernel
theorem witness_StepRunsDecoded : (let s := State.reset.withFetchWord 64 0x0005_0000_2E84_0004
    let l : Loc := { svc := false, unit := 0, slot := 0 }
    (s.nextMove.1, s.nextMove.2.fatal, s.nextMove.2.latent, s.nextMove.2.pick 0) = (.issue 0, false, [], some 0) ∧ (({ s.nextMove.2 with cur := l } : State).closeDue l).isSome = true) := by decide +kernel
/-! What the statements about events ask of their states, met together -/

theorem witness_Arrivals : Turn (withPkt live (.inc 1 none)) 0 (pkt (.inc 1 none)) 0 ∧ (((withPkt live (.inc 1 none)).core 0).berth 1).waiters = [] :=
  ⟨⟨rfl, rfl, fun m h => absurd h (Nat.not_lt_zero m), (fun m h q e => by obtain rfl := Nat.le_zero.mp h; injection e with e; exact e ▸ rfl), .inl (by decide), rfl, by decide, rfl, rfl, rfl, rfl, rfl, rfl⟩, rfl⟩
theorem witness_Arrivals_engine : EngineTurn { live with net := [{ pkt (.abort 0 2) with rank := 2 ^ 25 }] } 0 { pkt (.abort 0 2) with rank := 2 ^ 25 } :=
  ⟨rfl, rfl, fun m h => absurd h (Nat.not_lt_zero m), fun m h => absurd h (Nat.not_lt_zero m), fun _ => rfl, rfl⟩
theorem witness_HostRegisters : State.reset.fw.fwaddr + 2 ^ 16 ≤ 8 * 96 * 2 ^ 30 ∧ State.reset.mem.wf = true ∧ (∀ q ∈ (State.reset.ctx 0).parked, q.n.isSome = true) := ⟨by decide, rfl, (fun _ h => nomatch h)⟩
theorem witness_HostRegisters_margin : (let s : State := turn2
    (s.die 0).marginNext = 2 ∧ s.feIdle 0 = true ∧ (s.quay 2).degraded = false ∧ sampleOf [300, 301, 302, 303, 304, 305, 306, 307] = 254) := by decide
theorem witness_CoreAndEngineEvents : (live.core 0).pubs = [] ∧ Still live ∧ live.isPaired 0 = false ∧ (paired0 true).isPaired 0 = true ∧ ((paired0 true).core 0).pair.undo = [] ∧ ((paired0 true).core 0).pair.run < 2 :=
  ⟨rfl, ⟨(fun _ h => nomatch h), (fun _ h => nomatch h), (fun c => by
    show (Tab.get ({} : Context) c [(1, _)]).parked = []
    unfold Tab.get
    split <;> rfl), fun _ => rfl⟩, by decide, by decide, rfl, by decide⟩
theorem witness_CoreAndEngineEvents_served : (let s := served (waiting (.ld hdr0 { d := 1, a := 2, b := 11, sz := 0, fl := 0, imm := 8 }) ({ task1 with status := 0x11 }.setX 2 { v := 0x00FE000000040000, p := false }) live) [(spadHome 32 8, 0x2A)]
    (s.slot loc0).stall = some .request ∧ ((s.setSlot loc0 { s.slot loc0 with stall := none, granted := true }).present loc0).toOption.map (fun p => (p.1, p.2.curSlot.granted)) =
      some (.ld hdr0 { d := 1, a := 2, b := 11, sz := 0, fl := 0, imm := 8 }, true)) := by decide +kernel
theorem witness_FrontEndEvents : (offer false live grid1).mem.wf = true ∧ Offers (offer false live grid1) 3 (toBytes 128 (command grid1)) := ⟨by decide +kernel, ⟨rfl, by decide +kernel, by decide +kernel⟩⟩
theorem witness_FrontEndEvents_launch : (launched.launches.map fun l => (l.2.phase, l.2.rcd.limits false)) = [(.reading, true)] ∧ (dispatching.launches.map fun l => (l.2.phase, l.2.todo.length, l.2.binds.length)) = [(.dispatching, 1, 0)] := by
  decide +kernel
theorem witness_ContextEvents : (described.ctx 1).state = 0 ∧ described.mem.wf = true ∧ descOk (described.mem.readN 0x2000 256) = true ∧ field (described.mem.readN 0x2000 256) 4 4 = 1 ∧
    0x01100000 + (created.ctx 1).desc.nranks * 0x80000 ≤ (created.ctx 1).desc.savesize ∧ (preempted.ctx 1).save.isSome = true := by decide +kernel
theorem witness_ContextEvents_load : (withImage.readImage 1).toOption.map (fun r => (r.1.length, r.2.2.1)) = some (1, [(0, 0xFFFF)]) := by decide +kernel
theorem witness_Snapshots : Runs (sJ thJ []) thJ hdr0 ∧ 2 ≤ thJ.priv ∧ ((sJ thJ []).ctx 1).member = true ∧ ((sJ thJ []).job 5).size ≠ 0 ∧ Flushed (sJ thJ []) :=
  ⟨⟨rfl, rfl, (fun h => nomatch h), (by decide : (0 : Nat) < 4096)⟩, by decide, rfl, by decide, ⟨rfl, rfl⟩, ⟨fun _ => rfl, fun _ => rfl, rfl⟩, rfl⟩
theorem witness_Repetition : sRep.thread = some { xs [(2, 8), (3, 2)] with array := true } ∧ (sRep.core 0).rpt.running = false ∧
    (match seqTry 0 (evalWord (.repe hdr0 (sf 0 2 3))) 2 (((sRep.updCore 0 fun c => { c with rpt := { c.rpt with running := true, n := 2, step := { v := 8, p := false }, xs := (List.range 10).map (xs [(2, 8), (3, 2)]).xreg } })).aloneInGang 0) with
    | .passed => true
    | _ => false) = true := by
  refine ⟨rfl, rfl, ?_⟩
  decide +kernel
theorem witness_BerthConfiguration : Runs (withBerth (thB 0) {}) (thB 0) hdr0 ∧ (baseOf (thB 0) 2).p = false ∧ ((withBerth (thB 0) {}).core 0).berth 9 = {} := ⟨⟨rfl, rfl, (fun h => nomatch h), (by decide : (0 : Nat) < 4096)⟩, rfl, rfl⟩
theorem witness_PrivilegeTraps : Runs sI thI hdr0 ∧ thI.priv < 2 ∧ 2 ≤ thJ.priv ∧ thJ.svc = false := ⟨⟨rfl, rfl, (fun h => nomatch h), (by decide : (0 : Nat) < 4096)⟩, by decide, by decide, rfl⟩
theorem witness_EncodeThenDecode : (Instr.add ks { s0 with d := 1, a := 2, b := 3 }).isEvent = false ∧ (Instr.add ks { s0 with d := 1, a := 2, b := 3 }).wf = true := by decide
theorem witness_AccessTraps : (effective (xs [(2, ownBase + 4)]) 2 11 0 0).p = false ∧ (effective (xs [(2, ownBase + 4)]) 2 11 0 0).v.toNat % 8 ≠ 0 ∧ (xs [(2, ownBase + 4)]).svc = false := by decide +kernel
theorem witness_VectorStore : Runs sVec thVec hdr0 ∧ sVec.mem.wf = true ∧ Owns thVec [0] ∧ (baseOf thVec 2).p = false := ⟨⟨rfl, rfl, (fun h => nomatch h), (by decide : (0 : Nat) < 4096)⟩, by decide +kernel, ⟨rfl, by decide⟩, rfl⟩
theorem witness_ScalarStore : Runs sOwn thOwn hdr0 ∧ sOwn.mem.wf = true ∧ (sf 3 2 11).fl.getLsbD 2 = false ∧ OwnAt thOwn (effective thOwn 2 11 0 0).v 0x10 8 := ⟨⟨rfl, rfl, (fun h => nomatch h), (by decide : (0 : Nat) < 4096)⟩, by decide +kernel, by decide, ⟨rfl, by decide +kernel⟩⟩
theorem witness_VectorQuotaTrap : thV.svc = false ∧ thV.vq ≤ ({ vi with vd := 8 } : VF).vd.toNat := by decide
/-- The quiet machine's hypotheses, from a state whose tables are short. -/
theorem witness_SlateFields_aligned : (sSlate thS id).aligned thS.ctx (locAgent loc0) (.sampler 0) = true ∧ Quiet (sSlate thS id) ∧ (sSlate thS id).poison = [] :=
  ⟨rfl, ⟨rfl, rfl, (fun _ h => nomatch h), fun _ => rfl, rfl, ⟨rfl, rfl⟩, rfl, ⟨fun _ => rfl, fun _ => rfl, rfl⟩, fun _ _ h => nomatch h⟩, rfl⟩
theorem witness_SpawnGrid_quiet : Quiet (sSpawn 1) ∧ (sSpawn 1).aligned 1 (locAgent loc0) (.frontEnd 0) = true ∧ (sSpawn 1).poison = [] :=
  ⟨⟨rfl, rfl, (fun _ h => nomatch h), fun _ => rfl, rfl, ⟨rfl, rfl⟩, rfl, ⟨fun _ => rfl, fun _ => rfl, rfl⟩, fun _ _ h => nomatch h⟩, rfl, rfl⟩
theorem witness_CopyKicks_start : sKick.kicksPending 0 < 8 ∧ sKick.aligned 1 (locAgent loc0) (.lighter 0) = true ∧ sKick.net = [] ∧ ((sKick.quay 0).chan 2).pending = [] ∧
    ((sKick.quay 0).chan 2).copies = [] ∧ template1.form ≠ 3 := by decide +kernel
theorem witness_Messages_quiet : Quiet (sSend {}) ∧ (sSend {}).poison = [] ∧ thSend.svc = false :=
  ⟨⟨rfl, rfl, (fun _ h => nomatch h), fun _ => rfl, rfl, ⟨rfl, rfl⟩, rfl, ⟨fun _ => rfl, fun _ => rfl, rfl⟩, fun _ _ h => nomatch h⟩, rfl, rfl⟩
theorem witness_ArrayLoadMultiply_quiet : Quiet sM ∧ thArr.svc = false ∧ (mf 2).sc = 0 :=
  ⟨⟨rfl, rfl, (fun _ h => nomatch h), fun _ => rfl, rfl, ⟨rfl, rfl⟩, rfl, ⟨fun _ => rfl, fun _ => rfl, rfl⟩, fun _ _ h => nomatch h⟩, rfl, rfl⟩
theorem witness_Arrivals_room : (let c := (withPkt live (.inc 1 none)).core 0
    c.queue = [] ∧ c.woke = [] ∧ c.rel = [] ∧ c.ni = [] ∧ 0 < c.slots.length ∧ (slotAt c.slots 0).th = none ∧
    (c.woke.countP fun t => !t.2.svc) + c.rel.length + c.ni.length < c.slots.countP (fun x => x.th.isNone) + 48 - c.queue.length ∧
    c.errinj = 0 ∧ ((withPkt live (.inc 1 none)).quay 0).merge = []) := by decide +kernel
theorem witness_FrontEndEvents_ready : ((offer false live grid1).ctx 4096).member = false ∧ (offer false live grid1).feCancels 0 = true ∧ (offer false live grid1).poison = [] ∧ (offer false live grid1).latent = [] ∧
    (launched.die 0).pendAts = [] ∧ launched.feValidates 0 = true ∧ (launched.launches.map fun l => (launched.canBind l.2, launched.heldBack l.1 l.2)) = [(false, false)] ∧
    (dispatching.die 0).feAt ≠ some dispatching.cycle ∧ (dispatching.die 0).exits = [] ∧ dispatching.cancelNext 0 = false ∧ dispatching.dispatchReady 0 = true := by decide +kernel
theorem witness_FrontEndEvents_free : ∀ q, ((offer false live grid1).quay q).monitors = [] := fun _ => rfl
/-- A cancel finds one launch that has no cancel on its way: not placed, held by die 0; or with its one task at die 1, whose front end takes it later. -/
theorem witness_FrontEndEvents_cancel : (launched.launches.map fun l => (l.2.cancels, launched.cancelDies l.2)) = [([], [0])] ∧
    (let s : State := { dispatching with launches := dispatching.launches.map fun l => (l.1, { l.2 with die := 1, todo := [] }) }
    s.launches.map fun l => s.cancelDies l.2) = [[1]] := by decide +kernel
theorem witness_FrontEndEvents_bind : (let s : State := { dispatching with launches := dispatching.launches.map fun l => (l.1, { l.2 with todo := [], binds := [(7, 7, 0x8000_0018_0000_0000)] }) }
    s.feAfterCancel 0 = true ∧ s.aligned 1 (.frontEnd 0) (.core 0) = true ∧ s.aligned 1 (.frontEnd 0) (.frontEnd 0) = true ∧ ((s.core 0).berth 7).waiters = [] ∧ ((s.ctx 1).rank 0).state = 1) := by decide +kernel
theorem witness_FrontEndEvents_watchdog : (let s : State := { dispatching with time := 1000000000000, launches := dispatching.launches.map fun l =>
      (l.1, { l.2 with rcd := { l.2.rcd with wdog := 3 }, todo := [], live := l.2.todo, wdogFrom := some 0 }) }
    s.feValidates 0 = true ∧ (s.launches.map fun k => s.mayValidate k.1 k.2) = [false]) := by decide +kernel
theorem witness_ContextEvents_save : (created.ctx 4096).member = false ∧ (created.quays.all fun q => q.2.merge == [] && q.2.monitors == [] && q.2.svc == []) = true ∧
    (created.dies.all fun d => d.2.merge == []) = true ∧ created.pkgMerge = [] ∧ (let c := created.core 64
      !c.gated && c.pq == [] && c.pubs == [] && c.ni == [] && (c.slots.all fun y => y.wins == []) && !created.isPaired 64) = true := by decide +kernel
theorem witness_ContextEvents_ends : (saving.ctx 1).state = 2 ∧ saving.chunksFly 1 = false ∧ ((saving.ctx 1).rank 0).state = 2 ∧ (saved.ctx 1).state = 3 ∧
    ((saved.ctx 1).save.map fun a => saved.placementOk (saved.readRanks (saved.ctx 1).desc) a) = some true := by decide +kernel
theorem witness_ContextEvents_move : (created.core 96).owner = none ∧ (created.core 96).degraded = false ∧ (created.gang 8).joined = 0 ∧ (created.gang 8).arrived = 0 ∧
    (created.gang 8).paired = false ∧ (created.gang 12).paired = false ∧ ((created.ctx 1).rank 0).state = 1 := by decide +kernel
theorem witness_HostRegisters_member : (State.reset.ctx 4096).member = false := rfl
theorem witness_Snapshots_record : (let s := recording fun x => { x with started := [0] }
    s.latent = [] ∧ (s.core 0).errinj = 0 ∧ (s.jobAgents 5 0).contains (.core 0) = true ∧ ((s.job 5).snaps.map fun x => (x.dies, x.started, x.recorded)) = [([0], [0], [])] ∧
    ((s.jobCores 5).map fun x => x.2.2).contains 0 = true ∧ ((s.ctx 1).rank 0).state = 1) := by decide +kernel
theorem witness_Snapshots_rollback : (let s := sJ thJ [{ n := 1, state := 2 }]
    ((s.job 5).snaps.map fun x => x.pages.all (s.imageOk 5) && s.storeOk 5 x) = [true]) := by decide +kernel
theorem witness_NullifiedAndSkipped : (ready task1).thread = some task1 ∧ (task1.p 1 != false) = false ∧ task1.p 0 = true := ⟨rfl, by decide, by decide⟩

/-! What the host reads from BAR0 after reset (R305, R423, R429, R430). -/
theorem test_read_qint : State.reset.readBar 0x100030 = some 0x0000000801000000 := by decide +kernel
theorem test_read_power : State.reset.readBar 0x610000 = some 0x0000000014001130 ∧ State.reset.readBar 0x600008 = some 0xFF ∧ State.reset.readBar 0x620040 = some 0x100 := by decide +kernel

/-! Further cases of the statements, one state for each -/

/-- A request that is served: who asks, and what stands in its way. -/
theorem witness_served_free : (let s := served (waiting (.ld hdr0 { d := 1, a := 2, b := 11, sz := 0, fl := 0, imm := 8 }) ({ task1 with status := 0x11 }.setX 2 { v := 0x00FE000000040000, p := false }) live) [(spadHome 32 8, 0x2A)]
    let u := s.setSlot loc0 { s.slot loc0 with stall := none, granted := true }
    u.picked loc0 = true ∧ (u.present loc0).toOption.map (fun p => (p.2.forwarding 1 1, p.2.aligned 1 (locAgent p.2.cur) (.core 32), p.2.aligned 1 (locAgent p.2.cur) (.sampler 0), p.2.decsAhead 0 [0x50100])) =
      some (false, true, true, false)) := by decide +kernel
theorem witness_threadRotation : (let c : Core := { issuedAt := some 0, slots := [{ th := some task1, count := 4096 }], queue := [{ task1 with rank := 1 }] }
    c.issuedAt = some live.cycle ∧ (slotAt c.slots 0).wins = [] ∧ c.rotationDue 0 = true) := by decide
theorem witness_pairInterval : (let s := (paired0 false).updCore 0 fun c => { c with pair := { c.pair with prints := [{ ctx := 1, task := task1.task, even := 1, odd := 2 }] } }
    s.isPaired 0 = true ∧ (s.core 0).pair.prints.map (fun p => p.even == p.odd) = [false] ∧ (s.ctxs.map fun k => k.2.dueSave) = [none] ∧ s.intervalDue 0 = false ∧
    ((paired0 false).core 0).pair.prints = [] ∧ ((paired0 false).core 0).pubs = []) := by decide +kernel
theorem witness_mergeBufferDrain : live.spadWaits 1 0 = false ∧ homeKind entry1.piece = .hbm ∧ homeDie entry1.piece = 0 := by decide +kernel
theorem witness_ContextEvents_degraded : (let b := described.mem.readN 0x2000 256
    described.givesDegraded 1 (described.readRanks (descOf b)) = false ∧
    (described.updCore 64 fun c => { c with degraded := true }).givesDegraded 1 (described.readRanks (descOf b)) = true ∧ described.poison = [] ∧ described.latent = []) := by decide +kernel
theorem witness_ContextEvents_still : (created.ctx 1).dueSave = none ∧ ((created.ctx 1).ranks.map fun r => r.2.moving) = [none] ∧
    ((created.updCtx 1 fun c => c.updRank 0 fun e => { e with state := 2, moving := some 96 }).ctx 1).rank 0 = { (created.ctx 1).rank 0 with state := 2, moving := some 96 } := by decide +kernel
/-- An EXIT finds the front end free, or with an event in this cycle. -/
theorem witness_TaskControl_exit : (let s := parent1 (ready task1)
    (s.job (s.ctx 1).job).recording.isNone = true ∧ (s.die 0).feAt ≠ some s.cycle ∧ (s.die 0).exits = [] ∧
    ((s.updDie 0 fun d => { d with feAt := some s.cycle }).die 0).feAt = some s.cycle) := by decide +kernel
theorem witness_SpawnGrid_turn : (sSpawn 1).feSpawns 0 = true ∧ ((sSpawn 1).updDie 0 fun d => { d with feAt := some (sSpawn 1).cycle }).feSpawns 0 = false := by decide +kernel
/-- MMA with SC: one row of 32 values at offset 0, its scale at offset 0x100. -/
theorem witness_ArrayLoadMultiply_scales : (let th := (thArr.setX 4 { v := ownBase + 0x100, p := false }).setX 3 { v := 64, p := false }
    let f : MF := { mf 32 with sc := 1, xq := 4 }
    f.xq.toNat ≤ 10 ∧ (baseOf th f.xq).p = false ∧ (baseOf th f.xq).v.toNat % 2 ^ 56 = 0x00FFFFFFFFFC0000 + 0x100 ∧ f.imm.toNat / 32 = 1) := by decide +kernel
theorem witness_VectorQuotaTrap_va : ({ vi with vd := 0, va := 8 } : VF).vd.toNat < thV.vq ∧ thV.vq ≤ ({ vi with vd := 0, va := 8 } : VF).va.toNat := by decide
theorem witness_VectorQuotaTrap_vb : (let f : VF := { vi with vd := 0, va := 0, vb := 8, xs := 10 }
    f.vd.toNat < thV.vq ∧ f.va.toNat < thV.vq ∧ thV.vq ≤ f.vb.toNat ∧ f.xs = 10) := by decide
/-- F32 lanes NaN, 1.0, 1.0: ARGMAX leaves the first out. -/
theorem witness_VectorReduce_argmax : (let v : Nat → FV := fun i => tyVal 0 ([0x7FC00000, 0x3F800000, 0x3F800000].getD i 0)
    decide (v 0 ≠ .nan) = false ∧ FV.below (v 1) (v 2) = false ∧ FV.below (v 2) (v 1) = false ∧ decide (v 1 ≠ .nan) = true) := by decide +kernel
/-- The word that a WATCH names differs from X3 already. -/
theorem witness_PhasesAndMonitors_fires : (let s : State := { ready (xs [(2, 0x00FD000000000010), (3, 1)]) with mem := [(quayHome 0 0x10, 2)] }
    QuayAt (baseOf (xs [(2, 0x00FD000000000010), (3, 1)]) 2).v 0 0x10 8 ∧ ofBytes (s.mem.readN (quayHome 0 0x10) 8) ≠ 1) :=
  ⟨by unfold QuayAt; decide +kernel, by decide +kernel⟩
theorem witness_HostRegisters_firmware : State.reset.poison = [] ∧ State.reset.latent = [] ∧ live.idleAt 1 = true ∧ (live.core 1).gated = false := by decide +kernel
theorem witness_Arrivals_service : ((withPkt live (.inc 1 none)).core 0).gated = false ∧ live.forwarding 1 0 = false := by decide +kernel
theorem test_aread_denied : let t := ({ task1 with vq := 4 } : Thread)
  (ok (exec (.aread hdr0 ({ d := 0, a := 10, b := 0, sz := 0, fl := 0, imm := 0 } : SF)) (ready t)) (fun u => u == (ready t).trapEnter loc0 0x0C 1)
  && ok (exec (.awrite hdr0 ({ d := 0, a := 10, b := 0, sz := 0, fl := 0, imm := 0 } : SF)) (ready t)) (fun u => u == (ready t).trapEnter loc0 0x0C 1)) = true := by decide +kernel

end Sys2Proof.Tests
end

section
/-!
PROOFS. The compares of R87 (family 04, scalar control): the words of major 0x04 that decode to no instruction, what compare_cc is on bit vectors,
and what a compare writes.
-/

namespace Sys2Proof

/-! The words of major 0x04 that decode to no instruction -/

/-- A well-formed compare has an FL of R87: 0, 1 or 2. -/
theorem wfCmp_fl_lt {f : SF} (h : wfCmp f = true) : f.fl.toNat < 3 := by
  simp only [wfCmp, Bool.and_eq_true, beq_iff_eq, bne_iff_ne] at h
  obtain ⟨⟨-, hi⟩, lo⟩ := h
  omega

/-- Every instruction of major 0x04 is checked as a compare. -/
theorem wf_of_compareMajor {c : Hdr → SF → Instr} (hc : c ∈ sMajor 0x04) (h : Hdr) (f : SF) : (c h f).wf = (shortLA h && wfCmp f) := by
  simp only [sMajor, List.mem_cons, List.not_mem_nil, or_false] at hc
  obtain rfl | rfl | rfl | rfl | rfl | rfl := hc <;> rfl

/-- A raw instruction of format S is one of its major's, and its FL stands in bits 47 to 40 (R37). -/
theorem rawS_eq_some {w : Nat} {i : Instr} (hi : rawS w = some i) :
    ∃ c ∈ sMajor (w / 4 % 128), ∃ h f, i = c h f ∧ f.fl.toNat = w / 2 ^ 40 % 256 := by
  simp only [rawS, unpack, sWidths, commonWidths, List.cons_append, List.nil_append, Nat.div_div_eq_div_mul, Option.map_eq_some_iff] at hi
  obtain ⟨c, hc, rfl⟩ := hi
  exact ⟨c, List.mem_of_getElem? hc, _, _, rfl, by simp⟩

/-- A word of a format-S major is decoded as format S. -/
theorem decodeBits_formatS {w : Nat} (hlen : w % 4 = 0) (hmaj : majorFormat (w / 4 % 128) = some .s) : decodeBits w = checked true (rawS w) := by
  simp [decodeBits, bits, hlen, hmaj, Format.len]

/-- A raw instruction that is refused for its FN or its fields. -/
theorem checked_error {res : Bool} {r : Option Instr} (h : ∀ i, r = some i → i.wf = false) : ∃ e, checked res r = .error e := by
  cases r with
  | none => exact ⟨_, rfl⟩
  | some i => exact ⟨.badField, by simp [checked, h i rfl]⟩

/-- FL[1:0] = 11 and any bit of FL[7:2] make a word of major 0x04 no instruction (R87). -/
theorem decodeBits_compare_fl_error {w : Nat} (hlen : w % 4 = 0) (hmaj : w / 4 % 128 = 0x04) (hfl : 3 ≤ w / 2 ^ 40 % 256) :
    ∃ e, decodeBits w = .error e := by
  rw [decodeBits_formatS hlen (by rw [hmaj]; rfl)]
  refine checked_error fun i hi => ?_
  obtain ⟨c, hc, h, f, rfl, hf⟩ := rawS_eq_some hi
  rw [hmaj] at hc
  rw [wf_of_compareMajor hc, Bool.and_eq_false_iff]
  refine .inr (Bool.eq_false_iff.mpr fun hwf => ?_)
  have := wfCmp_fl_lt hwf
  omega

end Sys2Proof

namespace Sys2Proof.Machine

/-! compare_cc on bit vectors -/

/-- The model's two's complement reading of the low `w` bits is that of the bit vector. -/
theorem toSigned_toNat (w : Nat) (a : Word) : toSigned w a.toNat = (a.setWidth w).toInt := by
  simp [toSigned, BitVec.toInt_eq_toNat_cond]

/-- A reading of the low `w` bits takes no others. -/
theorem toSigned_mod (w n : Nat) : toSigned w (n % 2 ^ w) = toSigned w n := by
  simp [toSigned]

/-- compare_cc of R87 on two values of one width: LT and LE signed, LTU and LEU unsigned. -/
def Cond.compare {w : Nat} (c : Cond) (x y : BitVec w) : Bool :=
  match c with
  | .eq => x == y
  | .ne => x != y
  | .lt => x.slt y
  | .le => x.sle y
  | .ltu => x.ult y
  | .leu => x.ule y

/-- The model's compare is compare_cc of the low `w` bits of its operands. -/
theorem Cond.holds_toNat (c : Cond) (w : Nat) (a b : Word) : c.holds w a.toNat b.toNat = c.compare (a.setWidth w) (b.setWidth w) := by
  have same : (a.toNat % 2 ^ w == b.toNat % 2 ^ w) = (a.setWidth w == b.setWidth w) :=
    Bool.eq_iff_iff.mpr (by simp [← BitVec.toNat_inj])
  cases c with
  | eq => simp only [holds, compare, same]
  | ne => simp only [holds, compare, bne, same]
  | lt => simp only [holds, compare, toSigned_mod, toSigned_toNat, BitVec.slt]
  | le => simp only [holds, compare, toSigned_mod, toSigned_toNat, BitVec.sle]
  | ltu => simp only [holds, compare, BitVec.ult, BitVec.toNat_setWidth]
  | leu => simp only [holds, compare, BitVec.ule, BitVec.toNat_setWidth]

/-! What a compare writes -/

/-- An instruction of 8 bytes whose body only writes a predicate. -/
theorem issue_writesP {i : Instr} {h : Hdr} {maj fn : Nat} {s : State} {th : Thread} {body : Thread → M Unit} {d : BitVec 4} {b : Bool}
    (r : Runs s th h) (hb : body th s = writeP d.toNat b s) : WritesP s th d b (issue i h maj fn 8 s body) := by
  obtain ⟨t, ht, hth, hk, -⟩ := writeP_ok d.toNat b s r.thread
  rw [issue_ok r (hb.trans ht)]
  exact Goes.retire _ hk hth

/-- A compare of clean sources writes compare_cc of their low `w` bits to predicate D, set, ANDed or ORed as FL says (R87). -/
theorem compare_writesP {i : Instr} {h : Hdr} {fn : Nat} {s : State} {th : Thread} {f : SF} (c : Cond) (r : Runs s th h)
    (ha : (srcA f th).p = false) (hb : (srcB f th).p = false) :
    let v := c.compare ((srcA f th).v.setWidth (widthOf f.sz)) ((srcB f th).v.setWidth (widthOf f.sz))
    let old := th.p f.d.toNat
    let o := issue i h 0x04 fn 8 s (cmpS c f)
    (f.fl = 0 → WritesP s th f.d v o) ∧ (f.fl = 1 → WritesP s th f.d (old && v) o) ∧ (f.fl = 2 → WritesP s th f.d (old || v) o) := by
  intro v old o
  have hw : WritesP s th f.d (combine f.fl.toNat old v) o := issue_writesP r (by simp [cmpS, ha, hb, Cond.holds_toNat, v, old])
  refine ⟨fun e => ?_, fun e => ?_, fun e => ?_⟩ <;> simpa [e, combine] using hw

end Sys2Proof.Machine

namespace Sys2Proof.Proofs

open Sys2Proof.Machine

/-- Settles O4: each compare is compare_cc on bit vectors, combined as FL says, and a word with any other FL is no well-formed compare. -/
theorem compare : Obligations.Compare := by
  intro s th h f r ha hb
  exact ⟨compare_writesP .eq r ha hb, compare_writesP .ne r ha hb, compare_writesP .lt r ha hb, compare_writesP .le r ha hb,
    compare_writesP .ltu r ha hb, compare_writesP .leu r ha hb, fun _ => decodeBits_compare_fl_error⟩

end Sys2Proof.Proofs
end

section
/-!
PROOFS. The accumulator instructions of major 0x43 (family 06, gang matrix; R152, R158 to R161): sparse tables without some keys, updates made on both
sides of a frame, how an array instruction begins, and what AZERO, ASWAP, AREAD, AWRITE and ASTAT leave.
-/

namespace Sys2Proof

/-! Sparse tables without some keys -/

theorem Tab.get_del {α : Type} (d : α) (k n : Nat) (t : Tab α) : Tab.get d n (Tab.del k t) = if n = k then d else Tab.get d n t := by
  induction t with
  | nil => simp [Tab.del, Tab.get]
  | cons p t ih =>
    obtain ⟨j, b⟩ := p
    by_cases e : j = k
    · rw [Tab.del, if_pos e, ih]
      by_cases g : n = k
      · simp [g]
      · simp [Tab.get, e, g, Ne.symm g]
    · rw [Tab.del, if_neg e]
      by_cases g : j = n
      · simp [Tab.get, g, show n ≠ k from g ▸ e]
      · simp [Tab.get, g, ih]

/-- The table without any of some keys. -/
def Tab.delAll {α : Type} (ks : List Nat) (t : Tab α) : Tab α := ks.foldl (fun t k => Tab.del k t) t

theorem Tab.get_delAll {α : Type} (d : α) (ks : List Nat) (n : Nat) (t : Tab α) :
    Tab.get d n (Tab.delAll ks t) = if n ∈ ks then d else Tab.get d n t := by
  induction ks generalizing t with
  | nil => simp [Tab.delAll]
  | cons k ks ih =>
    have step : Tab.delAll (k :: ks) t = Tab.delAll ks (Tab.del k t) := rfl
    rw [step, ih, Tab.get_del]
    by_cases e : n = k
    · simp [e]
    · simp [e]

theorem upFrom_eq_range' (a n : Nat) : upFrom a n = List.range' a n := by
  induction n generalizing a with
  | zero => rfl
  | succ n ih => simp [upFrom, List.range'_succ, ih]

theorem bit_toNat {w : Nat} (i : Nat) (x : BitVec w) : bit i x.toNat = x.getLsbD i :=
  Nat.testBit_eq_decide_div_mod_eq.symm

end Sys2Proof

namespace Sys2Proof.Machine

/-! One core changed -/

/-- Only what a change makes of the core that it is applied to counts. -/
theorem State.updCore_congr {s : State} {p : Nat} {f g : Core → Core} (e : f (s.core p) = g (s.core p)) : s.updCore p f = s.updCore p g := by
  simp [State.updCore, e]

/-! `t` keeps all of `s`, the slot of the current place included -/

/-- As `Keeps`, for a part of an instruction that leaves the current slot as it is too. -/
structure Stays (s t : State) : Prop where
  keeps : Keeps s t
  slot : t.curSlot = s.curSlot

theorem Keeps.gangs {s t : State} (k : Keeps s t) : t.gangs = s.gangs := by
  simpa [State.rest] using congrArg State.gangs k.rest

theorem Keeps.gang {s t : State} (k : Keeps s t) (g : Nat) : t.gang g = s.gang g := by
  simp [State.gang, k.gangs]

theorem Keeps.arr {s t : State} (k : Keeps s t) (n : Nat) : (t.core n).arr = (s.core n).arr := by
  simpa [Core.rest] using congrArg Core.arr (k.cores n)

theorem Keeps.here {s t : State} (k : Keeps s t) : t.here = s.here := congrArg locCore k.cur

theorem Keeps.isJoined {s t : State} (k : Keeps s t) (p : Nat) : t.isJoined p = s.isJoined p := by
  simp [State.isJoined, k.gang]

theorem Keeps.rowprog {s t : State} (k : Keeps s t) (p : Nat) : t.rowprog p = s.rowprog p := by
  simp [State.rowprog, k.isJoined, k.gang, k.arr]

/-- The status word of R161 depends on nothing that an instruction keeps. -/
theorem Keeps.astat {s t : State} (k : Keeps s t) (p : Nat) (access : Bool) : t.astat p access = s.astat p access := by
  simp [State.astat, k.isJoined, k.gang, k.arr]

namespace Stays

theorem refl (s : State) : Stays s s := ⟨Keeps.refl s, rfl⟩

theorem trans {s t u : State} (a : Stays s t) (b : Stays t u) : Stays s u := ⟨a.keeps.trans b.keeps, b.slot.trans a.slot⟩

theorem refill (s : State) (core array place unit : Nat) : Stays s (s.refill core array place unit) :=
  ⟨Keeps.refill s core array place unit, by simp [State.curSlot]⟩

theorem endsInterval (s : State) (p : Nat) : Stays s (s.endsInterval p) := by
  unfold State.endsInterval
  split
  · refine ⟨Keeps.updCore s p _ (fun _ => rfl) (fun _ => rfl), ?_⟩
    exact (State.updCore_slot s p _ (by intro _; rfl) s.cur)
  · exact refl s

/-- One change of a core, made on both sides: it reads and writes only what is kept. -/
theorem updCore {s t : State} (k : Stays s t) (p : Nat) {f : Core → Core} (hr : ∀ c, (f c).rest = f c.rest) (hs : ∀ c, (f c).slots = c.slots) :
    Stays (s.updCore p f) (t.updCore p f) := by
  obtain ⟨⟨rest, cores, quays, places⟩, slot⟩ := k
  refine ⟨⟨?_, fun n => ?_, quays, fun l hl => ?_⟩, ?_⟩
  · exact rest
  · rw [State.updCore_core, State.updCore_core]
    split
    · rw [hr, hr, cores]
    · exact cores n
  · rw [State.updCore_slot t p f hs, State.updCore_slot s p f hs]
    exact places l hl
  · exact (State.updCore_slot t p f hs t.cur).trans (slot.trans (State.updCore_slot s p f hs s.cur).symm)

/-- One change of a core's array state, made on both sides. -/
theorem updArr {s t : State} (k : Stays s t) (p : Nat) (g : ArrayState → ArrayState) : Stays (s.updArr p g) (t.updArr p g) :=
  k.updCore p (fun _ => rfl) (fun _ => rfl)

/-- One change of a gang, made on both sides. -/
theorem updGang {s t : State} (k : Stays s t) (g : Nat) (f : Gang → Gang) : Stays (s.updGang g f) (t.updGang g f) := by
  have hg := k.keeps.gang g
  have hgs := k.keeps.gangs
  obtain ⟨⟨rest, cores, quays, places⟩, slot⟩ := k
  refine ⟨⟨?_, cores, quays, places⟩, slot⟩
  have e := congrArg (fun u : State => { u with gangs := Tab.set g (f (s.gang g)) s.gangs }) rest
  simpa [State.updGang, State.rest, hg, hgs] using e

theorem clearRowprog {s t : State} (k : Stays s t) (p : Nat) : Stays (s.clearRowprog p) (t.clearRowprog p) := by
  simp only [State.clearRowprog, State.setRowprog, k.keeps.isJoined]
  split
  · exact k.updGang _ _
  · exact k.updArr p _

theorem forgetMma {s t : State} (k : Stays s t) (p : Nat) : Stays (s.forgetMma p) (t.forgetMma p) := k.updArr p _

end Stays

/-! Changes of a core's array state leave the place and its slot -/

/-- The same place is current, and its slot is the same; the rest may differ. -/
structure SamePlace (s t : State) : Prop where
  cur : t.cur = s.cur
  slot : t.curSlot = s.curSlot

theorem SamePlace.trans {s t u : State} (a : SamePlace s t) (b : SamePlace t u) : SamePlace s u := ⟨b.cur.trans a.cur, b.slot.trans a.slot⟩

theorem SamePlace.updArr (s : State) (p : Nat) (g : ArrayState → ArrayState) : SamePlace s (s.updArr p g) :=
  ⟨rfl, State.updCore_slot s p (fun c => { c with arr := g c.arr }) (fun _ => rfl) s.cur⟩

theorem SamePlace.clearRowprog (s : State) (p : Nat) : SamePlace s (s.clearRowprog p) := by
  unfold State.clearRowprog State.setRowprog
  split
  · exact ⟨rfl, rfl⟩
  · exact SamePlace.updArr s p _

/-! ROWPROG := 0, and the latest MMA can be cut no more (R152, R154) -/

/-- What every accumulator instruction but ASTAT does first. -/
def State.beginAcc (s : State) (p : Nat) : State := (s.clearRowprog p).forgetMma p

theorem SamePlace.beginAcc (s : State) (p : Nat) : SamePlace s (s.beginAcc p) :=
  (clearRowprog s p).trans (updArr (s.clearRowprog p) p fun a => { a with last := none })

theorem Stays.beginAcc {s t : State} (k : Stays s t) (p : Nat) : Stays (s.beginAcc p) (t.beginAcc p) := (k.clearRowprog p).forgetMma p

/-- The core keeps all but its latest MMA and, where it is not joined, ROWPROG and the restart record. -/
theorem State.beginAcc_core (s : State) (p : Nat) :
    ∃ w r, (s.beginAcc p).core p = { s.core p with arr := { (s.core p).arr with last := none, rowprog := w, restart := r } } := by
  unfold State.beginAcc State.clearRowprog State.setRowprog
  split
  · exact ⟨(s.core p).arr.rowprog, (s.core p).arr.restart, by simp [State.forgetMma, State.updArr]⟩
  · exact ⟨0, [], by simp [State.forgetMma, State.updArr]⟩

/-! How an array instruction begins -/

/-- An array instruction waits while its core's pair interval holds work (R158). -/
theorem arrayM_waits {s : State} (hsvc : s.cur.svc = false) (hopen : s.intervalOpen s.here = true) :
    arrayM s = .error (.stall .request s) := by
  simp [arrayM, aloneM, hsvc, hopen]

/-- An array that owes no rows has none to complete (R154). -/
theorem State.completeRows_of_paid {s : State} {p : Nat} (h : (s.rowprog p).getLsbD 10 = false) : s.completeRows p = s := by
  rw [State.completeRows, if_neg (Bool.eq_false_iff.mp h)]

/-- With no work in the interval and no rows owed it goes on, and changes nothing that an instruction keeps. -/
theorem arrayM_goes {s : State} (hfree : s.cur.svc = true ∨ s.intervalOpen s.here = false) (howed : (s.rowprog s.here).getLsbD 10 = false) :
    ∃ t, arrayM s = .ok ((), t) ∧ Stays s t := by
  suffices ∃ t, aloneM s = .ok ((), t) ∧ Stays s t by
    obtain ⟨t, ht, k⟩ := this
    refine ⟨t, ?_, k⟩
    have : (t.rowprog t.here).getLsbD 10 = false := by rw [k.keeps.here, k.keeps.rowprog, howed]
    simp [arrayM, ht, State.completeRows_of_paid this]
  cases hsvc : s.cur.svc with
  | true => exact ⟨s, by simp [aloneM, hsvc], Stays.refl s⟩
  | false =>
    have hclosed : s.intervalOpen s.here = false := by simpa [hsvc] using hfree
    exact ⟨_, by simp [aloneM, hsvc, hclosed], Stays.endsInterval s s.here⟩

/-- With array access an accumulator instruction goes on to its own work (R152). -/
theorem accAccess_granted {s t : State} {th : Thread} (ha : th.array = true) (k : Stays s t) :
    ∃ u, accAccess th t = .ok ((), u) ∧ u.here = s.here ∧ Stays (s.beginAcc s.here) u := by
  have ku := k.beginAcc t.here
  rw [k.keeps.here] at ku
  refine ⟨t.beginAcc s.here, ?_, ku.keeps.here.trans (congrArg locCore (SamePlace.beginAcc s s.here).cur), ku⟩
  simp [accAccess, arrayReq, ha, State.beginAcc, k.keeps.here]

theorem accAccess_denied {th : Thread} (ha : th.array = false) (s : State) : accAccess th s = .error (.trap 0x0C 1) := by
  simp [accAccess, arrayReq, ha, cARRAY_STATE, asEval, asNO_ACCESS]

/-- A V register within the quota of a thread outside the service slots (R26). -/
theorem vphys_within {th : Thread} {n : Nat} (hsvc : th.svc = false) (hn : n < th.vq) (s : State) : vphys th n s = .ok (th.vbase + n, s) := by
  simp [vphys, Thread.quota, hsvc, hn]

/-! The frame of a long array instruction -/

theorem issueLong_stall {i : Instr} {h : Hdr} {maj fn len : Nat} {s t : State} {th : Thread} {body : Thread → M Opening} {w : Stall}
    (r : Runs s th h) (hw : s.curSlot.wins.length < 2) (hb : body th s = .error (.stall w t)) :
    issueLong i h maj fn len s body = .next (t.stallSlot s.cur w) := by
  unfold State.curSlot at hw
  simp [issueLong, framed_runs r, hw, hb, finishLong]

/-- A long instruction whose body leaves a state that keeps `base`. -/
theorem issueLong_opens {i : Instr} {h : Hdr} {maj fn len : Nat} {s base t : State} {th : Thread} {body : Thread → M Opening} {latch : List LatchWrite}
    (r : Runs s th h) (hw : s.curSlot.wins.length < 2) (hb : body th s = .ok ({ latch := latch }, t)) (hp : SamePlace s base) (k : Stays base t) :
    Opens s base { th with pc := th.after len } maj h latch (issueLong i h maj fn len s body) := by
  rw [issueLong_ok r hw hb, ← hp.cur]
  have hslot : t.curSlot = s.curSlot := k.slot.trans hp.slot
  refine Opens.retire _ _ k.keeps ?_ (congrArg Slot.wins hslot) ⟨rfl, rfl, rfl, rfl⟩
  unfold State.thread
  rw [hslot]
  exact r.thread

/-! Rows of a bank -/

/-- The accumulator rows of a core's slice replaced. -/
def State.withRows (s : State) (p : Nat) (x : Tab VReg) (y : Tab (BitVec 64)) : State := s.updArr p fun a => { a with acc := x, accp := y }

theorem SamePlace.withRows (s : State) (p : Nat) (x : Tab VReg) (y : Tab (BitVec 64)) : SamePlace s (s.withRows p x y) :=
  updArr s p fun a => { a with acc := x, accp := y }

/-- A change of a core that on `s` comes to new accumulator rows. -/
theorem Stays.withRows {s t : State} (k : Stays s t) (p : Nat) {f : Core → Core} {x : Tab VReg} {y : Tab (BitVec 64)}
    (hr : ∀ c, (f c).rest = f c.rest) (hs : ∀ c, (f c).slots = c.slots)
    (e : f (s.core p) = { s.core p with arr := { (s.core p).arr with acc := x, accp := y } }) : Stays (s.withRows p x y) (t.updCore p f) := by
  have h : s.withRows p x y = s.updCore p f := by
    rw [State.withRows, State.updArr]
    exact State.updCore_congr e.symm
  exact h ▸ k.updCore p hr hs

/-- `n` rows of a bank from a row on, cleared (R160). -/
def ArrayState.clearRows (a : ArrayState) (bank row n : Nat) : ArrayState :=
  let keys := (List.range n).map fun i => accKey bank (row + i)
  { a with acc := Tab.delAll keys a.acc, accp := Tab.delAll keys a.accp }

/-- Rows deleted one after another. -/
theorem ArrayState.foldl_del (a : ArrayState) (key : Nat → Nat) (l : List Nat) :
    l.foldl (fun a i => { a with acc := Tab.del (key i) a.acc, accp := Tab.del (key i) a.accp }) a
      = { a with acc := Tab.delAll (l.map key) a.acc, accp := Tab.delAll (l.map key) a.accp } := by
  induction l generalizing a with
  | nil => rfl
  | cons i l ih => exact ih _

theorem accKey_of_lt (bank : Nat) {row : Nat} (h : row < 256) : accKey bank row = 256 * bank + row := by rw [accKey, Nat.mod_eq_of_lt h]

/-- Two rows are one where bank and row number agree. -/
theorem eq_accKey_iff {b r bank row : Nat} (hr : r < 256) : 256 * b + r = accKey bank row ↔ b = bank ∧ r = row % 256 := by
  unfold accKey
  omega

/-- A row of a bank is cleared exactly where it is among the rows named. -/
theorem mem_clearedKeys {b r bank row n : Nat} (hr : r < 256) :
    256 * b + r ∈ (List.range n).map (fun i => accKey bank (row + i)) ↔ b = bank ∧ (List.range n).any (fun i => (row + i) % 256 == r) := by
  simp only [List.mem_map, List.any_eq_true, beq_iff_eq, eq_comm (b := 256 * b + r), eq_accKey_iff hr, eq_comm (b := r)]
  exact ⟨fun ⟨i, hi, hb, hi'⟩ => ⟨hb, i, hi, hi'⟩, fun ⟨hb, i, hi, hi'⟩ => ⟨i, hi, hb, hi'⟩⟩

/-- What both tables of a slice hold of a row: its value and its lane poison. -/
def ArrayState.rowAt (a : ArrayState) (bank row : Nat) : VReg × BitVec 64 := (Tab.get 0 (accKey bank row) a.acc, Tab.get 0 (accKey bank row) a.accp)

theorem ArrayState.clearRows_rowAt (a : ArrayState) (bank row n b : Nat) {r : Nat} (hr : r < 256) :
    (Tab.get 0 (256 * b + r) (a.clearRows bank row n).acc, Tab.get 0 (256 * b + r) (a.clearRows bank row n).accp)
      = if b = bank ∧ (List.range n).any (fun i => (row + i) % 256 == r) then (0, 0) else a.rowAt b r := by
  simp only [ArrayState.clearRows, Tab.get_delAll, mem_clearedKeys hr, ArrayState.rowAt, accKey_of_lt b hr]
  split
  · rfl
  · rfl

/-- One row of a bank written (R160). -/
def ArrayState.setRow (a : ArrayState) (bank row : Nat) (v : VReg) (p : BitVec 64) : ArrayState :=
  { a with acc := Tab.set (accKey bank row) v a.acc, accp := Tab.set (accKey bank row) p a.accp }

theorem ArrayState.setRow_rowAt (a : ArrayState) (bank b : Nat) {row r : Nat} (v : VReg) (p : BitVec 64) (hrow : row < 256) (hr : r < 256) :
    (Tab.get 0 (256 * b + r) (a.setRow bank row v p).acc, Tab.get 0 (256 * b + r) (a.setRow bank row v p).accp)
      = if b = bank ∧ r = row then (v, p) else a.rowAt b r := by
  simp only [ArrayState.setRow, Tab.get_set, eq_accKey_iff hr, Nat.mod_eq_of_lt hrow, ArrayState.rowAt, accKey_of_lt b hr]
  split
  · rfl
  · rfl

/-- The base of a row operand (R159). -/
theorem srcA_eq_baseOf (f : SF) (th : Thread) : srcA f th = baseOf th f.a := by
  unfold srcA srcImm baseOf
  by_cases x : f.a.toNat ≤ 9
  · simp [x]
  · by_cases i : f.a = 11#4
    · simp [i, clean]
    · by_cases p : f.a = 12#4
      · simp [p, clean]
      · simp [x, i, p, clean]

/-! What the instructions do -/

section
variable {s : State} {th : Thread} (h : Hdr) (f : SF) (r : Runs s th h) (hw : s.curSlot.wins.length < 2)
include r hw

/-- Work in the pair interval holds each of the five back. -/
theorem accumulator_waits {i : Instr} (hsvc : s.cur.svc = false) (hopen : s.intervalOpen s.here = true)
    (hi : i ∈ [Instr.azero h f, .aswap h f, .aread h f, .awrite h f, .astat h f]) :
    exec i s = .next (s.stallSlot s.cur .request) := by
  simp only [List.mem_cons, List.not_mem_nil, or_false] at hi
  obtain rfl | rfl | rfl | rfl | rfl := hi <;> exact issueLong_stall r hw (by simp only [run_bind, arrayM_waits hsvc hopen])

variable (hfree : s.cur.svc = true ∨ s.intervalOpen s.here = false) (howed : (s.rowprog s.here).getLsbD 10 = false)
include hfree howed

/-- AZERO clears its rows of the working bank or, with FL[0], the visible one. -/
theorem execAzero_opens (ha : th.array = true) :
    let a := (s.core s.here).arr
    let b := a.clearRows (if f.fl.getLsbD 0 then a.visible else a.role) (rowOf f th) (f.imm.toNat / 256 + 1)
    Opens s ((s.beginAcc s.here).withRows s.here b.acc b.accp) { th with pc := th.after 8 } 0x43 h [] (execAzero h f s) := by
  intro a b
  obtain ⟨t, ht, k⟩ := arrayM_goes hfree howed
  obtain ⟨u, hu, hhere, ku⟩ := accAccess_granted ha k
  refine issueLong_opens r hw (by simp only [run_bind, ht, hu, run_modS, run_pure]; rfl)
    ((SamePlace.beginAcc s s.here).trans (SamePlace.withRows _ _ _ _)) (Stays.trans ?_ (Stays.refill _ _ _ _ _))
  rw [hhere]
  refine ku.withRows s.here (fun _ => rfl) (fun _ => rfl) ?_
  obtain ⟨w, rs, hc⟩ := State.beginAcc_core s s.here
  simp only [hc, bit_toNat, upFrom_eq_range', ← List.range_eq_range', ArrayState.foldl_del]
  rfl

/-- ASWAP exchanges the banks' roles. -/
theorem execAswap_opens (ha : th.array = true) :
    Opens s ((s.beginAcc s.here).updArr s.here fun a => { a with role := 1 - (s.core s.here).arr.role }) { th with pc := th.after 8 } 0x43 h []
      (execAswap h f s) := by
  obtain ⟨t, ht, k⟩ := arrayM_goes hfree howed
  obtain ⟨u, hu, hhere, ku⟩ := accAccess_granted ha k
  refine issueLong_opens r hw (by simp only [run_bind, ht, hu, run_modS, run_pure]; rfl)
    ((SamePlace.beginAcc s s.here).trans (SamePlace.updArr _ _ _)) ?_
  rw [hhere]
  obtain ⟨w, rs, hc⟩ := State.beginAcc_core s s.here
  have e : (s.beginAcc s.here).updArr s.here (fun a => { a with role := 1 - (s.core s.here).arr.role })
      = (s.beginAcc s.here).updArr s.here (fun a => { a with role := 1 - a.role }) := State.updCore_congr (by simp [hc])
  rw [e]
  exact ku.updArr s.here _

/-- AREAD brings a row of the visible bank to its latch. -/
theorem execAread_opens (ha : th.array = true) (hsvc : th.svc = false) (hvq : f.fl.toNat % 32 < th.vq) :
    let a := (s.core s.here).arr
    Opens s (s.beginAcc s.here) { th with pc := th.after 8 } 0x43 h
      [.v (th.vbase + f.fl.toNat % 32) (BitVec.allOnes 2048) (a.rowAt a.visible (rowOf f th)).1 (BitVec.allOnes 64)
        (a.rowAt a.visible (rowOf f th)).2] (execAread h f s) := by
  intro a
  obtain ⟨t, ht, k⟩ := arrayM_goes hfree howed
  obtain ⟨u, hu, hhere, ku⟩ := accAccess_granted ha k
  refine issueLong_opens r hw ?_ (SamePlace.beginAcc s s.here) ku
  obtain ⟨w, rs, hc⟩ := State.beginAcc_core s s.here
  simp only [run_bind, ht, vphys_within hsvc hvq, hu, run_getS, run_pure, hhere, ku.keeps.arr, hc]
  rfl

/-- AWRITE stores its V register in a row of the visible bank. -/
theorem execAwrite_opens (ha : th.array = true) (hsvc : th.svc = false) (hvq : f.fl.toNat % 32 < th.vq) :
    let c := s.core s.here
    let b := c.arr.setRow c.arr.visible (rowOf f th) (c.v (th.vbase + f.fl.toNat % 32)) (c.vp (th.vbase + f.fl.toNat % 32))
    Opens s ((s.beginAcc s.here).withRows s.here b.acc b.accp) { th with pc := th.after 8 } 0x43 h [] (execAwrite h f s) := by
  intro c b
  obtain ⟨t, ht, k⟩ := arrayM_goes hfree howed
  obtain ⟨u, hu, hhere, ku⟩ := accAccess_granted ha k
  refine issueLong_opens r hw (by simp only [run_bind, ht, vphys_within hsvc hvq, hu, run_modS, run_pure]; rfl)
    ((SamePlace.beginAcc s s.here).trans (SamePlace.withRows _ _ _ _)) (Stays.trans ?_ (Stays.refill _ _ _ _ _))
  rw [hhere]
  refine ku.withRows s.here (fun _ => rfl) (fun _ => rfl) ?_
  obtain ⟨w, rs, hc⟩ := State.beginAcc_core s s.here
  rw [hc]
  rfl

/-- ASTAT brings the status word to its latch, with or without array access. -/
theorem execAstat_opens :
    Opens s (s.forgetMma s.here) { th with pc := th.after 8 } 0x43 h (latchX f.d (clean (s.astat s.here th.array))) (execAstat h f s) := by
  obtain ⟨t, ht, k⟩ := arrayM_goes hfree howed
  have ku := k.forgetMma s.here
  refine issueLong_opens r hw ?_ (SamePlace.updArr s s.here _) ku
  have hhere : (t.forgetMma s.here).here = s.here := ku.keeps.here
  have hstat : (s.forgetMma s.here).astat s.here th.array = s.astat s.here th.array := by
    simp [State.astat, State.isJoined, State.forgetMma, State.updArr]
  simp only [run_bind, ht, run_modS, run_getS, run_pure, k.keeps.here, hhere, ku.keeps.astat, hstat]

/-- Without array access the four that use the accumulators trap ARRAY_STATE with NO_ACCESS; AREAD and AWRITE name their V register first. -/
theorem accumulator_denied (ha : th.array = false) :
    execAzero h f s = .next (s.trapEnter s.cur 0x0C 1) ∧ execAswap h f s = .next (s.trapEnter s.cur 0x0C 1) ∧
      (th.svc = false → f.fl.toNat % 32 < th.vq →
        execAread h f s = .next (s.trapEnter s.cur 0x0C 1) ∧ execAwrite h f s = .next (s.trapEnter s.cur 0x0C 1)) := by
  obtain ⟨t, ht, -⟩ := arrayM_goes hfree howed
  refine ⟨issueLong_trap r hw ?_, issueLong_trap r hw ?_, fun hsvc hvq => ⟨issueLong_trap r hw ?_, issueLong_trap r hw ?_⟩⟩
  · simp only [run_bind, ht, accAccess_denied ha]
  · simp only [run_bind, ht, accAccess_denied ha]
  · simp only [run_bind, ht, vphys_within hsvc hvq, accAccess_denied ha]
  · simp only [run_bind, ht, vphys_within hsvc hvq, accAccess_denied ha]

end

end Sys2Proof.Machine

namespace Sys2Proof.Proofs

open Sys2Proof.Machine

/-- Settles O41: each instruction waits for the pair interval, then opens its window on the slice as R160 says, or traps for want of array access. -/
theorem arrayAccumulators : Obligations.ArrayAccumulators := by
  intro s th h f r hw
  refine ⟨fun hsvc hopen i hi => accumulator_waits h f r hw hsvc hopen hi, fun hfree howed => ?_⟩
  intro c a later s0 row next at_ acc
  have hrow : rowOf f th = row := by rw [rowOf, srcA_eq_baseOf]
  have hlt : row < 256 := Nat.mod_lt _ (by decide)
  have hat : ∀ bank q, at_ a bank q = a.rowAt bank q := fun _ _ => rfl
  refine ⟨fun ha _ => ⟨?azero, execAswap_opens h f r hw hfree howed ha, fun hsvc hvq => ⟨?aread, ?awrite⟩⟩,
    execAstat_opens h f r hw hfree howed, fun ha => accumulator_denied h f r hw hfree howed ha⟩
  case azero =>
    refine ⟨_, _, execAzero_opens h f r hw hfree howed ha, fun b q hq => ?_⟩
    rw [hrow, hat]
    exact ArrayState.clearRows_rowAt _ _ _ _ b hq
  case aread =>
    rw [hat, ← hrow]
    exact execAread_opens h f r hw hfree howed ha hsvc hvq
  case awrite =>
    refine ⟨_, _, execAwrite_opens h f r hw hfree howed ha hsvc hvq, fun b q hq => ?_⟩
    rw [hrow, hat]
    exact ArrayState.setRow_rowAt _ _ b _ _ hlt hq

end Sys2Proof.Proofs
end

section
/-!
PROOFS. The functions of the bank unit (family 07, memory and atomics; R179): a field of a line written, a fold whose steps each write their own
element, and what a queued B-operation leaves in each lane of its piece.
-/

namespace Sys2Proof

/-! A field of a line -/

/-- A number with the field of `w` bits at `lo` replaced, as what stands above the field, the field, and what stands below it. -/
theorem replaceField_eq (n lo w v : Nat) (hw : 0 < w) :
    n - bits (lo + w - 1) lo n * 2 ^ lo + v % 2 ^ w * 2 ^ lo = 2 ^ lo * (2 ^ w * (n / 2 ^ lo / 2 ^ w) + v % 2 ^ w) + n % 2 ^ lo := by
  have hwidth : lo + w - 1 + 1 - lo = w := by omega
  have hfield := Nat.div_add_mod (n / 2 ^ lo) (2 ^ w)
  have hn : n = 2 ^ lo * (2 ^ w * (n / 2 ^ lo / 2 ^ w)) + bits (lo + w - 1) lo n * 2 ^ lo + n % 2 ^ lo := by
    rw [bits, hwidth, Nat.mul_comm _ (2 ^ lo), ← Nat.mul_add, hfield, Nat.div_add_mod]
  rw [Nat.mul_add, Nat.mul_comm (v % 2 ^ w)]
  omega

/-- The field's bits are the new ones, and the other bits stay. -/
theorem testBit_replaceField (n lo w v j : Nat) (hw : 0 < w) :
    (n - bits (lo + w - 1) lo n * 2 ^ lo + v % 2 ^ w * 2 ^ lo).testBit j =
      if lo ≤ j ∧ j < lo + w then v.testBit (j - lo) else n.testBit j := by
  rw [replaceField_eq n lo w v hw, Nat.testBit_two_pow_mul_add _ (Nat.mod_lt _ (Nat.two_pow_pos lo)),
    Nat.testBit_two_pow_mul_add _ (Nat.mod_lt _ (Nat.two_pow_pos w))]
  by_cases below : j < lo
  · have outside : ¬ (lo ≤ j ∧ j < lo + w) := by omega
    rw [if_pos below, if_neg outside, Nat.testBit_mod_two_pow, decide_eq_true below, Bool.true_and]
  · by_cases inside : j < lo + w
    · have field : j - lo < w := by omega
      have within : lo ≤ j ∧ j < lo + w := by omega
      rw [if_neg below, if_pos field, if_pos within, Nat.testBit_mod_two_pow, decide_eq_true field, Bool.true_and]
    · have above : ¬ j - lo < w := by omega
      have outside : ¬ (lo ≤ j ∧ j < lo + w) := by omega
      have hj : lo + (w + (j - lo - w)) = j := by omega
      rw [if_neg below, if_neg above, if_neg outside, Nat.testBit_div_two_pow, Nat.testBit_div_two_pow, Nat.add_comm _ w, Nat.add_comm _ lo, hj]

/-! A fold whose steps each change their own element -/

/-- Where `step i` gives the element `i` by `g i` and keeps the others, the fold over the first `n` steps gives each of the first `n` elements once. -/
theorem foldl_upFrom_pointwise {σ α : Type} (el : σ → Nat → α) (g : Nat → α → α) (step : σ → Nat → σ) (n : Nat)
    (hstep : ∀ i < n, ∀ s j, el (step s i) j = if j = i then g i (el s i) else el s j) (s : σ) (j : Nat) :
    el ((upFrom 0 n).foldl step s) j = if j < n then g j (el s j) else el s j := by
  rw [upFrom_eq_range', ← List.range_eq_range']
  induction n generalizing j with
  | zero => exact (if_neg (Nat.not_lt_zero j)).symm
  | succ n ih =>
    have earlier := ih fun i hi => hstep i (Nat.lt_succ_of_lt hi)
    rw [List.range_succ, List.foldl_append, List.foldl_cons, List.foldl_nil, hstep n (Nat.lt_succ_self n), earlier, earlier]
    by_cases last : j = n
    · rw [last, if_pos rfl, if_neg (Nat.lt_irrefl n), if_pos (Nat.lt_succ_self n)]
    · have others : j < n + 1 ↔ j < n := by omega
      simp only [last, others, if_false]

end Sys2Proof

namespace Sys2Proof.Machine

/-! Elements of a line -/

/-- Element `i` of `w` bits in a line. -/
def elemAt (w i : Nat) (l : Line) : BitVec w := l.extractLsb' (w * i) w

/-- Writing one element of a line sets it and keeps the others. -/
theorem elemAt_setLineBits (l : Line) (w i j v : Nat) (hw : 0 < w) (hi : w * i + w ≤ 512) :
    elemAt w j (QOp.apply.setLineBits l (w * i) w v) = if j = i then BitVec.ofNat w v else elemAt w j l := by
  refine BitVec.eq_of_getLsbD_eq fun k hk => ?_
  rw [elemAt, BitVec.getLsbD_extractLsb', QOp.apply.setLineBits, BitVec.getLsbD_ofNat, testBit_replaceField _ _ _ _ _ hw]
  by_cases same : j = i
  · have hin : w * i + k < 512 := by omega
    have inside : w * i ≤ w * i + k ∧ w * i + k < w * i + w := by omega
    rw [same, if_pos rfl, if_pos inside, BitVec.getLsbD_ofNat, Nat.add_sub_cancel_left, decide_eq_true hk, decide_eq_true hin, Bool.true_and]
  · have outside : ¬ (w * i ≤ w * j + k ∧ w * j + k < w * i + w) := by
      rintro ⟨hlo, hhi⟩
      have h1 : w * i < w * (j + 1) := by rw [Nat.mul_add]; omega
      have h2 : w * j < w * (i + 1) := by rw [Nat.mul_add]; omega
      have := Nat.lt_of_mul_lt_mul_left h1
      have := Nat.lt_of_mul_lt_mul_left h2
      omega
    rw [if_neg outside, if_neg same, elemAt, BitVec.getLsbD_extractLsb', BitVec.testBit_toNat]
    by_cases hin : w * j + k < 512
    · rw [decide_eq_true hin, Bool.true_and]
    · rw [decide_eq_false hin, BitVec.getLsbD_of_ge _ _ (Nat.le_of_not_lt hin), Bool.false_and]

/-- A queued B-operation makes each lane of its piece that it names the function of R179, and keeps the others; `w` is the bytes of a lane. -/
theorem elemAt_apply_bank (fn : Nat) (lanes : BitVec 64) (d : Line) (fac : BitVec 32) (po : BitVec 64) (l : Line × BitVec 64) {w i : Nat}
    (hw : w = if fn = 2 then 2 else 4) (hi : i < 64 / w) :
    elemAt (8 * w) i (QOp.apply (.bank fn lanes d fac po) l).1 =
      if lanes.getLsbD i then BitVec.ofNat (8 * w) (bankOp fn fac.toNat (elemAt (8 * w) i l.1).toNat (elemAt (8 * w) i d).toNat)
      else elemAt (8 * w) i l.1 := by
  have hpos : 0 < 8 * w := by split at hw <;> omega
  have hpiece : ∀ k < 64 / w, 8 * w * k + 8 * w ≤ 512 := by split at hw <;> subst hw <;> omega
  subst hw
  refine (foldl_upFrom_pointwise (fun x j => elemAt _ j x.1)
    (fun j e => if lanes.getLsbD j then BitVec.ofNat _ (bankOp fn fac.toNat e.toNat (elemAt _ j d).toNat) else e) _ _
    (fun k hk acc j => ?_) l i).trans (if_pos hi)
  cases on : lanes.getLsbD k with
  | true =>
    simp only [if_true]
    exact elemAt_setLineBits acc.1 _ k j _ hpos (hpiece k hk)
  | false =>
    have kept : ∀ n, elemAt n j acc.1 = if j = k then elemAt n k acc.1 else elemAt n j acc.1 := fun n => by
      split
      · next e => rw [e]
      · rfl
    -- under a poisoned mask the step changes the poison alone
    by_cases dirty : spreadPois (if fn = 2 then 2 else 4) po k
    · simpa only [dirty, Bool.false_eq_true, if_true, if_false] using kept _
    · simpa only [dirty, Bool.false_eq_true, if_false] using kept _

/-! The integer functions of the bank on bit vectors -/

/-- The bank's signed comparison is that of 32-bit vectors. -/
theorem toSigned_toNat_32 (x : BitVec 32) : toSigned 32 x.toNat = x.toInt := by
  have same : (x.setWidth 64).toNat = x.toNat := BitVec.toNat_setWidth_of_le (by decide)
  have back : (x.setWidth 64).setWidth 32 = x := BitVec.setWidth_setWidth_of_le x (by decide)
  rw [← same, toSigned_toNat, back]

/-- BADD.I32 is the sum modulo 2^32. -/
theorem bankOp_add (fac : Nat) (m v : BitVec 32) : BitVec.ofNat 32 (bankOp 0 fac m.toNat v.toNat) = m + v := by
  rw [← BitVec.toNat_inj, BitVec.toNat_add, BitVec.toNat_ofNat]
  exact Nat.mod_mod _ _

/-- BMIN.I32 is the smaller, signed. -/
theorem bankOp_min (fac : Nat) (m v : BitVec 32) : BitVec.ofNat 32 (bankOp 3 fac m.toNat v.toNat) = if m.sle v then m else v := by
  simp only [bankOp, toSigned_toNat_32, BitVec.sle, decide_eq_true_eq]
  split <;> rw [BitVec.ofNat_toNat, BitVec.setWidth_eq]

/-- BMAX.I32 is the larger, signed. -/
theorem bankOp_max (fac : Nat) (m v : BitVec 32) : BitVec.ofNat 32 (bankOp 4 fac m.toNat v.toNat) = if m.sle v then v else m := by
  simp only [bankOp, toSigned_toNat_32, BitVec.sle, decide_eq_true_eq]
  split <;> rw [BitVec.ofNat_toNat, BitVec.setWidth_eq]

end Sys2Proof.Machine

namespace Sys2Proof.Proofs

open Sys2Proof.Machine

/-- Settles O38: each lane that a B-operation names becomes the function of R179 of its old element and the source lane, and the others stay. -/
theorem bankArithmetic : Obligations.BankArithmetic := by
  intro lanes d fac po l lp i el after f r
  have words : ∀ fn, fn ≠ 2 → i < 16 → el (after fn) 32 =
      if lanes.getLsbD i then BitVec.ofNat 32 (bankOp fn fac.toNat (el l 32).toNat (el d 32).toNat) else el l 32 := fun fn hfn hi =>
    elemAt_apply_bank fn lanes d fac po (l, lp) (w := 4) (by rw [if_neg hfn]) (by omega)
  have halves : i < 32 → el (after 2) 16 =
      if lanes.getLsbD i then BitVec.ofNat 16 (bankOp 2 fac.toNat (el l 16).toNat (el d 16).toNat) else el l 16 := fun hi =>
    elemAt_apply_bank 2 lanes d fac po (l, lp) (w := 2) rfl (by omega)
  refine ⟨fun hi on => ?named, fun hi on => ?namedHalf, fun hi off fn hfn => ?kept, fun hi off => ?keptHalf⟩
  case named =>
    have named : ∀ fn, fn ≠ 2 → el (after fn) 32 = BitVec.ofNat 32 (bankOp fn fac.toNat (el l 32).toNat (el d 32).toNat) := fun fn hfn =>
      (words fn hfn hi).trans (if_pos on)
    exact ⟨(named 0 (by decide)).trans (bankOp_add ..), named 1 (by decide), (named 3 (by decide)).trans (bankOp_min ..),
      (named 4 (by decide)).trans (bankOp_max ..), named 5 (by decide), named 6 (by decide), named 7 (by decide)⟩
  case namedHalf => exact (halves hi).trans (if_pos on)
  case kept =>
    have hne : fn ≠ 2 := fun e => absurd (e ▸ hfn) (by decide)
    rw [words fn hne hi, off]
    rfl
  case keptHalf =>
    rw [halves hi, off]
    rfl

end Sys2Proof.Proofs
end

section
/-!
PROOFS. Tasks and migration (family 09; R206 to R209): what an instruction that stays leaves, a publish with nothing queued, how a place is given up, how a
task's end is counted, and what ANCHOR, MOBILE, YIELD, MIGRATE and EXIT do.
-/

namespace Sys2Proof.Machine

/-! What a frame keeps, field by field -/

/-- A part of the state that `rest` holds is the same where the rest is. -/
theorem State.eq_of_rest {α : Type} {s t : State} (g : State → α) (h : t.rest = s.rest) (hg : ∀ u, g u = g u.rest := by intro _; rfl) :
    g t = g s := by
  rw [hg t, h, ← hg s]

theorem Keeps.phasecnt {s t : State} (k : Keeps s t) (p : Nat) : (t.core p).phasecnt = (s.core p).phasecnt := by
  simpa [Core.rest] using congrArg Core.phasecnt (k.cores p)

theorem Keeps.monitors {s t : State} (k : Keeps s t) (q : Nat) : (t.quay q).monitors = (s.quay q).monitors := by
  simpa [Quay.rest] using congrArg Quay.monitors (k.quays q)

theorem Keeps.isPaired {s t : State} (k : Keeps s t) (p : Nat) : t.isPaired p = s.isPaired p := by
  simp [State.isPaired, k.gang]

/-- What is queued for a publish, and whether the core is paired, is no part of what an instruction may change. -/
theorem Keeps.flushed {s t : State} (k : Keeps s t) (f : Flushed s) : Flushed t := by
  obtain ⟨⟨pq, pubs⟩, ⟨quay, die, pkg⟩, unpaired⟩ := f
  have core := k.cores s.here
  refine ⟨?_, ⟨fun q => ?_, fun d => ?_, ?_⟩, ?_⟩
  · rw [k.here]
    simp only [Core.rest, Core.mk.injEq] at core
    simp [core, pq, pubs]
  · simpa [Quay.rest, quay q] using congrArg Quay.merge (k.quays q)
  · exact (State.eq_of_rest (fun u => (u.die d).merge) k.rest).trans (die d)
  · exact (State.eq_of_rest State.pkgMerge k.rest).trans pkg
  · rw [k.here, k.isPaired, unpaired]

/-! Parts of an instruction that leave the current slot as it is -/

theorem Stays.noteIssue (s : State) (l : Loc) : Stays s (s.noteIssue l) := ⟨Keeps.noteIssue s l, by simp [State.curSlot]⟩

theorem Stays.countInstr (s : State) (p : Nat) : Stays s (s.countInstr p) := ⟨Keeps.countInstr s p, by simp [State.curSlot]⟩

theorem Stays.thread {s t : State} (k : Stays s t) : t.thread = s.thread := congrArg Slot.th k.slot

theorem Stays.slots {s t : State} (k : Stays s t) (l : Loc) : t.slot l = s.slot l := by
  by_cases e : l = s.cur
  · have same : t.slot t.cur = s.slot s.cur := k.slot
    rw [e, ← same, k.keeps.cur]
  · exact k.keeps.places l e

/-- With no window open there is none to close (R21). -/
theorem closeAll_of_no_windows {s : State} {th : Thread} (ht : s.thread = some th) (hw : s.curSlot.wins = []) :
    ∃ t, s.closeAll s.cur = some t ∧ Stays s t := by
  have held : (s.slot s.cur).th.isSome = true := by rw [show (s.slot s.cur).th = some th from ht]; rfl
  have shut : (s.slot s.cur).wins = [] := hw
  refine ⟨s.setSlot s.cur { s.slot s.cur with wins := [] }, ?_, Keeps.setSlot s _, ?_⟩
  · simp [State.closeAll, State.closeFirst, State.gatesLate, shut]
  · simp [State.curSlot, State.setSlot_slot_same _ _ _ held, ← shut]

/-- An instruction that is alone in its interval goes on at once on a core that is not paired (R158, R413). -/
theorem aloneM_of_unpaired {s : State} (h : s.isPaired s.here = false) : aloneM s = .ok ((), s) := by
  simp [aloneM, State.intervalOpen, State.endsInterval, h]

/-! A repetition capture dropped -/

theorem State.dropRep_core (s : State) (p : Nat) (k : TaskId) (n : Nat) : ∃ r, (s.dropRep p k).core n = { s.core n with rpt := r } := by
  rw [State.dropRep, State.updCore_core]
  split
  · rename_i e
    rw [e]
    split
    · exact ⟨_, rfl⟩
    · exact ⟨_, rfl⟩
  · exact ⟨_, rfl⟩

@[simp] theorem State.dropRep_slot (s : State) (p : Nat) (k : TaskId) (l : Loc) : (s.dropRep p k).slot l = s.slot l :=
  State.slot_of_slots l (fun n => by obtain ⟨r, h⟩ := s.dropRep_core p k n; rw [h]) fun _ => rfl

@[simp] theorem State.dropRep_phasecnt (s : State) (p : Nat) (k : TaskId) (n : Nat) : ((s.dropRep p k).core n).phasecnt = (s.core n).phasecnt := by
  obtain ⟨r, h⟩ := s.dropRep_core p k n
  rw [h]

theorem Flushed.dropRep {s : State} (f : Flushed s) (p : Nat) (k : TaskId) : Flushed (s.dropRep p k) := by
  obtain ⟨queue, merge, unpaired⟩ := f
  obtain ⟨r, core⟩ := s.dropRep_core p k s.here
  exact ⟨by rw [show (s.dropRep p k).here = s.here from rfl, core]; exact queue, merge, unpaired⟩

/-! A publish with nothing queued -/

theorem State.gates_of_unpaired {s : State} {p : Nat} (h : s.isPaired p = false) : s.gates p = false := by
  simp [State.gates, h]

/-- Where no merge buffer holds a line, nothing is carried on from one (R231). -/
theorem State.pushFrom_of_empty {s : State} (hq : ∀ q, (s.quay q).merge = []) (hd : ∀ d, (s.die d).merge = []) (hp : s.pkgMerge = [])
    (q core scope : Nat) : s.pushFrom q core scope = s := by
  simp [State.pushFrom, hq, hd, hp, linesOf]

/-- A publish with nothing queued only counts its boundary (R231, R237). -/
theorem Flushed.publishB {s : State} (f : Flushed s) (scope : Nat) :
    s.publishB s.here scope = (s.updCore s.here fun c => { c with pq := [], pubs := [] }).countPhase s.here 1 := by
  obtain ⟨⟨pq, pubs⟩, ⟨quay, die, pkg⟩, unpaired⟩ := f
  rw [State.publishB, State.publish, State.gates_of_unpaired unpaired]
  simp only [Bool.false_eq_true, if_false, State.publishNow, pq, pubs, scopesOf, List.map_nil, State.carry, List.foldl_nil]
  rw [State.pushEarlier, State.pushFrom_of_empty (s := s.updCore s.here fun c => { c with pq := [], pubs := [] }) quay die pkg]

theorem Flushed.publishB_rest {s : State} (f : Flushed s) (scope : Nat) : (s.publishB s.here scope).rest = s.rest := by
  rw [f.publishB]
  rfl

theorem Flushed.publishB_quay {s : State} (f : Flushed s) (scope q : Nat) : (s.publishB s.here scope).quay q = s.quay q := by
  rw [f.publishB]
  rfl

theorem Flushed.publishB_slot {s : State} (f : Flushed s) (scope : Nat) (l : Loc) : (s.publishB s.here scope).slot l = s.slot l := by
  rw [f.publishB]
  exact (State.updCore_slot _ _ _ (by intro _; rfl) l).trans (State.updCore_slot _ _ _ (by intro _; rfl) l)

theorem Flushed.publishB_phasecnt {s : State} (f : Flushed s) (scope : Nat) :
    ((s.publishB s.here scope).core s.here).phasecnt = (s.core s.here).phasecnt + 1 := by
  simp [f.publishB, State.countPhase]

/-! A place given up (R13) -/

theorem State.emptySlot_slot_same (s : State) (l : Loc) (h : (s.slot l).th.isSome = true) : (s.emptySlot l).slot l = {} := by
  rw [State.emptySlot]
  split
  · rename_i v
    unfold State.slot at *
    rw [if_pos v] at *
    simp [Quay.svcAt, setNth_get_same _ _ _ (svcAt_isSome h)]
  · exact State.setSlot_slot_same s l {} h

theorem State.emptySlot_slot_other (s : State) {l m : Loc} (h : m ≠ l) : (s.emptySlot l).slot m = s.slot m := by
  obtain ⟨v, u, i⟩ := l
  cases v with
  | false => exact State.setSlot_slot_other s {} h
  | true =>
    obtain ⟨w, y, j⟩ := m
    cases w with
    | false => rfl
    | true =>
      have apart : y = u → j ≠ i := fun e g => h (by rw [e, g])
      simp only [State.slot, State.emptySlot, if_true, State.updQuay_quay]
      split
      · rename_i e
        simp [Quay.svcAt, setNth_get_other _ (apart e), e]
      · rfl

theorem Keeps.emptySlot (s : State) : Keeps s (s.emptySlot s.cur) := by
  have places : ∀ l, l ≠ s.cur → (s.emptySlot s.cur).slot l = s.slot l := fun l hl => State.emptySlot_slot_other s hl
  rw [State.emptySlot] at *
  split
  · rename_i v
    rw [if_pos v] at places
    refine ⟨rfl, fun _ => rfl, fun n => ?_, places⟩
    rw [State.updQuay_quay]
    split
    · rename_i e
      rw [e]
      rfl
    · rfl
  · exact Keeps.setSlot s {}

/-! The departure of a context (R195) -/

/-- What a departing context leaves: its repetition capture is dropped, what it has published is on its way, and its place is free. -/
def State.vacated (s : State) (th : Thread) (scope : Nat) : State := ((s.dropRep s.here th.task).publishB s.here scope).emptySlot s.cur

/-- The place is free, and with nothing queued the core counts one boundary; the package, its other places included, is the same. -/
theorem Flushed.vacated {s : State} (f : Flushed s) (th : Thread) (scope : Nat) (held : (s.slot s.cur).th.isSome = true) :
    (s.vacated th scope).rest = s.rest ∧ (s.vacated th scope).slot s.cur = {} ∧ (∀ l, l ≠ s.cur → (s.vacated th scope).slot l = s.slot l) ∧
      ((s.vacated th scope).core s.here).phasecnt = (s.core s.here).phasecnt + 1 := by
  have dropped := f.dropRep s.here th.task
  let u := (s.dropRep s.here th.task).publishB s.here scope
  have rest : u.rest = s.rest := dropped.publishB_rest scope
  have slot : ∀ l, u.slot l = s.slot l := fun l => (dropped.publishB_slot scope l).trans (State.dropRep_slot ..)
  have phase : (u.core s.here).phasecnt = (s.core s.here).phasecnt + 1 := by
    rw [← s.dropRep_phasecnt s.here th.task]
    exact dropped.publishB_phasecnt scope
  have left : Keeps u (u.emptySlot s.cur) := State.eq_of_rest State.cur rest ▸ Keeps.emptySlot u
  exact ⟨left.rest.trans rest, State.emptySlot_slot_same u s.cur (by rw [slot, held]),
    fun l hl => (State.emptySlot_slot_other u hl).trans (slot l), (left.phasecnt _).trans phase⟩

/-- A core that is not paired sends at once (R416). -/
theorem State.send_of_unpaired {s : State} {p : Nat} (h : s.isPaired p = false) (ctx origin rank : Nat) (k : PKind) :
    s.send p ctx origin rank k = { s with net := s.net ++ [
      { src := p, origin := origin, ctx := ctx, gen := (s.ctx ctx).gen, colour := s.colour ctx (.core p), rank := rank, marker := none, kind := k
        cycle := s.cycle }] } := by
  simp [State.send, State.sendFrom, State.sendAs, State.put, State.gates_of_unpaired h]

/-- With nothing queued a departing context goes on the network as one packet, and its place is free. -/
theorem Stays.depart {s u : State} (k : Stays s u) (f : Flushed s) (th : Thread) (held : (s.slot s.cur).th.isSome = true) (kind dest : Nat) (pc : Word) :
    let t := u.depart s.cur th kind dest pc
    ∃ p, t.slot s.cur = {} ∧ t.net = s.net ++ [p] ∧ p.ctx = th.ctx ∧ p.rank = dest ∧ p.gen = (s.ctx th.ctx).gen ∧
      p.kind = .context kind { th with pc := pc, rank := dest } ∧ t.mem = s.mem ∧
      (t.core s.here).phasecnt = (s.core s.here).phasecnt + 1 ∧ ∀ l, l ≠ s.cur → t.slot l = s.slot l := by
  obtain ⟨rest', here, places, phase⟩ := (k.keeps.flushed f).vacated th (scopeTo u.here ((u.ctx th.ctx).rank dest).phys)
    (by rw [k.slots, k.keeps.cur, held])
  have rest := rest'.trans k.keeps.rest
  have unpaired := (State.eq_of_rest (State.isPaired · s.here) rest).trans f.unpaired
  have mem := State.eq_of_rest State.mem rest
  have net := State.eq_of_rest State.net rest
  have gen := State.eq_of_rest (fun u => (u.ctx th.ctx).gen) rest
  rw [← k.keeps.here] at unpaired ⊢
  rw [← k.keeps.cur]
  rw [k.keeps.phasecnt] at phase
  intro t
  have sent : t = _ := State.send_of_unpaired unpaired ..
  rw [sent]
  exact ⟨_, here, congrArg (· ++ _) net, rfl, rfl, gen, rfl, mem, phase, fun l hl => (places l hl).trans (k.slots l)⟩

/-! The end of a task (R206) -/

@[simp] theorem State.freeMonitors_slot (s : State) (ctx : Nat) (k : TaskId) (l : Loc) : (s.freeMonitors ctx k).slot l = s.slot l := by
  refine State.slot_of_slots l (fun _ => rfl) fun n => ?_
  simp only [State.freeMonitors, State.quay]
  rw [Tab.get_mapVals _ _ _ _ rfl]

theorem State.freeMonitors_monitors (s : State) (ctx : Nat) (k : TaskId) (q : Nat) :
    ((s.freeMonitors ctx k).quay q).monitors = (s.quay q).monitors.filter fun m => !(m.ctx == ctx && m.task == k) := by
  simp only [State.freeMonitors, State.quay]
  rw [Tab.get_mapVals _ _ _ _ rfl]

/-- A task that holds no part of a gang leaves its place, its captures and its monitors. -/
theorem State.leaveTask_of_unjoined {s : State} {l : Loc} {th : Thread} (h : th.array = false ∨ s.isJoined (s.sliceCore l th) = false) :
    s.leaveTask l th
      = (((s.emptySlot l).dropRep (locCore l) th.task).dropRep ((s.ctx th.ctx).rank th.rank).phys th.task).freeMonitors th.ctx th.task := by
  have alone : (if th.array then s.abandonGang (s.sliceCore l th) else s) = s := by
    cases h with
    | inl denied => simp [denied]
    | inr apart =>
      unfold State.isJoined at apart
      simp [State.abandonGang, apart]
  rw [State.leaveTask, alone]

/-- Its place is free and its monitors are gone (R189, R206); the package, its other places included, is the same. -/
theorem State.leaveTask_leaves {s : State} {l : Loc} {th : Thread} (hl : s.cur = l) (h : th.array = false ∨ s.isJoined (s.sliceCore l th) = false)
    (held : (s.slot l).th.isSome = true) :
    (s.leaveTask l th).rest = s.rest ∧ (s.leaveTask l th).slot l = {} ∧ (∀ m, m ≠ l → (s.leaveTask l th).slot m = s.slot m) ∧
      ∀ q, ((s.leaveTask l th).quay q).monitors = (s.quay q).monitors.filter fun m => !(m.ctx == th.ctx && m.task == th.task) := by
  have left : Keeps s (s.emptySlot l) := hl ▸ Keeps.emptySlot s
  rw [State.leaveTask_of_unjoined h]
  refine ⟨left.rest, ?_, fun m hm => ?_, fun q => ?_⟩
  · simpa using State.emptySlot_slot_same s l held
  · simpa using State.emptySlot_slot_other s hm
  · rw [State.freeMonitors_monitors, ← left.monitors]
    rfl

/-- A launch changed changes the launches alone. -/
theorem State.updLaunch_eq (s : State) (l : Nat) (f : Launch → Launch) : ∃ ls, s.updLaunch l f = { s with launches := ls } := by
  unfold State.updLaunch
  split
  · exact ⟨s.launches, rfl⟩
  · exact ⟨_, rfl⟩

/-- What does not read the launches is the same after one of them is changed. -/
theorem State.updLaunch_keeps {α : Type} (g : State → α) (s : State) (l : Nat) (f : Launch → Launch)
    (hg : ∀ (u : State) ls, g { u with launches := ls } = g u := by intro _ _; rfl) : g (s.updLaunch l f) = g s := by
  obtain ⟨ls, e⟩ := s.updLaunch_eq l f
  rw [e, hg]

theorem State.updLaunch_launch_same {s : State} {l : Nat} {x : Launch} (f : Launch → Launch) (h : Tab.find l s.launches = some x) :
    (s.updLaunch l f).launch l = f x := by
  simp [State.updLaunch, h, State.launch]

/-- The launch's account of an exited task. -/
def Launch.countExit (x : Launch) (taskid : Word) : Launch :=
  { x with live := x.live.filter fun k => k.taskid != taskid, exited := x.exited + 1 }

/-- With no snapshot being recorded the front end counts an exit at its launch, and that is all (R206, R390). -/
theorem State.countEnd_of_unrecorded {s : State} {ctx : Nat} (h : (s.job (s.ctx ctx).job).recording = none) (k : TaskId) (new : Bool) :
    s.countEnd ctx k new .exited = s.updLaunch k.launch fun x => x.countExit k.taskid := by
  simp [State.countEnd, State.tellFront, h, State.taskDone, Launch.countExit]

/-- The front end of a die counts an exit at once: it has handled no event in the cycle, and no exit waits (R283). -/
def State.countsExit (s : State) (d : Nat) : Prop := (s.die d).feAt ≠ some s.cycle ∧ (s.die d).exits = []

theorem State.countsExit_iff (s : State) (d : Nat) : (s.feFree d && (s.die d).exits.isEmpty) = true ↔ s.countsExit d := by
  simp [State.countsExit, State.feFree]

/-- EXIT with such a front end: its event of the cycle is this one (R206, R283). -/
theorem State.exitTask_of_counts {s : State} (th : Thread) (h : s.countsExit (dieOf s.here)) :
    s.exitTask s.cur th = ((s.feTakes (dieOf s.here)).leaveTask s.cur th).countEnd th.ctx th.task (s.hasRecorded th.ctx (locAgent s.cur)) .exited :=
  if_pos ((s.countsExit_iff _).mpr h)

/-- EXIT with any other: a note of it waits. -/
theorem State.exitTask_of_busy {s : State} (th : Thread) (h : ¬ s.countsExit (dieOf s.here)) :
    s.exitTask s.cur th = (s.leaveTask s.cur th).updDie (dieOf s.here) fun x =>
      { x with exits := x.exits ++ [{ ctx := th.ctx, task := th.task, new := s.hasRecorded th.ctx (locAgent s.cur) }] } :=
  if_neg (mt (s.countsExit_iff _).mp h)

/-- What the end of a task by EXIT leaves: its place free, its monitors gone, and its launch's account with the front end of the die where that is free, else
a note of it there; memory, the network and every other place are the same (R206, R283). -/
structure Exited (s t : State) (th : Thread) : Prop where
  slot : t.slot s.cur = {}
  mem : t.mem = s.mem
  net : t.net = s.net
  monitors : ∀ q, (t.quay q).monitors = (s.quay q).monitors.filter fun m => !(m.ctx == th.ctx && m.task == th.task)
  busy : ¬ s.countsExit (dieOf s.here) →
    t.launches = s.launches ∧ (t.die (dieOf s.here)).exits = (s.die (dieOf s.here)).exits ++ [{ ctx := th.ctx, task := th.task, new := false }]
  counted : s.countsExit (dieOf s.here) → ∀ x, Tab.find th.launch s.launches = some x → t.launch th.launch = x.countExit th.taskid
  places : ∀ l, l ≠ s.cur → t.slot l = s.slot l

/-- EXIT with no snapshot being recorded, by a task that holds no part of a gang. -/
theorem State.exitTask_exited {s : State} {th : Thread} (apart : th.array = false ∨ s.isJoined (s.sliceCore s.cur th) = false)
    (held : (s.slot s.cur).th.isSome = true) (hrec : (s.job (s.ctx th.ctx).job).recording = none) : Exited s (s.exitTask s.cur th) th := by
  have old : s.hasRecorded th.ctx (locAgent s.cur) = false := by simp [State.hasRecorded, hrec]
  by_cases ready : s.countsExit (dieOf s.here)
  case pos =>
    obtain ⟨rest, slot, places, monitors⟩ := State.leaveTask_leaves (s := s.feTakes (dieOf s.here)) (l := s.cur) rfl apart held
    have unrecorded := (State.eq_of_rest (fun u => (u.job (u.ctx th.ctx).job).recording) rest).trans hrec
    have mem := State.eq_of_rest State.mem rest
    have net := State.eq_of_rest State.net rest
    have launches := State.eq_of_rest State.launches rest
    rw [State.exitTask_of_counts th ready, State.countEnd_of_unrecorded unrecorded]
    exact {
      slot := (State.updLaunch_keeps (State.slot · s.cur) ..).trans slot
      mem := (State.updLaunch_keeps State.mem ..).trans mem
      net := (State.updLaunch_keeps State.net ..).trans net
      monitors := fun q => (State.updLaunch_keeps (fun u => (u.quay q).monitors) ..).trans (monitors q)
      busy := fun no => absurd ready no
      counted := fun _ x hx => State.updLaunch_launch_same _ ((congrArg (Tab.find th.launch) launches).trans hx)
      places := fun l hl => (State.updLaunch_keeps (State.slot · l) ..).trans (places l hl) }
  case neg =>
    obtain ⟨rest, slot, places, monitors⟩ := State.leaveTask_leaves rfl apart held
    have mem := State.eq_of_rest State.mem rest
    have net := State.eq_of_rest State.net rest
    have launches := State.eq_of_rest State.launches rest
    have exits := State.eq_of_rest (fun u => (u.die (dieOf s.here)).exits) rest
    rw [State.exitTask_of_busy th ready, old]
    exact {
      slot := slot
      mem := mem
      net := net
      monitors := monitors
      busy := fun _ => ⟨launches, by rw [State.updDie_die_same]; exact congrArg (· ++ _) exits⟩
      counted := fun yes => absurd yes ready
      places := places }

/-- As `Exited`, from a state that differs in what a core queues and counts alone. -/
theorem Exited.of_rest {s u t : State} {th : Thread} (e : Exited u t th) (rest : u.rest = s.rest) (slots : ∀ l, u.slot l = s.slot l)
    (monitors : ∀ q, (u.quay q).monitors = (s.quay q).monitors) : Exited s t th := by
  have cur : u.cur = s.cur := State.eq_of_rest State.cur rest
  have here : u.here = s.here := congrArg locCore cur
  have launches : u.launches = s.launches := State.eq_of_rest State.launches rest
  have exits : (u.die (dieOf s.here)).exits = (s.die (dieOf s.here)).exits := State.eq_of_rest (fun u => (u.die _).exits) rest
  have counts : u.countsExit (dieOf s.here) = s.countsExit (dieOf s.here) := State.eq_of_rest (State.countsExit · _) rest
  exact {
    slot := cur ▸ e.slot
    mem := e.mem.trans (State.eq_of_rest State.mem rest)
    net := e.net.trans (State.eq_of_rest State.net rest)
    monitors := fun q => by rw [e.monitors, monitors]
    busy := by rw [← counts, ← launches, ← exits, ← here]; exact e.busy
    counted := by rw [← counts, ← launches, ← here]; exact e.counted
    places := fun l hl => (e.places l (cur ▸ hl)).trans (slots l) }

/-! What the instructions do -/

/-- A predicate written and the PC moved, in either order. -/
theorem Thread.setP_pc (t : Thread) (i : Nat) (b : Bool) (a : Word) : { t.setP i b with pc := a } = { t with pc := a }.setP i b := by
  unfold Thread.setP
  split
  · rfl
  · rfl

theorem Thread.fixedHere_iff (t : Thread) : t.fixedHere = true ↔ t.vq ≠ 0 ∨ t.array = true := by simp [Thread.fixedHere]

theorem Thread.migrates_eq_false_iff (t : Thread) : t.migrates = false ↔ t.anchored = true ∨ t.svc = true := by
  rw [Thread.migrates, Bool.and_eq_false_iff, Bool.not_eq_false', Bool.not_eq_false']

/-- The base of an operand that takes no immediate. -/
theorem src_eq_baseOf (f : SF) (th : Thread) : src th f.a = baseOf th f.a := srcA_eq_baseOf f th

/-- A thread outside the service slots has its slice where it stands, and an instruction joins no core (R141). -/
theorem unjoined_of_rest {s u : State} {th : Thread} (rest : u.rest = s.rest) (apart : th.array = false ∨ (th.svc = false ∧ s.isJoined s.here = false)) :
    th.array = false ∨ u.isJoined (u.sliceCore s.cur th) = false :=
  apart.imp_right fun ⟨task, free⟩ => by
    rw [State.sliceCore, task]
    exact (State.eq_of_rest (State.isJoined · s.here) rest).trans free

theorem State.retire_yielded {s : State} {th : Thread} (h : s.thread = some th) (pc : Word) (w : Option Window) :
    (s.retire s.cur pc w).curSlot.yielded = s.curSlot.yielded := by
  have held : (s.slot s.cur).th = some th := h
  rw [State.curSlot, State.retire_cur, State.retire_slot s s.cur pc w (by rw [held]; rfl)]
  rfl

/-- YIELD's mark on the current slot, where the run queue of a barrel's core holds a context (R207). -/
def State.markYield (s : State) : State :=
  if s.cur.svc || (s.core s.here).queue.isEmpty then s else s.setSlot s.cur { s.curSlot with yielded := true }

theorem Keeps.markYield (s : State) : Keeps s s.markYield := by
  unfold State.markYield
  split
  · exact Keeps.refl s
  · exact Keeps.setSlot s _

theorem State.markYield_slot {s : State} (held : (s.slot s.cur).th.isSome = true) :
    s.markYield.curSlot = { s.curSlot with yielded := s.curSlot.yielded || (!s.cur.svc && !(s.core s.here).queue.isEmpty) } := by
  unfold State.markYield
  split
  · rename_i stays
    rw [← Bool.not_or, stays, Bool.not_true, Bool.or_false]
  · rename_i leaves
    rw [← Bool.not_or, Bool.eq_false_iff.mpr leaves, Bool.not_false, Bool.or_true, State.curSlot, State.setSlot_cur,
      State.setSlot_slot_same s s.cur _ held]

section
variable {s : State} {th : Thread} {h : Hdr} (f : SF) (r : Runs s th h)
include r

/-- An instruction whose body only changes the thread. -/
theorem issue_updThread {i : Instr} {maj fn : Nat} {body : Thread → M Unit} {g : Thread → Thread} (hb : body th s = .ok ((), s.updThread g)) :
    Goes s { g th with pc := th.after 8 } (issue i h maj fn 8 s body) := by
  rw [issue_ok r hb]
  exact Goes.retire _ (Keeps.updThread s g) (State.updThread_thread s g r.thread)

theorem execAnchor_goes : Goes s { th.setMode true with pc := th.after 8 } (execAnchor h f s) :=
  issue_updThread r (g := fun t => t.setMode true) (run_modS _ s)

/-- A task with V registers or array access stays anchored (R194, R209). -/
theorem execMobile_fixed (fixed : th.fixedHere = true) :
    Goes s (({ th with pc := th.after 8 } : Thread).setP f.d.toNat false) (execMobile h f s) := by
  rw [← Thread.setP_pc]
  exact issue_updThread r (g := fun t => t.setP f.d.toNat false) (by simp [fixed])

theorem execMobile_free (free : th.fixedHere = false) :
    Goes s ((({ th with pc := th.after 8 } : Thread).setMode false).setP f.d.toNat true) (execMobile h f s) := by
  have moved : Goes s { (th.setMode false).setP f.d.toNat true with pc := th.after 8 } (execMobile h f s) :=
    issue_updThread r (g := fun t => (t.setMode false).setP f.d.toNat true) (by simp [free])
  rw [Thread.setP_pc] at moved
  exact moved

/-- YIELD goes on with its slot marked. -/
theorem execYield_marks :
    ∃ t, execYield h f s = .next t ∧ t.thread = some { th with pc := th.after 8 } ∧ Keeps s t ∧
      t.curSlot.yielded = (s.curSlot.yielded || (!s.cur.svc && !(s.core s.here).queue.isEmpty)) := by
  have k := Keeps.markYield s
  have slot := State.markYield_slot r.isSome
  have held : s.markYield.thread = some th := (congrArg Slot.th slot).trans r.thread
  have ran : execYield h f s = .next (s.markYield.retire s.cur (th.after 8) none) := issue_ok r (run_modS _ s)
  refine ⟨_, ran, ?_, ?_, ?_⟩
  · exact k.cur ▸ State.retire_thread _ _ none held
  · exact k.trans (k.cur ▸ Keeps.retire _ _ none)
  · have kept := State.retire_yielded held (th.after 8) none
    rw [k.cur, slot] at kept
    exact kept

section
variable (unpoisoned : (baseOf th f.a).p = false)
include unpoisoned

/-- An anchored thread, or one in a service slot, may not migrate (R208). -/
theorem execMigrate_denied (fixed : th.migrates = false) : execMigrate h f s = .next (s.trapEnter s.cur 0x0B (baseOf th f.a).v) :=
  issue_trap r (by simp [src_eq_baseOf, unpoisoned, fixed, cMIGRATE_DENIED])

variable {e : RankEntry} (mobile : th.migrates = true) (small : (baseOf th f.a).v.toNat < 16777216)
  (entry : (s.ctx th.ctx).rank (baseOf th f.a).v.toNat = e)
include mobile small entry

/-- An ACTIVE rank of another core that takes no contexts refuses. -/
theorem execMigrate_refused (away : e.phys ≠ s.here) (active : e.state = 1) (shut : e.immig = false) :
    execMigrate h f s = .next (s.trapEnter s.cur 0x0B (baseOf th f.a).v) :=
  issue_trap r (by simp [src_eq_baseOf, unpoisoned, mobile, Nat.mod_eq_of_lt small, entry, away, active, shut, cMIGRATE_DENIED])

variable (listed : e.state ≠ 0)
include listed

/-- MIGRATE to the core that the thread stands on goes on. -/
theorem execMigrate_here (own : e.phys = s.here) : Goes s { th with pc := th.after 8 } (execMigrate h f s) := by
  have ran : execMigrate h f s = .next (s.retire s.cur (th.after 8) none) :=
    issue_ok r (by simp [src_eq_baseOf, unpoisoned, mobile, Nat.mod_eq_of_lt small, small, entry, listed, own])
  rw [ran]
  exact Goes.retire _ (Keeps.refl s) r.thread

/-- MIGRATE to another core departs, and its instruction counts as issued here. -/
theorem execMigrate_away (away : e.phys ≠ s.here) (takes : e.state = 1 → e.immig = true) (hw : s.curSlot.wins = []) :
    ∃ u, Stays s u ∧ execMigrate h f s = .next (u.depart s.cur th 1 (baseOf th f.a).v.toNat (th.after 8)) := by
  obtain ⟨t, closed, k⟩ := closeAll_of_no_windows r.thread hw
  have held := k.thread.trans r.thread
  have admits := Decidable.imp_iff_not_or.mp takes
  refine ⟨(t.noteIssue t.cur).countInstr (t.noteIssue t.cur).here, k.trans ((Stays.noteIssue t t.cur).trans (Stays.countInstr _ _)), issue_gone r ?_⟩
  simp [src_eq_baseOf, unpoisoned, mobile, Nat.mod_eq_of_lt small, small, entry, listed, away, admits, departM, closed, held, k.keeps.cur]

end

/-- EXIT ends the task behind what it has published (R206). -/
theorem execExitI_exited (hw : s.curSlot.wins = []) (flushed : Flushed s) (apart : th.array = false ∨ (th.svc = false ∧ s.isJoined s.here = false))
    (unrecorded : (s.job (s.ctx th.ctx).job).recording = none) : ∃ t, execExitI h f s = .next t ∧ Exited s t th := by
  obtain ⟨t, closed, k⟩ := closeAll_of_no_windows r.thread hw
  have held := k.thread.trans r.thread
  have issued := k.trans ((Stays.noteIssue t t.cur).trans (Stays.countInstr _ t.here))
  let u := (t.noteIssue t.cur).countInstr t.here
  let v := u.publishB u.here th.scope
  have here : u.here = t.here := issued.keeps.here.trans k.keeps.here.symm
  have ran : execExitI h f s = .next (v.exitTask u.cur th) := by
    have alone := unjoined_of_rest issued.keeps.rest apart
    rw [← issued.keeps.cur] at alone
    refine issue_gone r ?_
    simp only [run_bind, aloneM_of_unpaired flushed.unpaired, run_getS, closed, held, Bool.and_eq_false_iff.mpr alone, Bool.false_eq_true, if_false,
      run_setS, run_goneM]
    exact congrArg (fun p => Except.error (Stop.gone ((u.publishB p th.scope).exitTask u.cur th))) here.symm
  have queue := issued.keeps.flushed flushed
  have rest : v.rest = s.rest := (queue.publishB_rest th.scope).trans issued.keeps.rest
  have slots : ∀ l, v.slot l = s.slot l := fun l => (queue.publishB_slot th.scope l).trans (issued.slots l)
  have monitors : ∀ q, (v.quay q).monitors = (s.quay q).monitors := fun q =>
    (congrArg Quay.monitors (queue.publishB_quay th.scope q)).trans (issued.keeps.monitors q)
  have cur : v.cur = s.cur := State.eq_of_rest State.cur rest
  have ended : Exited v (v.exitTask v.cur th) th :=
    State.exitTask_exited (by rw [cur]; exact unjoined_of_rest rest apart) (by rw [cur, slots, r.isSome])
      ((State.eq_of_rest (fun u => (u.job (u.ctx th.ctx).job).recording) rest).trans unrecorded)
  rw [cur, ← issued.keeps.cur] at ended
  exact ⟨_, ran, ended.of_rest rest slots monitors⟩

end

end Sys2Proof.Machine

namespace Sys2Proof.Proofs

open Sys2Proof.Machine

/-- Settles O44: ANCHOR and MOBILE change the thread alone, YIELD marks its slot, MIGRATE stays, traps or departs as the rank's entry says, and EXIT frees
the place and is counted by the front end at once or noted there. -/
theorem taskControl : Obligations.TaskControl := by
  intro s th h f r next c v e
  refine ⟨execAnchor_goes f r, fun vq arr => execMobile_free f r (by simp [Thread.fixedHere, vq, arr]),
    fun fix => execMobile_fixed f r (th.fixedHere_iff.mpr fix), execYield_marks f r,
    fun unpoisoned => ⟨fun fix => execMigrate_denied f r unpoisoned (th.migrates_eq_false_iff.mpr fix), fun task svc small listed => ?migrate⟩,
    fun hw flushed apart unrecorded => ?exit⟩
  case migrate =>
    have mobile : th.migrates = true := by simp [Thread.migrates, task, svc]
    refine ⟨execMigrate_here f r unpoisoned mobile small rfl listed, execMigrate_refused f r unpoisoned mobile small rfl, fun away takes hw flushed => ?_⟩
    obtain ⟨u, k, ran⟩ := execMigrate_away f r unpoisoned mobile small rfl listed away takes hw
    obtain ⟨p, departed⟩ := k.depart flushed th r.isSome 1 v.toNat (th.after 8)
    exact ⟨_, p, ran, departed⟩
  case exit =>
    obtain ⟨t, ran, slot, mem, net, monitors, busy, counted, places⟩ := execExitI_exited f r hw flushed apart unrecorded
    exact ⟨t, ran, slot, mem, net, monitors, busy, fun x counts found => by rw [counted counts x found]; exact ⟨rfl, rfl⟩, places⟩

end Sys2Proof.Proofs
end

section
/-!
PROOFS. Berth configuration (family 10; R211, R222 to R224, R226): the limits of a configuration word, the fields of the status word, the channel packets
that wait for a slot as their berth is configured anew, and what BCFG, BREAD and BCLR leave.
-/

namespace Sys2Proof.Machine

/-! The configuration word (R223) -/

/-- The limits of R223, kind by kind. -/
def LegalConfig (w : Word) : Prop :=
  let part := fun (hi lo : Nat) => bits hi lo w.toNat
  (part 63 62 = 0 ∧ w = 0) ∨
  (part 63 62 = 1 ∧ part 40 37 ≤ 13 ∧ part 36 35 = 0 ∧ 16 * part 61 48 + 2 ^ part 40 37 * (16 + 16 * (part 47 41 + 1)) ≤ 2 ^ 18) ∨
  (part 63 62 = 2 ∧ part 61 39 = 0 ∧ part 38 35 ≤ 13) ∨
  (part 63 62 = 3 ∧ part 61 50 = 0 ∧ part 37 36 = 0 ∧ part 43 38 ≤ 32 ∧ 1 ≤ part 49 44 + part 43 38 ∧ (part 35 35 = 1 → part 34 0 = 0))

/-- A word whose two highest bits are zero is zero where its others are. -/
theorem plainConfig_eq_zero_iff {w : Word} (plain : bits 63 62 w.toNat = 0) : bits 61 0 w.toNat = 0 ↔ w = 0 := by
  have small := w.isLt
  rw [← BitVec.toNat_inj]
  simp only [bits] at plain ⊢
  simp only [BitVec.ofNat_eq_ofNat, BitVec.toNat_ofNat]
  omega

theorem bit_eq_true_iff (i n : Nat) : bit i n = true ↔ bits i i n = 1 := by
  simp [bit, bits]

theorem cfgOk_iff (w : Word) : cfgOk w = true ↔ LegalConfig w := by
  have kinds : bits 63 62 w.toNat < 4 := Nat.mod_lt _ (by decide)
  obtain plain | slot | allow | barrier : bits 63 62 w.toNat = 0 ∨ bits 63 62 w.toNat = 1 ∨ bits 63 62 w.toNat = 2 ∨ bits 63 62 w.toNat = 3 := by omega
  case inl => simp [cfgOk, LegalConfig, plain, plainConfig_eq_zero_iff plain]
  case inr.inl => simp [cfgOk, LegalConfig, slot, and_assoc]
  case inr.inr.inl => simp [cfgOk, LegalConfig, allow]
  case inr.inr.inr =>
    have root : (bit 35 w.toNat = false ∨ bits 34 0 w.toNat = 0) ↔ (bits 35 35 w.toNat = 1 → bits 34 0 w.toNat = 0) := by
      rw [← bit_eq_true_iff, ← Bool.not_eq_true, Decidable.imp_iff_not_or]
    simp [cfgOk, LegalConfig, barrier, root, and_assoc]

/-! The status word (R224) -/

theorem b2n_le_one (b : Bool) : b2n b ≤ 1 := by cases b <;> decide

/-- A bit of a word made of a number, where it holds a Boolean. -/
theorem getLsbD_ofNat_of_b2n {n i : Nat} {b : Bool} (hi : i < 64) (h : n / 2 ^ i % 2 = b2n b) : (BitVec.ofNat 64 n).getLsbD i = b := by
  rw [BitVec.getLsbD_ofNat, decide_eq_true hi, Bool.true_and, Nat.testBit_eq_decide_div_mod_eq, h]
  cases b <;> rfl

/-- A field of a word made of a number. -/
theorem extractLsb'_ofNat {n v lo w : Nat} (fits : lo + w ≤ 64) (h : n / 2 ^ lo % 2 ^ w = v % 2 ^ w) :
    (BitVec.ofNat 64 n).extractLsb' lo w = BitVec.ofNat w v := by
  refine BitVec.eq_of_toNat_eq ?_
  have : (2 : Nat) ^ 64 = 2 ^ lo * 2 ^ (64 - lo) := by rw [← Nat.pow_add]; congr 1; omega
  rw [BitVec.extractLsb'_toNat, BitVec.toNat_ofNat, BitVec.toNat_ofNat, Nat.shiftRight_eq_div_pow, this, Nat.mod_mul_right_div_self, ← h]
  exact Nat.mod_mod_of_dvd _ (Nat.pow_dvd_pow 2 (by omega))

/-- Each field of a berth stands where R224 puts it, and the reserved bits are zero. -/
theorem Berth.status_fields (x : Berth) :
    x.status.extractLsb' 62 2 = BitVec.ofNat 2 x.kind ∧ x.status.getLsbD 61 = x.ovf ∧ x.status.getLsbD 60 = x.held ∧ x.status.getLsbD 59 = x.pending ∧
      x.status.extractLsb' 56 3 = 0 ∧ x.status.extractLsb' 48 8 = BitVec.ofNat 8 x.gen ∧ x.status.extractLsb' 46 2 = 0 ∧
      x.status.extractLsb' 32 14 = BitVec.ofNat 14 x.ridx ∧ x.status.extractLsb' 0 32 = BitVec.ofNat 32 x.count := by
  have ovf := b2n_le_one x.ovf
  have held := b2n_le_one x.held
  have pending := b2n_le_one x.pending
  refine ⟨extractLsb'_ofNat (by decide) ?_, getLsbD_ofNat_of_b2n (by decide) ?_, getLsbD_ofNat_of_b2n (by decide) ?_, getLsbD_ofNat_of_b2n (by decide) ?_,
    extractLsb'_ofNat (v := 0) (by decide) ?_, extractLsb'_ofNat (by decide) ?_, extractLsb'_ofNat (v := 0) (by decide) ?_,
    extractLsb'_ofNat (by decide) ?_, extractLsb'_ofNat (by decide) ?_⟩ <;> omega

/-! Packets that wait for a slot (R226) -/

/-- The packet goes to a channel berth of a core. -/
def State.channelTo (s : State) (core b : Nat) (p : Packet) : Prop :=
  (∃ len data po sc l, p.kind = .chan b len data po sc l) ∧ ((s.ctx p.ctx).rank p.rank).phys = core

/-- A packet as `doomWaiting` leaves it where the berth's ring is full. -/
def State.doom (s : State) (core b : Nat) (p : Packet) : Packet :=
  match p.kind with
  | .chan b' .. => if b' = b ∧ ((s.ctx p.ctx).rank p.rank).phys = core then { p with doomed := true } else p
  | _ => p

theorem State.doom_of_channelTo {s : State} {core b : Nat} {p : Packet} (h : s.channelTo core b p) : s.doom core b p = { p with doomed := true } := by
  obtain ⟨⟨len, data, po, sc, l, kind⟩, phys⟩ := h
  simp [State.doom, kind, phys]

theorem State.doom_of_not_channelTo {s : State} {core b : Nat} {p : Packet} (h : ¬ s.channelTo core b p) : s.doom core b p = p := by
  unfold State.doom
  split
  · next b' len data po sc l kind =>
    refine if_neg fun ⟨berth, phys⟩ => h ⟨⟨len, data, po, sc, l, ?_⟩, phys⟩
    rw [kind, berth]
  · rfl

/-- Of the packets on the network a configuration marks those that wait for a slot of the berth's full ring, and changes nothing else. -/
theorem State.doomWaiting_marks (s : State) (core b : Nat) :
    let x := (s.core core).berth b
    ∃ ps, s.doomWaiting core b = { s with net := ps } ∧ ps.length = s.net.length ∧
      ∀ (i : Nat) (p : Packet), s.net[i]? = some p → ∃ d, ps[i]? = some ({ p with doomed := d } : Packet) ∧
        (d = true ↔ p.doomed = true ∨ ((x.kind = 1 ∧ x.ringFull = true) ∧ s.channelTo core b p)) := by
  intro x
  by_cases full : x.kind = 1 ∧ x.ringFull = true
  case pos =>
    refine ⟨s.net.map (s.doom core b), if_pos full, List.length_map _, fun i p found => ?_⟩
    rw [List.getElem?_map, found, Option.map_some]
    by_cases waits : s.channelTo core b p
    · exact ⟨true, congrArg some (State.doom_of_channelTo waits), by simp [full, waits]⟩
    · exact ⟨p.doomed, congrArg some (State.doom_of_not_channelTo waits), by simp [waits]⟩
  case neg => exact ⟨s.net, if_neg full, rfl, fun i p found => ⟨p.doomed, found, by simp [full]⟩⟩

/-! The berth that an instruction names (R211) -/

theorem srcImm_eq_baseOf (th : Thread) (a : BitVec 4) : srcImm th 0 a = baseOf th a :=
  src_eq_baseOf { imm := 0, fl := 0, sz := 0, b := 0, a := a, d := 0 } th

section
variable {a : PWord} {off : Nat} (unpoisoned : a.p = false)
include unpoisoned

theorem berthM_in_range (small : (a.v + BitVec.ofNat 64 off).toNat < 2048) (s : State) :
    berthM a off s = .ok ((a.v + BitVec.ofNat 64 off).toNat, s) := by
  simp only [berthM, run_bind, run_cleanUse, unpoisoned, Bool.false_eq_true, if_false, run_require, decide_eq_true small, if_true, run_pure]

theorem berthM_out_of_range (large : 2048 ≤ (a.v + BitVec.ofNat 64 off).toNat) (s : State) :
    berthM a off s = .error (.trap cBERTH_RANGE (a.v + BitVec.ofNat 64 off)) := by
  simp only [berthM, run_bind, run_cleanUse, unpoisoned, Bool.false_eq_true, if_false, run_require, decide_eq_false (Nat.not_lt.mpr large)]

end

/-! One berth changed -/

/-- Berth `b` of a core replaced. -/
def State.setBerth (s : State) (core b : Nat) (y : Berth) : State := s.updCore core fun c => c.updBerth b fun _ => y

theorem SamePlace.setBerth (s : State) (core b : Nat) (y : Berth) : SamePlace s (s.setBerth core b y) :=
  ⟨rfl, State.updCore_slot s core (fun c => c.updBerth b fun _ => y) (fun _ => rfl) s.cur⟩

/-- A short instruction whose body leaves the current place and its slot as they are. -/
theorem issue_goes {i : Instr} {h : Hdr} {maj fn len : Nat} {s t : State} {th : Thread} {body : Thread → M Unit} (r : Runs s th h)
    (hb : body th s = .ok ((), t)) (k : SamePlace s t) : Goes t { th with pc := th.after len } (issue i h maj fn len s body) := by
  rw [issue_ok r hb, ← k.cur]
  exact Goes.retire _ (Keeps.refl t) ((congrArg Slot.th k.slot).trans r.thread)

/-! What the instructions do -/

/-- The berth number that an instruction of major 0x65 names, unchecked (R211, R222). -/
def berthNamed (th : Thread) (f : EF) : Word := (baseOf th f.a).v + BitVec.ofNat 64 (f.tail.toNat % 2048)

section
variable {s : State} {th : Thread} {h : Hdr} (f : EF) (r : Runs s th h) (unpoisoned : (baseOf th f.a).p = false)
include unpoisoned

theorem cfgBerth_in_range (small : (berthNamed th f).toNat < 2048) : cfgBerth th f s = .ok ((berthNamed th f).toNat, s) := by
  rw [cfgBerth, srcImm_eq_baseOf]
  exact berthM_in_range unpoisoned small s

theorem cfgBerth_out_of_range (large : 2048 ≤ (berthNamed th f).toNat) : cfgBerth th f s = .error (.trap cBERTH_RANGE (berthNamed th f)) := by
  rw [cfgBerth, srcImm_eq_baseOf]
  exact berthM_out_of_range unpoisoned large s

include r

/-- An instruction that first names a berth of 2,048 or more traps, whatever it would do with the berth. -/
theorem issue_cfgBerth_out_of_range {i : Instr} {maj fn len : Nat} {body : Thread → Nat → M Unit} (large : 2048 ≤ (berthNamed th f).toNat) :
    issue i h maj fn len s (fun th => cfgBerth th f >>= body th) = .next (s.trapEnter s.cur 0x0D (berthNamed th f)) :=
  issue_trap r (by rw [run_bind, cfgBerth_out_of_range f unpoisoned large]; rfl)

section
variable (small : (berthNamed th f).toNat < 2048)
include small

/-- BCFG of a legal word on a berth without waiters. -/
theorem execBcfg_configures (legal : LegalConfig (baseOf th f.b).v) (idle : ((s.core s.here).berth (berthNamed th f).toNat).waiters = []) :
    Goes ((s.doomWaiting s.here (berthNamed th f).toNat).setBerth s.here (berthNamed th f).toNat (berthOf (baseOf th f.b).v))
      { th with pc := th.after 12 } (execBcfg h f s) := by
  have named := cfgBerth_in_range (s := s) f unpoisoned small
  have word : src th f.b = baseOf th f.b := srcImm_eq_baseOf th f.b
  obtain ⟨ps, marked, -, -⟩ := s.doomWaiting_marks s.here (berthNamed th f).toNat
  have place : SamePlace s (s.doomWaiting s.here (berthNamed th f).toNat) := by
    rw [marked]
    exact ⟨rfl, rfl⟩
  refine issue_goes r ?_ (place.trans (SamePlace.setBerth _ _ _ _))
  simp [named, word, idle, (cfgOk_iff _).mpr legal, State.setBerth]

/-- Any other BCFG traps. -/
theorem execBcfg_refused (bad : ¬ LegalConfig (baseOf th f.b).v ∨ ((s.core s.here).berth (berthNamed th f).toNat).waiters ≠ []) :
    execBcfg h f s = .next (s.trapEnter s.cur 0x0D (berthNamed th f)) := by
  have named := cfgBerth_in_range (s := s) f unpoisoned small
  have word : src th f.b = baseOf th f.b := srcImm_eq_baseOf th f.b
  have fails : (((s.core s.here).berth (berthNamed th f).toNat).waiters.isEmpty && cfgOk (baseOf th f.b).v) = false := by
    rw [Bool.and_eq_false_iff, List.isEmpty_eq_false_iff, Bool.eq_false_iff, ne_eq (cfgOk _), cfgOk_iff]
    exact bad.symm
  exact issue_trap r (by simp [named, word, fails, cBERTH_RANGE])

theorem execBread_writes :
    WritesX s th 12 f.d (clean ((s.core s.here).berth (berthNamed th f).toNat).status) (execBread h f s) := by
  have named := cfgBerth_in_range (s := s) f unpoisoned small
  obtain ⟨t, written, held, kept, -⟩ := writeX_ok f.d (clean ((s.core s.here).berth (berthNamed th f).toNat).status) s r.thread
  have ran : execBread h f s = .next (t.retire s.cur (th.after 12) none) := issue_ok r (by simp only [run_bind, named, run_getS, written])
  rw [ran]
  exact Goes.retire _ kept held

theorem execBclr_clears :
    Goes (s.setBerth s.here (berthNamed th f).toNat { (s.core s.here).berth (berthNamed th f).toNat with count := 0, ovf := false })
      { th with pc := th.after 12 } (execBclr h f s) := by
  have named := cfgBerth_in_range (s := s) f unpoisoned small
  exact issue_goes r (by simp only [run_bind, named, run_modS]; rfl) (SamePlace.setBerth _ _ _ _)

end

end

end Sys2Proof.Machine

namespace Sys2Proof.Proofs

open Sys2Proof.Machine

/-- Settles O47: BCFG configures a berth without waiters by a legal word, marking the packets that wait for its full ring, and traps otherwise; BREAD
returns the status word; BCLR clears COUNT and OVF. -/
theorem berthConfiguration : Obligations.BerthConfiguration := by
  intro s th h f r unpoisoned v n x w part kind legal next refuses setTo
  refine ⟨fun large => ⟨issue_cfgBerth_out_of_range f r unpoisoned large, issue_cfgBerth_out_of_range f r unpoisoned large,
    issue_cfgBerth_out_of_range f r unpoisoned large⟩, fun small => ⟨fun ok idle => ?configures, execBcfg_refused f r unpoisoned small,
    execBclr_clears f r unpoisoned small, x.status, execBread_writes f r unpoisoned small, x.status_fields⟩⟩
  case configures =>
    obtain ⟨ps, marked, length, doomed⟩ := s.doomWaiting_marks s.here n
    have configured := execBcfg_configures f r unpoisoned small ok idle
    refine ⟨ps, marked ▸ configured, length, fun i p found => ?_⟩
    obtain ⟨d, kept, marks⟩ := doomed i p found
    refine ⟨d, kept, marks.trans (or_congr_right ?_)⟩
    rw [Berth.ringFull, decide_eq_true_eq, and_assoc]
    rfl

end Sys2Proof.Proofs
end
